-- ==== Sys2Proof/Word.lean ====
section
/-! DEFINITION. The machine's words: a 64-bit register word, a byte, a vector register, a predicate. -/

namespace Sys2Proof

/-- A scalar register or a memory word of 8 bytes (R125). -/
abbrev Word := BitVec 64

/-- The smallest addressable unit of memory. -/
abbrev Byte := BitVec 8

/-- One vector register (R156). -/
abbrev VReg := BitVec 1024

/-- One predicate register (R160). -/
abbrev Pred := BitVec 128

end Sys2Proof
end

