-- ==== Sys2Proof/Config.lean ====
section
/-! DEFINITION. What the spec leaves open as a VALUE (free values without a body) and the functions the
spec names without defining (SHAKE256, ML-DSA-65). Nothing in Lean can compute or prove a value of them. -/

namespace Sys2Proof.Config

/-- Free value for a scalar register the spec calls undefined (R48, assumption 2). -/
opaque freeWord : Nat → Word
/-- Free value for a predicate the spec calls undefined (R48, assumption 2). -/
opaque freePred : Nat → Pred
/-- Free value for a window register the spec calls undefined (R48, assumption 2). -/
opaque freeVReg : Nat → VReg

/-- Free value for a byte of a halt area, whose layout the spec does not give (R360, assumption 62). -/
opaque freeByte : Nat → Byte

/-- SHAKE256 with a 32-byte digest (R122, R371), uninterpreted (assumption 6). -/
opaque shake256 : List Byte → BitVec 256
/-- The 64-byte digest of a checkpoint (R366), over its listed cells, uninterpreted (assumption 6). -/
opaque checkpointDigest : List (Nat × Byte) → BitVec 512
/-- ML-DSA-65 verification under the eight provisioned keys (R369), uninterpreted (assumption 6). -/
opaque mldsaVerify : List Byte → List Byte → Bool
/-- The 3,309-byte ML-DSA-65 signature under the identity key (R371); byte i of it (assumption 6). -/
opaque attestSign : List Byte → Nat → Byte
/-- Byte i of the identity public key `mw.idpk` (R362), fixed at manufacture (assumption 6). -/
opaque identityKey : Nat → Byte
/-- Byte i of the firmware measurement (R371), not given by the spec (assumption 6). -/
opaque firmwareMeasurement : Nat → Byte

/-- A relocation (R119): bits `pos` to `pos + width − 1` of section `sec` hold the address of the label at offset `off` of section
`target`, shifted right by `shift`. -/
structure Reloc where
  sec : Nat
  pos : Nat
  width : Nat
  target : Nat
  off : Nat
  shift : Nat
deriving DecidableEq, Repr
/-- The relocations of a container file (R119): the spec does not say where a file keeps them (assumption 2). -/
opaque relocations : List Byte → List Reloc

/-- The status a halt of a launch that has already retired shows (R360), whose number the spec does not give (assumption 2). -/
opaque retiredStatus : BitVec 8

end Sys2Proof.Config
end

