-- ==== Sys2Proof/Machine/Float.lean ====
section
/-! DEFINITION. The arithmetic of 04: floating-point formats, exact intermediate values, the one rounding (R79 to
R85), minimum, maximum and comparison (R83), conversions (R72), block floating point (R75, R76), complex products
(R77), the special functions (R173) and the random bits (R90). Lane contents are numbers below 2 ^ width. -/

namespace Sys2Proof.Machine

/-- A binary format: exponent and fraction widths (R73, R78). -/
structure Fmt where
  eb : Nat
  mb : Nat
deriving DecidableEq, Repr

/-- FP32 (R73). -/
def fp32 : Fmt := ⟨8, 23⟩
/-- BF16 (R73). -/
def bf16 : Fmt := ⟨8, 7⟩
/-- FP16 (R73). -/
def fp16 : Fmt := ⟨5, 10⟩
/-- ACC48 (R78). -/
def acc48 : Fmt := ⟨10, 37⟩
/-- The floating-point format of a code 4 to 6 (R71). -/
def fmtOf (ty : Nat) : Fmt := if ty == 4 then bf16 else if ty == 5 then fp16 else fp32

/-- Exponent bias. -/
def Fmt.bias (f : Fmt) : Nat := 2 ^ (f.eb - 1) - 1
/-- The encoding of +∞. -/
def Fmt.inf (f : Fmt) : Nat := (2 ^ f.eb - 1) * 2 ^ f.mb
/-- The canonical quiet NaN (R73, R78). -/
def Fmt.qnan (f : Fmt) : Nat := f.inf + 2 ^ (f.mb - 1)
/-- The largest finite value. -/
def Fmt.maxFin (f : Fmt) : Nat := f.inf - 1
/-- The sign bit. -/
def Fmt.signBit (f : Fmt) : Nat := 2 ^ (f.eb + f.mb)
/-- With a sign. -/
def Fmt.signed (f : Fmt) (neg : Bool) (x : Nat) : Nat := if neg then f.signBit + x else x
/-- The exponent of one unit in the last place of a subnormal. -/
def Fmt.emin (f : Fmt) : Int := 1 - (f.bias : Int) - (f.mb : Int)

/-- Sticky flags (R82): nv, dz, of, uf, nx, sat from bit 0. -/
abbrev Flags := BitVec 6

/-- Invalid. -/
def fNv : Flags := 1
/-- Division by zero. -/
def fDz : Flags := 2
/-- Overflow. -/
def fOf : Flags := 4
/-- Underflow. -/
def fUf : Flags := 8
/-- Inexact. -/
def fNx : Flags := 16
/-- Saturation. -/
def fSat : Flags := 32
/-- A flag when a condition holds. -/
def flagIf (c : Bool) (f : Flags) : Flags := if c then f else 0

/-- What an encoding stands for: a NaN, an infinity, or ± m × 2 ^ e. -/
inductive FVal where
  | nan (signalling : Bool)
  | inf (neg : Bool)
  | fin (neg : Bool) (m : Nat) (e : Int)
deriving DecidableEq, Repr

/-- The value of an encoding. A NaN whose top fraction bit is clear is signalling in every format: of an ACC48 NaN, which only an `arest`
image can hold so, R78 says no more than that it is a NaN (DESIGN CHOICE, assumption 107). -/
def unpack (f : Fmt) (x : Nat) : FVal :=
  let neg := x / f.signBit % 2 == 1
  let ex := x / 2 ^ f.mb % 2 ^ f.eb
  let fr := x % 2 ^ f.mb
  if ex == 2 ^ f.eb - 1 then
    if fr == 0 then .inf neg else .nan (fr < 2 ^ (f.mb - 1))
  else if ex == 0 then .fin neg fr f.emin
  else .fin neg (fr + 2 ^ f.mb) (f.emin + (ex : Int) - 1)

/-- The value is a NaN. -/
def FVal.isNan (v : FVal) : Bool :=
  match v with
  | .nan _ => true
  | _ => false

/-- The value is a signalling NaN. -/
def FVal.isSnan (v : FVal) : Bool :=
  match v with
  | .nan s => s
  | _ => false

/-- Negated, NaN unchanged. -/
def FVal.neg (v : FVal) : FVal :=
  match v with
  | .nan s => .nan s
  | .inf n => .inf (!n)
  | .fin n m e => .fin (!n) m e

/-- The increment of a truncated magnitude under a mode (R79): `odd` last bit, `half` and `low` the first dropped bit
and whether anything lies below it. -/
def roundsUp (mode : Nat) (neg odd half low : Bool) : Bool :=
  match mode with
  | 1 => false
  | 2 => neg && (half || low)
  | 3 => !neg && (half || low)
  | _ => half && (low || odd)

/-- m × 2 ^ e (and something more below the last bit when `sticky`) cut to a multiple of 2 ^ u: kept, half, low. -/
def cutAt (m : Nat) (e u : Int) (sticky : Bool) : Nat × Bool × Bool :=
  if u ≤ e then (m * 2 ^ (e - u).toNat, false, sticky)
  else
    let k := (u - e).toNat
    (m / 2 ^ k, m / 2 ^ (k - 1) % 2 == 1, m % 2 ^ (k - 1) != 0 || sticky)

/-- The magnitude encoding of m × 2 ^ e under a mode with unbounded exponent above, and whether it is inexact. -/
def roundMag (f : Fmt) (mode : Nat) (neg : Bool) (m : Nat) (e : Int) (sticky : Bool) : Nat × Bool :=
  let top : Int := (Nat.log2 m : Int) + e
  let u : Int := max (top - (f.mb : Int)) f.emin
  let (kept, half, low) := cutAt m e u sticky
  let up := roundsUp mode neg (kept % 2 == 1) half low
  ((u - f.emin).toNat * 2 ^ f.mb + (if up then kept + 1 else kept), half || low)

/-- A result below the normal range after rounding with unbounded exponent (R82, uf). -/
def tinyAfter (f : Fmt) (mode : Nat) (neg : Bool) (m : Nat) (e : Int) (sticky : Bool) : Bool :=
  let top : Int := (Nat.log2 m : Int) + e
  let nrm : Int := f.emin + (f.mb : Int)
  if nrm ≤ top then false
  else if top < nrm - 1 then true
  else
    let (kept, half, low) := cutAt m e (top - (f.mb : Int)) sticky
    decide ((if roundsUp mode neg (kept % 2 == 1) half low then kept + 1 else kept) < 2 ^ (f.mb + 1))

/-- Overflow goes to infinity under a mode (R84). -/
def overflowInf (mode : Nat) (neg : Bool) : Bool :=
  match mode with
  | 1 => false
  | 2 => neg
  | 3 => !neg
  | _ => true

/-- A finite exact value ± m × 2 ^ e rounded into a format under mode 0 to 3 (R79, R84, R85): it overflows when the value rounded with
unbounded exponent exceeds the largest finite one. The flags of R85's RTZ example do not follow from that rule (assumption 8). -/
def roundFin (f : Fmt) (mode : Nat) (sat neg : Bool) (m : Nat) (e : Int) (sticky : Bool) : Nat × Flags :=
  if m == 0 then (f.signed neg 0, 0)
  else
    let r := roundMag f mode neg m e sticky
    if f.inf ≤ r.1 then
      (f.signed neg (if sat || !overflowInf mode neg then f.maxFin else f.inf), fOf ||| fNx)
    else (f.signed neg r.1, flagIf r.2 fNx ||| flagIf (r.2 && tinyAfter f mode neg m e sticky) fUf)

/-- An infinite result, written as the largest finite value by a `.sat` form (R85). -/
def infResult (f : Fmt) (sat neg : Bool) : Nat := f.signed neg (if sat then f.maxFin else f.inf)

/-- Stochastic rounding of a finite value to BF16 with random bits `rho` (R80). R80 does not name `uf`: here it is raised for an inexact
result below the normal BF16 numbers (DESIGN CHOICE, assumption 87). -/
def roundSr (sat neg : Bool) (m : Nat) (e : Int) (sticky : Bool) (rho : Nat) : Nat × Flags :=
  let y := roundFin fp32 0 false neg m e sticky
  let u := y.1 % 2 ^ 31
  if fp32.inf ≤ u then (infResult bf16 sat neg, y.2)
  else
    let t := u + rho
    let inexact := u % 2 ^ 16 != 0
    if fp32.inf ≤ t then (infResult bf16 sat neg, fOf ||| fNx)
    else
      let fl := (y.2 &&& fNx) ||| flagIf inexact fNx
      (bf16.signed neg (t / 2 ^ 16), fl ||| flagIf (fl != 0 && decide (t / 2 ^ 16 < 2 ^ 7)) fUf)

/-- How a result is rounded: the mode, saturation, and the random bits when stochastic rounding applies (R80: only a
BF16 destination; any other destination is rounded RNE). -/
structure Rnd where
  mode : Nat
  sat : Bool
  rho : Nat
deriving DecidableEq, Repr

/-- The mode with SR read as RNE. -/
def Rnd.plain (r : Rnd) : Nat := if r.mode == 4 then 0 else r.mode

/-- A finite exact value rounded once into a format. -/
def roundTo (f : Fmt) (r : Rnd) (neg : Bool) (m : Nat) (e : Int) (sticky : Bool) : Nat × Flags :=
  if r.mode == 4 && f == bf16 then
    if m == 0 then (f.signed neg 0, 0) else roundSr r.sat neg m e sticky r.rho
  else roundFin f r.plain r.sat neg m e sticky

/-- Round to nearest even, no saturation. -/
def rne : Rnd := ⟨0, false, 0⟩

/-- A value rounded into a format; a NaN becomes canonical (R74). -/
def roundVal (f : Fmt) (r : Rnd) (v : FVal) : Nat × Flags :=
  match v with
  | .nan _ => (f.qnan, 0)
  | .inf n => (infResult f r.sat n, 0)
  | .fin n m e => roundTo f r n m e false

/-- The signed mantissa. -/
def sgn (neg : Bool) (m : Nat) : Int := if neg then -(m : Int) else m

/-- The exact sum of two finite values; an exact zero is +0, or −0 under RDN, unless both are zeros of one sign. -/
def addFin (down n1 : Bool) (m1 : Nat) (e1 : Int) (n2 : Bool) (m2 : Nat) (e2 : Int) : FVal :=
  let e := min e1 e2
  let s := sgn n1 m1 * 2 ^ (e1 - e).toNat + sgn n2 m2 * 2 ^ (e2 - e).toNat
  if s == 0 then
    .fin (if m1 == 0 && m2 == 0 && n1 == n2 then n1 else down) 0 e
  else .fin (decide (s < 0)) s.natAbs e

/-- The exact sum with its invalid case (R82). -/
def addVal (down : Bool) (a b : FVal) : FVal × Flags :=
  match a, b with
  | .nan s, y => (.nan false, flagIf (s || y.isSnan) fNv)
  | _, .nan s => (.nan false, flagIf s fNv)
  | .inf n, .inf k => if n == k then (.inf n, 0) else (.nan false, fNv)
  | .inf n, _ => (.inf n, 0)
  | _, .inf n => (.inf n, 0)
  | .fin n1 m1 e1, .fin n2 m2 e2 => (addFin down n1 m1 e1 n2 m2 e2, 0)

/-- The exact product with its invalid case. -/
def mulVal (a b : FVal) : FVal × Flags :=
  match a, b with
  | .nan s, y => (.nan false, flagIf (s || y.isSnan) fNv)
  | _, .nan s => (.nan false, flagIf s fNv)
  | .inf n, .inf k => (.inf (n != k), 0)
  | .inf n, .fin k m _ => if m == 0 then (.nan false, fNv) else (.inf (n != k), 0)
  | .fin k m _, .inf n => if m == 0 then (.nan false, fNv) else (.inf (n != k), 0)
  | .fin n1 m1 e1, .fin n2 m2 e2 => (.fin (n1 != n2) (m1 * m2) (e1 + e2), 0)

/-- ±a × b ± c exactly; 0 × ∞ is invalid whatever the addend (R82, R170). -/
def fmaVal (down negP negC : Bool) (a b c : FVal) : FVal × Flags :=
  let p := mulVal a b
  let s := addVal down (if negP then p.1.neg else p.1) (if negC then c.neg else c)
  (s.1, p.2 ||| s.2)

/-- Finish an exact result: round it and join the flags. -/
def finish (f : Fmt) (r : Rnd) (v : FVal × Flags) : Nat × Flags :=
  let x := roundVal f r v.1
  (x.1, v.2 ||| x.2)

/-- a + b rounded (R168). -/
def fadd (f : Fmt) (r : Rnd) (a b : Nat) : Nat × Flags :=
  finish f r (addVal (r.plain == 2) (unpack f a) (unpack f b))

/-- a − b rounded. -/
def fsub (f : Fmt) (r : Rnd) (a b : Nat) : Nat × Flags :=
  finish f r (addVal (r.plain == 2) (unpack f a) (unpack f b).neg)

/-- a × b rounded. -/
def fmul (f : Fmt) (r : Rnd) (a b : Nat) : Nat × Flags := finish f r (mulVal (unpack f a) (unpack f b))

/-- ±a × b ± c rounded once (R170). -/
def ffma (f : Fmt) (r : Rnd) (negP negC : Bool) (a b c : Nat) : Nat × Flags :=
  finish f r (fmaVal (r.plain == 2) negP negC (unpack f a) (unpack f b) (unpack f c))

/-- a ÷ b of finite nonzero values to 80 quotient bits more than the operands need, with a sticky bit. -/
def divFin (n1 : Bool) (m1 : Nat) (e1 : Int) (n2 : Bool) (m2 : Nat) (e2 : Int) : Bool × Nat × Int × Bool :=
  let k := Nat.log2 m2 + 80
  let q := m1 * 2 ^ k / m2
  (n1 != n2, q, e1 - e2 - (k : Int), m1 * 2 ^ k % m2 != 0)

/-- a ÷ b rounded. -/
def fdiv (f : Fmt) (r : Rnd) (a b : Nat) : Nat × Flags :=
  match unpack f a, unpack f b with
  | .nan s, y => (f.qnan, flagIf (s || y.isSnan) fNv)
  | _, .nan s => (f.qnan, flagIf s fNv)
  | .inf _, .inf _ => (f.qnan, fNv)
  | .inf n, .fin k _ _ => (infResult f r.sat (n != k), 0)
  | .fin n _ _, .inf k => (f.signed (n != k) 0, 0)
  | .fin n1 m1 e1, .fin n2 m2 e2 =>
    if m2 == 0 then
      if m1 == 0 then (f.qnan, fNv) else (infResult f r.sat (n1 != n2), fDz)
    else if m1 == 0 then (f.signed (n1 != n2) 0, 0)
    else
      let (n, q, e, st) := divFin n1 m1 e1 n2 m2 e2
      roundTo f r n q e st

/-- The order of two non-NaN values, −0 below +0: a is below b. -/
def fltBelow (f : Fmt) (a b : Nat) : Bool :=
  let na := a / f.signBit % 2 == 1
  let nb := b / f.signBit % 2 == 1
  let ma := a % f.signBit
  let mb := b % f.signBit
  match na, nb with
  | true, false => true
  | false, true => false
  | false, false => ma < mb
  | true, true => mb < ma

/-- Minimum and maximum (R83): `least` for min, `prop` for the NaN-propagating families. -/
def fminmax (f : Fmt) (least prop : Bool) (a b : Nat) : Nat × Flags :=
  let x := unpack f a
  let y := unpack f b
  if x.isSnan || y.isSnan then (f.qnan, fNv)
  else if x.isNan && y.isNan then (f.qnan, 0)
  else if x.isNan then (if prop then f.qnan else b, 0)
  else if y.isNan then (if prop then f.qnan else a, 0)
  else if fltBelow f a b == least then (a, 0) else (b, 0)

/-- Comparison into a predicate (R83, R181): cc 0 equal, 1 not equal, 2 less, 3 less or equal. -/
def fcompare (f : Fmt) (cc a b : Nat) : Bool × Flags :=
  let x := unpack f a
  let y := unpack f b
  if x.isNan || y.isNan then (cc == 1, flagIf (x.isSnan || y.isSnan) fNv)
  else
    let zero := a % f.signBit == 0 && b % f.signBit == 0
    let eq := a == b || zero
    let lt := !zero && fltBelow f a b
    (match cc with
     | 0 => eq
     | 1 => !eq
     | 2 => lt
     | _ => lt || eq, 0)

/-! ## Integers -/

/-- A w-bit field read as two's complement or unsigned (R72). -/
def readInt (w : Nat) (uns : Bool) (x : Nat) : Int :=
  let y := x % 2 ^ w
  if uns || y < 2 ^ (w - 1) then y else (y : Int) - 2 ^ w

/-- An exact integer wrapped to w bits. -/
def wrapInt (w : Nat) (t : Int) : Nat := (t % 2 ^ w).toNat

/-- The least value of a reading. -/
def intLo (w : Nat) (uns : Bool) : Int := if uns then 0 else -(2 ^ (w - 1))
/-- The greatest value of a reading. -/
def intHi (w : Nat) (uns : Bool) : Int := if uns then 2 ^ w - 1 else 2 ^ (w - 1) - 1
/-- SAT (R72). -/
def clampInt (w : Nat) (uns : Bool) (t : Int) : Int := max (intLo w uns) (min (intHi w uns) t)

/-- An exact integer written to w bits, wrapping or saturating (R72). -/
def putInt (w : Nat) (uns sat : Bool) (t : Int) : Nat × Flags :=
  if sat then (wrapInt w (clampInt w uns t), flagIf (clampInt w uns t != t) fSat) else (wrapInt w t, 0)

/-- A value rounded to an integer under a mode, and whether that changed it. -/
def roundInt (mode : Nat) (neg : Bool) (m : Nat) (e : Int) (sticky : Bool) : Int × Bool :=
  let (kept, half, low) := cutAt m e 0 sticky
  (sgn neg (if roundsUp mode neg (kept % 2 == 1) half low then kept + 1 else kept), half || low)

/-- A floating-point value converted to a w-bit integer (R72). -/
def floatToInt (mode w : Nat) (uns : Bool) (v : FVal) : Nat × Flags :=
  match v with
  | .nan _ => (0, fNv)
  | .inf n => (wrapInt w (if n then intLo w uns else intHi w uns), fNv)
  | .fin n m e =>
    let r := roundInt mode n m e false
    let t := clampInt w uns r.1
    (wrapInt w t, if t != r.1 then fNv else flagIf r.2 fNx)

/-- An integer as an exact value. -/
def intVal (t : Int) : FVal := .fin (decide (t < 0)) t.natAbs 0

/-! ## The random bits (R90) -/

/-- mix of R90. -/
def mix64 (z0 : Word) : Word :=
  let z1 := (z0 ^^^ (z0 >>> 30)) * 0xBF58476D1CE4E5B9#64
  let z2 := (z1 ^^^ (z1 >>> 27)) * 0x94D049BB133111EB#64
  z2 ^^^ (z2 >>> 31)

/-- G(key, tid, idx). -/
def rndBits (key tid idx : Word) : Word :=
  mix64 (mix64 (key ^^^ (tid * 0x9E3779B97F4A7C15#64)) + idx * 0x9E3779B97F4A7C15#64)

/-- ρ of R80 for element i under a `kseq` value (key bits 63:32, counter bits 31:0). -/
def srRho (kseq : Word) (i : Nat) : Nat :=
  (rndBits (kseq >>> 32) (kseq &&& 0xFFFFFFFF#64) (BitVec.ofNat 64 i)).toNat % 2 ^ 16

/-! ## Block floating point (R75, R76) -/

/-- Bits of one BFPm block. -/
def bfpBits (m : Nat) : Nat := 8 + 32 * m

/-- Element i of a block held as a number of 8 + 32 m bits; a block with E = 0xFF is all NaN. -/
def bfpElem (m blk i : Nat) : FVal :=
  if blk % 256 == 255 then .nan false
  else
    let t := readInt m false (blk / 2 ^ (8 + m * i))
    .fin (decide (t < 0)) t.natAbs (((blk % 256 : Nat) : Int) - 127 - ((m : Int) - 2))

/-- The largest exponent e with 2 ^ e ≤ |x| over the finite nonzero values of a list. -/
def maxExp (vs : List FVal) : Option Int :=
  vs.foldl (fun acc v =>
    match v with
    | .fin _ m e =>
      if m == 0 then acc
      else
        let t : Int := (Nat.log2 m : Int) + e
        match acc with
        | none => some t
        | some a => some (max a t)
    | _ => acc) none

/-- Quantisation of 32 values into a BFPm block (R76). -/
def bfpQuant (m mode : Nat) (vs : List FVal) : Nat × Flags :=
  if vs.any (fun v => match v with
    | .fin .. => false
    | _ => true) then (255, flagIf (vs.any FVal.isNan) fNv)
  else
    match maxExp vs with
    | none => (0, 0)
    | some e =>
      let ee : Int := max (e + 127) 0
      let one (v : FVal) : Nat × Flags :=
        match v with
        | .fin n mm ex =>
          let r := roundInt mode n mm (ex + (127 + (m : Int) - 2 - ee)) false
          let t := clampInt m false r.1
          (wrapInt m t, if t != r.1 then fSat ||| fNx else flagIf r.2 fNx)
        | _ => (0, 0)
      let ms := vs.map one
      (ee.toNat + 256 * (ms.foldr (fun x acc => x.1 + 2 ^ m * acc) 0), ms.foldl (fun a x => a ||| x.2) 0)

/-! ## Complex products (R77) -/

/-- (a + bi)(c + di) over FP32 halves: re in bits 31:0, im in bits 63:32. -/
def cmul (r : Rnd) (x y : Nat) : Nat × Flags :=
  let a := x % 2 ^ 32
  let b := x / 2 ^ 32 % 2 ^ 32
  let c := y % 2 ^ 32
  let d := y / 2 ^ 32 % 2 ^ 32
  let bd := fmul fp32 rne b d
  let bc := fmul fp32 rne b c
  let re := ffma fp32 r false true a c bd.1
  let im := ffma fp32 r false false a d bc.1
  let nan := (unpack fp32 re.1).isNan || (unpack fp32 im.1).isNan
  (if nan then fp32.qnan + 2 ^ 32 * fp32.qnan else re.1 + 2 ^ 32 * im.1, bd.2 ||| bc.2 ||| re.2 ||| im.2)

/-- Sum of two complex values, each half rounded once. -/
def cadd (r : Rnd) (x y : Nat) : Nat × Flags :=
  let re := fadd fp32 r (x % 2 ^ 32) (y % 2 ^ 32)
  let im := fadd fp32 r (x / 2 ^ 32 % 2 ^ 32) (y / 2 ^ 32 % 2 ^ 32)
  let nan := (unpack fp32 re.1).isNan || (unpack fp32 im.1).isNan
  (if nan then fp32.qnan + 2 ^ 32 * fp32.qnan else re.1 + 2 ^ 32 * im.1, re.2 ||| im.2)

/-! ## Special functions (R173)

An irrational result is computed in fixed point with 256 fraction bits, cut to 216, and rounded with the rest below the
last bit; 216 bits lie far beyond what the hardest operand of these formats needs (assumption 9). -/

/-- Working precision. -/
def fxP : Nat := 256

/-- ⌊2 ^ 256 ln 2⌋. -/
def fxLn2 : Nat := 0xb17217f7d1cf79abc9e3b39803f2f6af40f343267298b62d8a0d175b8baafa2b

/-- ⌊2 ^ 256 ÷ ln 2⌋. -/
def fxLog2e : Nat := 0x171547652b82fe1777d0ffda0d23a7d11d6aef551bad2b4b1164a2cd9a342648f

/-- Taylor terms of e ^ y, y a fraction in 2 ^ −256 units: sum so far, last term, index. -/
def fxExpLoop (y : Nat) : Nat → Nat → Nat → Nat → Nat
  | 0, acc, _, _ => acc
  | fuel + 1, acc, t, k =>
    let t' := t * y / 2 ^ fxP / k
    fxExpLoop y fuel (acc + t') t' (k + 1)

/-- 2 ^ f × 2 ^ 256 for a fraction f (in 2 ^ −256 units) in [0, 1). -/
def fxExp2 (f : Nat) : Nat :=
  fxExpLoop (f * fxLn2 / 2 ^ fxP) 80 (2 ^ fxP) (2 ^ fxP) 1

/-- The terms z ^ (2k+1) ÷ (2k+1) of artanh z. -/
def fxAtanhLoop (zz : Nat) : Nat → Nat → Nat → Nat → Nat
  | 0, acc, _, _ => acc
  | fuel + 1, acc, t, k => fxAtanhLoop zz fuel (acc + t / k) (t * zz / 2 ^ fxP) (k + 2)

/-- ln of v ÷ 2 ^ 256 for v in [2 ^ 256, 2 ^ 257). -/
def fxLn (v : Nat) : Nat :=
  let z := (v - 2 ^ fxP) * 2 ^ fxP / (v + 2 ^ fxP)
  2 * fxAtanhLoop (z * z / 2 ^ fxP) 96 0 z 1

/-- ± m × 2 ^ e in 2 ^ −256 units, floor. -/
def toFx (neg : Bool) (m : Nat) (e : Int) : Int :=
  let s := e + (fxP : Int)
  let t : Int := if 0 ≤ s then sgn neg m * 2 ^ s.toNat else sgn neg m / 2 ^ (-s).toNat
  t

/-- 2 ^ x for x in 2 ^ −256 units, as mantissa in [2 ^ 256, 2 ^ 257) and exponent of its unit. -/
def fxPow2 (x : Int) : Nat × Int :=
  (fxExp2 (x % 2 ^ fxP).toNat, x / 2 ^ fxP - (fxP : Int))

/-- Cut a computed mantissa by 40 bits before it is rounded. -/
def fxCut (m : Nat) (e : Int) : Nat × Int := (m / 2 ^ 40, e + 40)

/-- Round an irrational positive result, sign given. -/
def roundIrr (f : Fmt) (r : Rnd) (neg : Bool) (m : Nat) (e : Int) : Nat × Flags :=
  let c := fxCut m e
  roundTo f r neg c.1 c.2 true

/-- ⌊√n⌋ bit by bit. -/
def isqrtLoop (n : Nat) : Nat → Nat → Nat
  | 0, r => r
  | k + 1, r => isqrtLoop n k (if (r + 2 ^ k) * (r + 2 ^ k) ≤ n then r + 2 ^ k else r)

/-- Integer square root of a number below 2 ^ (2 × 200). -/
def isqrt (n : Nat) : Nat := isqrtLoop n 200 0

/-- `vrcp`: 1 ÷ x. -/
def fnRcp (f : Fmt) (r : Rnd) (x : Nat) : Nat × Flags :=
  match unpack f x with
  | .nan s => (f.qnan, flagIf s fNv)
  | .inf n => (f.signed n 0, 0)
  | .fin n m e =>
    if m == 0 then (infResult f r.sat n, fDz)
    else
      let (n', q, e', st) := divFin false 1 0 n m e
      roundTo f r n' q e' st

/-- `vrsq`: 1 ÷ √x. -/
def fnRsq (f : Fmt) (r : Rnd) (x : Nat) : Nat × Flags :=
  match unpack f x with
  | .nan s => (f.qnan, flagIf s fNv)
  | .inf n => if n then (f.qnan, fNv) else (f.signed false 0, 0)
  | .fin n m e =>
    if m == 0 then (infResult f r.sat n, fDz)
    else if n then (f.qnan, fNv)
    else
      let m2 := if e % 2 == 0 then m else 2 * m
      let e2 := if e % 2 == 0 then e else e - 1
      let q := 2 ^ 240 / m2
      let s := isqrt q
      roundTo f r false s (-120 - e2 / 2) (s * s * m2 != 2 ^ 240)

/-- `vexp2`: 2 ^ x, exact for integers in range. -/
def fnExp2 (f : Fmt) (r : Rnd) (x : Nat) : Nat × Flags :=
  match unpack f x with
  | .nan s => (f.qnan, flagIf s fNv)
  | .inf n => if n then (f.signed false 0, 0) else (infResult f r.sat false, 0)
  | .fin n m e =>
    if m == 0 then roundTo f r false 1 0 false
    else if 12 ≤ (Nat.log2 m : Int) + e then roundTo f r false 1 (if n then -2000 else 2000) false
    else
      let y := toFx n m e
      if y % 2 ^ fxP == 0 then roundTo f r false 1 (y / 2 ^ fxP) false
      else
        let p := fxPow2 y
        roundIrr f r false p.1 p.2

/-- `vlog2`: log2 x. -/
def fnLog2 (f : Fmt) (r : Rnd) (x : Nat) : Nat × Flags :=
  match unpack f x with
  | .nan s => (f.qnan, flagIf s fNv)
  | .inf n => if n then (f.qnan, fNv) else (infResult f r.sat false, 0)
  | .fin n m e =>
    if m == 0 then (infResult f r.sat true, fDz)
    else if n then (f.qnan, fNv)
    else
      let l := Nat.log2 m
      let ex : Int := (l : Int) + e
      if m == 2 ^ l then roundTo f r (decide (ex < 0)) ex.natAbs 0 false
      else
        let v : Int := ex * 2 ^ fxP + ((fxLn (m * 2 ^ (fxP - l)) * 2 ^ fxP / fxLn2 : Nat) : Int)
        roundIrr f r (decide (v < 0)) v.natAbs (-(fxP : Int))

/-- e ^ −y for y ≥ 0 in 2 ^ −256 units. -/
def fxExpNeg (y : Nat) : Nat × Int := fxPow2 (-((y * fxLog2e / 2 ^ fxP : Nat) : Int))

/-- A positive fixed-point pair in 2 ^ −256 units. -/
def pairToFx (p : Nat × Int) : Nat :=
  let s := p.2 + (fxP : Int)
  if 0 ≤ s then p.1 * 2 ^ s.toNat else p.1 / 2 ^ (-s).toNat

/-- `vtanh`: tanh x. -/
def fnTanh (f : Fmt) (r : Rnd) (x : Nat) : Nat × Flags :=
  match unpack f x with
  | .nan s => (f.qnan, flagIf s fNv)
  | .inf n => roundTo f r n 1 0 false
  | .fin n m e =>
    if m == 0 then (f.signed n 0, 0)
    else
      let t : Int := (Nat.log2 m : Int) + e
      if 6 ≤ t then roundTo f r n (2 ^ 150 - 1) (-150) true
      else if t < -60 then roundTo f r n (m * 2 ^ 64 - 1) (e - 64) true
      else
        let y := (toFx false m (e + 1)).toNat
        let ex := pairToFx (fxExpNeg y)
        roundIrr f r n ((2 ^ fxP - ex) * 2 ^ fxP / (2 ^ fxP + ex)) (-(fxP : Int))

/-- `vsigm`: 1 ÷ (1 + e ^ −x). -/
def fnSigm (f : Fmt) (r : Rnd) (x : Nat) : Nat × Flags :=
  match unpack f x with
  | .nan s => (f.qnan, flagIf s fNv)
  | .inf n => if n then (f.signed false 0, 0) else roundTo f r false 1 0 false
  | .fin n m e =>
    if m == 0 then roundTo f r false 1 (-1) false
    else if 7 ≤ (Nat.log2 m : Int) + e then
      if n then roundTo f r false 1 (-400) true else roundTo f r false (2 ^ 150 - 1) (-150) true
    else
      let p := fxExpNeg (toFx false m e).toNat
      let ex := pairToFx p
      if n then roundIrr f r false (p.1 * 2 ^ fxP / (2 ^ fxP + ex)) p.2
      else roundIrr f r false (2 ^ (2 * fxP) / (2 ^ fxP + ex)) (-(fxP : Int))

end Sys2Proof.Machine
end

