-- ==== Sys2Proof/Machine/Geometry.lean ====
section
/-! DEFINITION. The geography of the module (R4 to R9, R15, R17, R283): numbers of cores, clusters, dies and hubs. A core is
named as in `src`: a linear number, or 2,048 + 8h + i for `ocore(h,i)`. -/

namespace Sys2Proof.Machine

/-- An optimiser core. -/
def isOpt (c : Nat) : Bool := decide (2048 ≤ c)
/-- The core numbers that exist (R284). -/
def coreExists (c : Nat) : Bool := decide (c < 2240)
/-- The stack hub of an optimiser core. -/
def hubOf (c : Nat) : Nat := (c - 2048) / 8
/-- The index of an optimiser core at its hub. -/
def ocoreIdx (c : Nat) : Nat := (c - 2048) % 8
/-- The optimiser core of a hub. -/
def ocore (h i : Nat) : Nat := 2048 + 8 * h + i
/-- The attachment cluster of a stack hub (R8). -/
def hubCluster (h : Nat) : Nat :=
  h / 3 * 16 + 12 + (match h % 3 with
    | 0 => 0
    | 1 => 1
    | _ => 3)
/-- The die of a core; an optimiser core counts for its hub's die (R8, R225). -/
def dieOf (c : Nat) : Nat := if isOpt c then hubOf c / 3 else c / 256
/-- Row of a compute core on its die. -/
def rowOf (c : Nat) : Nat := c % 256 / 16
/-- Column of a compute core on its die. -/
def colOf (c : Nat) : Nat := c % 16
/-- The cluster of a core (R4); for an optimiser core, its hub's attachment cluster (R8). -/
def clusterOf (c : Nat) : Nat :=
  if isOpt c then hubCluster (hubOf c) else c / 256 * 16 + rowOf c / 4 * 4 + colOf c / 4
/-- Position of a compute core in its cluster: 4 × local row + local column (R58, R351). -/
def posInCluster (c : Nat) : Nat := rowOf c % 4 * 4 + colOf c % 4
/-- The linear number of the core at a position of a cluster. -/
def coreAt (k p : Nat) : Nat := k / 16 * 256 + (k % 16 / 4 * 4 + p / 4) * 16 + (k % 4 * 4 + p % 4)
/-- The 16 cores of a cluster in ascending linear number. -/
def clusterCores (k : Nat) : List Nat := (List.range 16).map (coreAt k)
/-- Thread slots of a core (R11, R12). -/
def slotCount (c : Nat) : Nat := if isOpt c then 4 else 8
/-- Hops between two clusters, taken as though both lay on one die (R15). -/
def clusterHops (k l : Nat) : Nat :=
  let dr := k % 16 / 4
  let er := l % 16 / 4
  let dc := k % 4
  let ec := l % 4
  (dr - er) + (er - dr) + ((dc - ec) + (ec - dc))
/-- The migration distance from a core to a cluster (R128). -/
def migDistance (c k : Nat) : Nat := if dieOf c != k / 16 then 7 else clusterHops (clusterOf c) k
/-- `kcoord` of a core (R127). -/
def coordOf (c : Nat) : Word :=
  if isOpt c then BitVec.ofNat 64 (2 ^ 24 + hubOf c * 2 ^ 16 + ocoreIdx c) else BitVec.ofNat 64 c
/-- The source index of a core in the service map (R335). -/
def svcIndex (c : Nat) : Nat := if isOpt c then 128 + hubOf c else clusterOf c
/-- Home cluster of an expert name (R52). -/
def homeOf (name : Nat) : Nat := (name % 128) ^^^ (name / 2 ^ 7 % 128) ^^^ (name / 2 ^ 14 % 64)
/-- Cores of a die's communication reserve, in joining order (R45). -/
def reserveCore (die k : Nat) : Nat := die * 256 + (15 - k / 16) * 16 + k % 16
/-- The aligned block of `n` cores of a cluster that contains core `c`, in ascending linear number (R25). -/
def gangBlock (c n : Nat) : List Nat :=
  let r := rowOf c % 4
  let q := colOf c % 4
  (clusterCores (clusterOf c)).filter (fun m =>
    let mr := rowOf m % 4
    let mq := colOf m % 4
    if n == 2 then mr == r && mq / 2 == q / 2
    else if n == 4 then mr == r
    else if n == 8 then mr / 2 == r / 2
    else true)

end Sys2Proof.Machine
end

