-- ==== Sys2Proof/Machine/FMap.lean ====
section
/-! DEFINITION. Sparse maps from numbers, as plain data: a list of key and value pairs with rising keys. -/

namespace Sys2Proof.Machine

/-- A sparse map from numbers: keys strictly rising. -/
abbrev FMap (α : Type) := List (Nat × α)

/-- The value held for a key. -/
def fget? {α : Type} (m : FMap α) (k : Nat) : Option α :=
  match m with
  | [] => none
  | (j, a) :: rest => if j == k then some a else fget? rest k

/-- The value held for a key, or the default. -/
def fget {α : Type} (d : α) (m : FMap α) (k : Nat) : α :=
  match m with
  | [] => d
  | (j, a) :: rest => if j == k then a else fget d rest k

/-- The map with a value for a key. -/
def fset {α : Type} (m : FMap α) (k : Nat) (v : α) : FMap α :=
  match m with
  | [] => [(k, v)]
  | (j, a) :: rest => if j == k then (k, v) :: rest else if k < j then (k, v) :: (j, a) :: rest else (j, a) :: fset rest k v

/-- The map without a key. -/
def ferase {α : Type} (m : FMap α) (k : Nat) : FMap α := m.filter (fun p => p.1 != k)

/-- The keys in rising order. -/
def fkeys {α : Type} (m : FMap α) : List Nat := m.map (fun p => p.1)

/-- Apply a function to every value of a map. -/
def fvals {α : Type} (m : FMap α) (f : α → α) : FMap α := m.map (fun p => (p.1, f p.2))

/-- A list without its element at a position. -/
def dropAt {α : Type} (l : List α) (k : Nat) : List α := l.take k ++ l.drop (k + 1)

end Sys2Proof.Machine
end

