-- ==== Sys2Proof/Syntax.lean ====
section
/-! DEFINITION. The syntax: one constructor per row of spec/opcode_table.json. Rows that are instructions carry
their operand fields (R95 to R98); rows that are events of other agents have no operand field: which event it is stands in `State.ev`. -/

namespace Sys2Proof

/-- A single scalar register (G6 of width 0), by number. -/
abbrev R := Fin 16
/-- An aligned register pair g(2k), g(2k+1), by k. -/
abbrev GPair := Fin 8
/-- An aligned register octet g(8k) to g(8k+7), by k. -/
abbrev GOct := Fin 2
/-- A lookahead count L (R102). -/
abbrev Look := Fin 16

/-- A G6 operand whose width the entry leaves open (R95): width code and register number. -/
structure GOp where
  w : Fin 4
  n : Fin 16
deriving DecidableEq, Repr, Inhabited

/-- A window-relative vector operand (V7, R95). -/
structure VOp where
  w : Fin 4
  n : Fin 32
deriving DecidableEq, Repr, Inhabited

/-- Word 1 of an LV group (R98): third source, guard (none is the no-guard value p0–p7, R159), complement,
saturation, rounding override, modifier. -/
structure LVX where
  c : VOp
  pg : Option (Fin 8)
  pn : Bool
  sat : Bool
  rsel : Option (Fin 5)
  mod : Fin 16
deriving DecidableEq, Repr, Inhabited

/-- The instructions and events of the opcode table. -/
inductive Instr where
  -- integer and address arithmetic (R109, R134 to R138)
  | add (d a b : R) | sub (d a b : R) | and (d a b : R) | or (d a b : R) | xor (d a b : R)
  | shl (d a b : R) | shr (d a b : R) | sra (d a b : R)
  | shli (d a : R) (sh : Fin 64) | shri (d a : R) (sh : Fin 64) | srai (d a : R) (sh : Fin 64)
  | slt (d a b : R) | sltu (d a b : R) | seq (d a b : R)
  | min (d a b : R) | minu (d a b : R) | max (d a b : R) | maxu (d a b : R)
  | mul (d a b : R) | mulh (d a b : R) | mulhu (d a b : R)
  | clz (d a : R) | popc (d a : R) | bext (d a b : R) | bdep (d a b : R) | sel (d a b : R)
  | lea (s : Fin 4) (d a b : R)
  | addsat (lw : Fin 4) (sg : Bool) (d a b : R) | subsat (lw : Fin 4) (sg : Bool) (d a b : R)
  | addi (d a : R) (imm : BitVec 13) | andi (d a : R) (imm : BitVec 13) | ori (d a : R) (imm : BitVec 13)
  | xori (d a : R) (imm : BitVec 13) | slti (d a : R) (imm : BitVec 13)
  | movi (d : R) (imm : BitVec 32) | movhi (d : R) (imm : BitVec 32)
  | addl (d a : R) (imm : BitVec 32) | andl (d a : R) (imm : BitVec 32)
  | orl (d a : R) (imm : BitVec 32) | xorl (d a : R) (imm : BitVec 32)
  | div (d a b : R) (look : Look) | divu (d a b : R) (look : Look)
  | rem (d a b : R) (look : Look) | remu (d a b : R) (look : Look)
  -- control flow (R139)
  | br (disp : BitVec 19) | bz (a : R) (disp : BitVec 19) | bnz (a : R) (disp : BitVec 19)
  | brdec (a : R) (disp : BitVec 19) | call (disp : BitVec 19)
  | jr (d a : R) | jmp (disp : BitVec 32) | callLong (disp : BitVec 32)
  -- loads and stores (R228)
  | ld (t : GOp) (base : R) (look : Look) (sz : Fin 8) (off : Fin 64)
  | ldAcq (t : GOp) (base : R) (look : Look) (sz : Fin 8) (off : Fin 64)
  | st (t : GOp) (base : R) (sz : Fin 8) (off : Fin 64)
  | stRel (t : GOp) (base : R) (sz : Fin 8) (off : Fin 64)
  | ldLong (t : GOp) (base : R) (look : Look) (sz : Fin 8) (acq : Bool) (off : BitVec 32)
  | stLong (t : GOp) (base : R) (sz : Fin 8) (rel : Bool) (off : BitVec 32)
  | ldx (d : GOp) (a b : R) (look : Look) | stx (d : GOct) (a b : R) | vrcl (a b : R)
  | vqry (d a : R) (look : Look)
  -- atomics (R240)
  | aadd (d a b : R) (look : Look) | afadd (d a b : R) (look : Look)
  | amin (d a b : R) (look : Look) | amax (d a b : R) (look : Look)
  | aand (d a b : R) (look : Look) | aor (d a b : R) (look : Look)
  | axor (d a b : R) (look : Look) | axch (d a b : R) (look : Look)
  | acas (d : GPair) (a : R) (look : Look)
  -- vector loads and stores (R166)
  | ldv (v : VOp) (s : GPair) (look : Look) | stv (v : VOp) (s : GPair)
  | ldvAdv (v : VOp) (s : GPair) (look : Look) | stvAdv (v : VOp) (s : GPair)
  -- fences and prefetches (R244)
  | fenceFull (scope : Fin 6) | fenceAcq (scope : Fin 6) | fenceRel (scope : Fin 6)
  | pfetchTlb (a : R) | pfetchPc (a : R) | pfetchOwn (a : R)
  -- control registers, thread and system instructions (R130, R141 to R155)
  | kget (d : R) (kn : Fin 64) | kset (a : R) (kn : Fin 64) (v6 : Fin 64)
  | wait (d a b : R)
  | migr (d a : R) | trap (code : BitVec 12)
  | gang (d : R) (n : Fin 17)
  | safe (glive : BitVec 15) (plive : BitVec 8) (vlive : BitVec 32)
  | lathe (n1 : Fin 16) (stride : Fin 32) (cg : R) (count : BitVec 32)
  -- vector operations, pair form (R168 to R184)
  | vadd (ty : Fin 16) (d a b : VOp) | vsub (ty : Fin 16) (d a b : VOp) | vmul (ty : Fin 16) (d a b : VOp)
  | vfma (ty : Fin 16) (d a b : VOp)
  | vmin (ty : Fin 16) (d a b : VOp) | vmax (ty : Fin 16) (d a b : VOp)
  | vminp (ty : Fin 16) (d a b : VOp) | vmaxp (ty : Fin 16) (d a b : VOp)
  | vand (d a b : VOp) | vor (d a b : VOp) | vxor (d a b : VOp) | vandn (d a b : VOp)
  | vshl (sz : Fin 4) (d a b : VOp) | vshr (sz : Fin 4) (d a b : VOp) | vsra (sz : Fin 4) (d a b : VOp)
  | vcvt (ty dty : Fin 16) (d a : VOp)
  | vrcp (ty : Fin 16) (look : Look) (d a : VOp) | vrsq (ty : Fin 16) (look : Look) (d a : VOp)
  | vexp2 (ty : Fin 16) (look : Look) (d a : VOp) | vlog2 (ty : Fin 16) (look : Look) (d a : VOp)
  | vtanh (ty : Fin 16) (look : Look) (d a : VOp) | vsigm (ty : Fin 16) (look : Look) (d a : VOp)
  | vperm (sz : Fin 4) (d a b : VOp) | vbcast (sz : Fin 4) (d a : VOp) (k : Fin 128)
  | vshuf (sz : Fin 4) (d a : VOp) (k : Fin 128)
  | vred (ty : Fin 16) (op : Fin 8) (d a : VOp) | vscan (ty : Fin 16) (op : Fin 8) (ex : Bool) (d a : VOp)
  | vrng (ty : Fin 16) (d a b : VOp) | vquant (ty : Fin 16) (d a : VOp) | vdeq (ty : Fin 16) (d a : VOp)
  | vcmul (d a b : VOp) | vsel (ty : Fin 16) (d a b : VOp) | vxall (ty : Fin 16) (d a : VOp)
  | vcmp (pd : Fin 8) (ty : Fin 16) (cc : Fin 4) (a b : VOp)
  | pand (pd pa pb : Fin 8) | por (pd pa pb : Fin 8) | pnot (pd pa : Fin 8)
  | pcnt (g : R) (pa : Fin 8) | pfirst (g : R) (pa : Fin 8) | plim (pd : Fin 8) (g : R)
  -- vector operations, LV form
  | vaddLV (ty : Fin 16) (d a b : VOp) (x : LVX) | vsubLV (ty : Fin 16) (d a b : VOp) (x : LVX)
  | vmulLV (ty : Fin 16) (d a b : VOp) (x : LVX) | vfmaLV (ty : Fin 16) (d a b : VOp) (x : LVX)
  | vminLV (ty : Fin 16) (d a b : VOp) (x : LVX) | vmaxLV (ty : Fin 16) (d a b : VOp) (x : LVX)
  | vminpLV (ty : Fin 16) (d a b : VOp) (x : LVX) | vmaxpLV (ty : Fin 16) (d a b : VOp) (x : LVX)
  | vandLV (d a b : VOp) (x : LVX) | vorLV (d a b : VOp) (x : LVX)
  | vxorLV (d a b : VOp) (x : LVX) | vandnLV (d a b : VOp) (x : LVX)
  | vshlLV (sz : Fin 4) (d a b : VOp) (x : LVX) | vshrLV (sz : Fin 4) (d a b : VOp) (x : LVX)
  | vsraLV (sz : Fin 4) (d a b : VOp) (x : LVX)
  | vcvtLV (ty dty : Fin 16) (d a : VOp) (x : LVX)
  | vrcpLV (ty : Fin 16) (look : Look) (d a : VOp) (x : LVX)
  | vrsqLV (ty : Fin 16) (look : Look) (d a : VOp) (x : LVX)
  | vexp2LV (ty : Fin 16) (look : Look) (d a : VOp) (x : LVX)
  | vlog2LV (ty : Fin 16) (look : Look) (d a : VOp) (x : LVX)
  | vtanhLV (ty : Fin 16) (look : Look) (d a : VOp) (x : LVX)
  | vsigmLV (ty : Fin 16) (look : Look) (d a : VOp) (x : LVX)
  | vpermLV (sz : Fin 4) (d a b : VOp) (x : LVX) | vbcastLV (sz : Fin 4) (d a : VOp) (k : Fin 128) (x : LVX)
  | vshufLV (sz : Fin 4) (d a : VOp) (k : Fin 128) (x : LVX)
  | vredLV (ty : Fin 16) (op : Fin 8) (d a : VOp) (x : LVX)
  | vscanLV (ty : Fin 16) (op : Fin 8) (ex : Bool) (d a : VOp) (x : LVX)
  | vrngLV (ty : Fin 16) (d a b : VOp) (x : LVX) | vquantLV (ty : Fin 16) (d a : VOp) (x : LVX)
  | vdeqLV (ty : Fin 16) (d a : VOp) (x : LVX) | vcmulLV (d a b : VOp) (x : LVX)
  | vselLV (ty : Fin 16) (d a b : VOp) (x : LVX) | vxallLV (ty : Fin 16) (d a : VOp) (x : LVX)
  -- matrix commands (R190)
  | mma (acc : Fin 8) (ga : GPair) (gb : R) (ksteps : BitVec 16) (rows1 : Fin 64) (cols1 : Fin 32)
  | mmas (acc : Fin 8) (ga gb : GPair) (ksteps : BitVec 16) (rows1 : Fin 64) (cols1 : Fin 32) (last : Bool)
  | mzero (acc : Fin 8) (pin : Bool) | mwb (ga gb : R)
  | mdrain (acc : Fin 8) (ga : R) (rows1 : Fin 64) (cols1 : Fin 32) (keep : Bool)
  | rowout (acc : Fin 8) (ga gb : R) | asave (acc : Fin 8) (ga : R) | arest (acc : Fin 8) (ga : R)
  | mstat (acc : Fin 8) (ga : R) (look : Look) | mfence (all : Bool)
  -- Rind (R209, R218)
  | eclr (d : Fin 4) (g : R) | eline (d a : Fin 4) (g : GPair) (look : Look)
  | eadd (d a b : Fin 4) (look : Look) | emax (d a b : Fin 4) (look : Look) | einf (d a b : Fin 4) (look : Look)
  | econj (d a : Fin 4) (look : Look) | esimp (d a : Fin 4) (look : Look) | ecnt (a : Fin 4) (g : R)
  | eeval (a : Fin 4) (g : GPair) (look : Look) | earg (a : Fin 4) (g : GPair) (look : Look)
  | eget (a : Fin 4) (g : GPair) | eld (d : Fin 4) (a : R) (look : Look) | est (d : Fin 4) (a : R)
  -- messages, FIFOs, rings, collectives, gradient and task queues
  | send (d : R) (a : GOp) (b : R) (vn : Fin 2) (nf : Fin 4) (tag : BitVec 24)
  | sendd (d a b : R) (nf : Fin 4) (tag : BitVec 24) | sendx (d : R) (a : GOp) (b : R) (nf : Fin 4) (look : Look)
  | spawn (d : Fin 8) (a b : R)
  | recv (d : GPair) (a : GOp) (b : R) (look : Look) | recvt (d : GPair) (a : GOp) (b : R) (look : Look)
  | peek (d : GPair) (b : R)
  | qpush (d : R) (a : GOp) (b : R) | qpop (d : GOp) (a : R) (look : Look) | qstat (d a : R)
  | cbinit (d a b : R) | cbwait (d a : R) (look : Look) | cbacq (d a : R) (look : Look) | cbrel (a b : R)
  | bar (n : Fin 32) | grpst (n : Fin 32) (a : R) | grpld (d : R) (n : Fin 32) (look : Look)
  | gqpush (a : GOp) (b : GPair) | gqpop (d : GOct) (a b : R) (look : Look)
  | tqtake (d : R) | postc (a : GOp) (b : R)
  | cpCopy (d : R) (a b : GOp) | cpGather (d : R) (a b : GOp) | cpScatter (d : R) (a b : GOp)
  | cpFill (d : R) (a b : GOp) | cpToken (d : R) (a b : GOp) | sgRead (d : R) (a b : GOp)
  | mremote (d : R) (a b : GOp)
  | svG1 (d : R) (a b : GOp) | svG2 (d : R) (a b : GOp) | svG3 (d : R) (a b : GOp) | svCg (d : R) (a b : GOp)
  | svDiag (d : R) (a b : GOp) | svSwapq (d : R) (a b : GOp) | svPerm (d : R) (a b : GOp)
  | svProb (d : R) (a b : GOp) | svNorm (d : R) (a b : GOp) | svInit (d : R) (a b : GOp)
  | svSync (d : R) (a b : GOp)
  -- tables and counters (R323, R338)
  | tlbinv (a b : R) | tlbinva (b : R) | dirset (d a b : R) | repnew (d a : R) | repret (d a b : R)
  | capset (d a b : R) | treeset (d a b : R) | fwdset (d a b : R) | sptset (d a b : R) | svcset (a b : R)
  | placeq (d a b : R)
  | ctrget (d a : R) | ctrclr (a : R) | meter (d a b : R) | genget (d b : R) | lifeget (d a b : R)
  -- instructions without operands
  | nopC | nopA | ret | yield | split | lwait | eret | halt | hdone
  -- events of the other agents; their operands stand in the state (`State.ev`)
  | verwait | shadowfull | waitTimeout | safeovd | latheRepeat | agePromotion | longLatencyWrite
  | vxallExchange | matrixCommandStart | matrixCommandComplete | segmentEnd | drainRowStage | rindStart
  | recvtTimeout | groupRoundResult | messageArrival | spillReturn | refusalArrival | drupeArrival
  | outboxEntryFree | deadlockEscape | spawnRequest | spawnReply | migrationArrival | migrationAck
  | forwardExpiry | mwSwitchRequest | contextResume | launchPush | launchStart | placedThreadStart
  | commImageStart | launchRetire | reserveSample | taskQueueJoin | tokenArrival | meterMessage | claimRequest
  | claimReply | copyComplete | copyAbort | activation | directoryChange | changeAck | directoryFetchReply
  | evictionMessage | windowEnd | servedRequest | servedAnswer | finalPushNotice | drainComplete | depthReport
  | depthUpdate | gradientElementArrival | engineCommandStart | engineResult | cpTokenComplete
  | remoteMatrixAccept | spindleAccept | chunkCommit | spindleComplete | svfault | faultRecordArrival
  | faultRepost | faultReplyArrival | invalidation | leaseRecall | pageCacheFill | loadContainer | unload
  | launchHalt | resume | checkpoint | restore | frameMoveBegin | frameMoveEnd | attest | unknownCommand
  | mwFabWrite | mwRegisterWrite | bootBlock | linkRetrain | thermalThrottle | thermalShutdown | lifetimeLog
  | deviceReset | accessFault | storeAcknowledgement | peerAccessRequest | linkDown | lossOfPower
  | memoryError
deriving DecidableEq, Repr, Inhabited

end Sys2Proof
end

