-- ==== Sys2Proof/Machine/Forms.lean ====
section
/-! DEFINITION. The operand forms of the entries: the widths, format codes and LV fields each accepts (R95, R96, R157, R159,
R168 to R183), pair and LV forms of one instruction (R98), and the registers an instruction reads and writes (R100). -/

namespace Sys2Proof

/-- Element bits of a format code (R71, R157); 64 where the code has no lanes of its own. -/
def elemBits (ty : Nat) : Nat :=
  match ty with
  | 0 => 8
  | 1 => 16
  | 2 => 32
  | 3 => 64
  | 4 => 16
  | 5 => 16
  | 6 => 32
  | _ => 64

/-- A G6 operand is aligned for its width and its width is one of those accepted (R95). -/
def GOp.ok (o : GOp) (ws : List Nat) : Bool :=
  o.n.val % 2 ^ o.w.val == 0 && ws.contains o.w.val

/-- A V7 operand is aligned and holds at most 128 lanes of `b` bits (R95, R157). -/
def VOp.ok (o : VOp) (b : Nat) : Bool :=
  o.n.val % 2 ^ o.w.val == 0 && decide (1024 * 2 ^ o.w.val ≤ 128 * b)

/-- The absent operand: g0 single (R96). -/
def GOp.isNone (o : GOp) : Bool := o.w.val == 0 && o.n.val == 0

/-- Format codes of R168. -/
def tyArith (ty : Fin 16) : Bool := decide (ty.val ≤ 6)
/-- Floating-point format codes of R168. -/
def tyFp (ty : Fin 16) : Bool := decide (4 ≤ ty.val) && decide (ty.val ≤ 6)
/-- Format codes of vrng (R179). -/
def tyRng (ty : Fin 16) : Bool := ty.val == 2 || ty.val == 3 || ty.val == 4 || ty.val == 6
/-- BFP codes (R71). -/
def tyBfp (ty : Fin 16) : Bool := decide (8 ≤ ty.val) && decide (ty.val ≤ 14)

/-- Size codes of loads (R228). -/
def szLoad (sz : Fin 8) : Bool := decide (sz.val ≤ 6)
/-- Size codes of stores (R228). -/
def szStore (sz : Fin 8) : Bool := sz.val % 2 == 0 && decide (sz.val ≤ 6)
/-- Widths of t under a size code (R97): other than single only for 64-bit words. -/
def szWidths (sz : Nat) : List Nat := if sz == 6 then [0, 1, 2, 3] else [0]

/-- Control-register numbers that exist (R126). -/
def knExists (kn : Nat) : Bool := decide (kn ≤ 0x10) || kn == 0x18 || kn == 0x19 || kn == 0x1A

/-- Lanes of a group of width `w` of `b`-bit elements (R157). -/
def laneCount (w b : Nat) : Nat := 1024 * 2 ^ w / b

/-- Checks of three V7 fields of element size `b`, with their field codes, highest bit first (R111). -/
def chk3 (b : Nat) (d a c : VOp) : List (Bool × Nat) := [(d.ok b, 3), (a.ok b, 4), (c.ok b, 5)]

/-- The checks of a pair-form vector word's fields, in the order of R111, each with the code of its field.
An instruction without vector fields has none here. -/
def vecChecks (i : Instr) : List (Bool × Nat) :=
  match i with
  | .vadd ty d a b | .vsub ty d a b | .vmul ty d a b | .vfma ty d a b | .vmin ty d a b | .vmax ty d a b
  | .vminp ty d a b | .vmaxp ty d a b => chk3 (elemBits ty) d a b ++ [(tyArith ty, 9)]
  | .vand d a b | .vor d a b | .vxor d a b | .vandn d a b => chk3 64 d a b
  | .vshl sz d a b | .vshr sz d a b | .vsra sz d a b => chk3 (8 * 2 ^ sz.val) d a b
  | .vcvt ty dty d a =>
      [(d.ok 64 && (!(tyArith ty && tyArith dty) ||
          (d.ok (elemBits dty) && laneCount d.w (elemBits dty) == laneCount a.w (elemBits ty))), 3),
       (a.ok 64, 4), (tyArith dty, 5), (tyArith ty, 9)]
  | .vrcp ty _ d a | .vrsq ty _ d a | .vexp2 ty _ d a | .vlog2 ty _ d a | .vtanh ty _ d a | .vsigm ty _ d a =>
      [(d.ok (if tyFp ty then elemBits ty else 64), 3), (a.ok (if tyFp ty then elemBits ty else 64), 4), (tyFp ty, 9)]
  | .vperm sz d a b =>
      [(d.ok (8 * 2 ^ sz.val), 3), (a.ok (8 * 2 ^ sz.val), 4),
       (b.ok (8 * 2 ^ sz.val) && b.w == d.w, 5)]
  | .vbcast sz d a k | .vshuf sz d a k =>
      [(d.ok (8 * 2 ^ sz.val), 3), (a.ok (8 * 2 ^ sz.val), 4),
       (decide (k.val < laneCount d.w (8 * 2 ^ sz.val)), 5)]
  | .vred ty op d a =>
      [(d.ok (elemBits ty) && d.w == 0, 3), (a.ok (elemBits ty), 4),
       (tyArith ty && !(tyFp ty && decide (5 ≤ op.val)), 9)]
  | .vscan ty op _ d a =>
      [(d.ok (elemBits ty) && d.w == a.w, 3), (a.ok (elemBits ty), 4),
       (tyArith ty && !(tyFp ty && decide (5 ≤ op.val)), 9)]
  | .vrng ty d a b =>
      [(d.ok (if tyRng ty then elemBits ty else 64), 3), (a.ok 64 && a.w == 0, 4),
       (b.ok 64 && (!tyRng ty || laneCount b.w 64 == laneCount d.w (elemBits ty)), 5), (tyRng ty, 9)]
  | .vquant ty d a | .vdeq ty d a => [(d.ok 32 && d.w == a.w, 3), (a.ok 32, 4), (tyBfp ty, 9)]
  | .vcmul d a b => chk3 64 d a b
  | .vsel ty d a b => chk3 (elemBits ty) d a b ++ [(tyArith ty || ty.val == 15, 9)]
  | .vxall ty d a => [(d.ok 64 && d.w == a.w, 3), (a.ok 64, 4), (decide (1 ≤ ty.val) && decide (ty.val ≤ 4), 9)]
  | .vcmp _ ty _ a b => [(a.ok (elemBits ty), 4), (b.ok (elemBits ty), 5), (tyArith ty, 9)]
  | _ => []

/-- What the LV form of a pair-form instruction accepts in word 1 (R159, R168 to R183). -/
structure LvRule where
  /-- c is a third source -/
  usesC : Bool
  /-- a single predicate is accepted -/
  single : Bool
  /-- the no-guard value is accepted -/
  noGuard : Bool
  satOk : Bool
  rselOk : Bool
  modMask : Nat
deriving DecidableEq, Repr

/-- The rule of each operation's LV form, and none for an instruction that has no LV form. A `.sat` variant is one of every operation whose
entry rounds (R159, R85), the additions of `vred` and `vscan` and `vdeq` among them (assumption 118). -/
def lvRule (i : Instr) : Option LvRule :=
  match i with
  | .vadd ty .. | .vsub ty .. | .vmul ty .. => some ⟨false, true, true, true, tyFp ty, if tyFp ty then 0 else 1⟩
  | .vfma ty .. => some ⟨true, true, true, true, tyFp ty, if tyFp ty then 14 else 15⟩
  | .vmin ty .. | .vmax ty .. | .vminp ty .. | .vmaxp ty .. =>
      some ⟨false, true, true, false, false, if tyFp ty then 0 else 1⟩
  | .vand .. | .vor .. | .vxor .. | .vandn .. | .vshl .. | .vshr .. | .vsra .. | .vperm .. | .vbcast .. | .vshuf ..
  | .vrng .. => some ⟨false, true, true, false, false, 0⟩
  | .vcvt ty dty .. => some ⟨false, true, true, true, tyFp ty || tyFp dty,
      (if tyFp ty then 0 else 1) + (if tyFp dty then 0 else 2)⟩
  | .vrcp .. | .vrsq .. | .vexp2 .. | .vlog2 .. | .vtanh .. | .vsigm .. => some ⟨false, true, true, true, true, 0⟩
  | .vcmul .. => some ⟨false, true, true, false, true, 0⟩
  | .vred ty op .. | .vscan ty op .. =>
      some ⟨false, true, true, op.val == 0, tyFp ty && op.val == 0, if tyFp ty then 0 else 1⟩
  | .vquant .. => some ⟨false, false, true, false, true, 0⟩
  | .vdeq .. => some ⟨false, false, true, true, true, 0⟩
  | .vsel .. => some ⟨false, true, false, false, false, 0⟩
  | .vxall .. => some ⟨false, false, true, false, false, 0⟩
  | _ => none

/-- The element size that bounds a third source (only vfma has one). -/
def cBits (i : Instr) : Nat :=
  match i with
  | .vfma ty .. => elemBits ty
  | _ => 64

/-- The checks of word 1 of an LV group in the order of R111. -/
def lvxChecks (r : LvRule) (b : Nat) (x : LVX) : List (Bool × Nat) :=
  [(if r.usesC then x.c.ok b else x.c == ⟨0, 0⟩, 6),
   (match x.pg with
    | none => r.noGuard && !x.pn
    | some _ => r.single, 10),
   ((r.satOk || !x.sat) && (r.rselOk || x.rsel.isNone) && (x.mod.val &&& r.modMask) == x.mod.val, 11)]

/-- The LV form of a pair-form instruction with word 1 `x` (R106). -/
def lvOf (i : Instr) (x : LVX) : Option Instr :=
  match i with
  | .vadd ty d a b => some (.vaddLV ty d a b x)
  | .vsub ty d a b => some (.vsubLV ty d a b x)
  | .vmul ty d a b => some (.vmulLV ty d a b x)
  | .vfma ty d a b => some (.vfmaLV ty d a b x)
  | .vmin ty d a b => some (.vminLV ty d a b x)
  | .vmax ty d a b => some (.vmaxLV ty d a b x)
  | .vminp ty d a b => some (.vminpLV ty d a b x)
  | .vmaxp ty d a b => some (.vmaxpLV ty d a b x)
  | .vand d a b => some (.vandLV d a b x)
  | .vor d a b => some (.vorLV d a b x)
  | .vxor d a b => some (.vxorLV d a b x)
  | .vandn d a b => some (.vandnLV d a b x)
  | .vshl sz d a b => some (.vshlLV sz d a b x)
  | .vshr sz d a b => some (.vshrLV sz d a b x)
  | .vsra sz d a b => some (.vsraLV sz d a b x)
  | .vcvt ty dty d a => some (.vcvtLV ty dty d a x)
  | .vrcp ty l d a => some (.vrcpLV ty l d a x)
  | .vrsq ty l d a => some (.vrsqLV ty l d a x)
  | .vexp2 ty l d a => some (.vexp2LV ty l d a x)
  | .vlog2 ty l d a => some (.vlog2LV ty l d a x)
  | .vtanh ty l d a => some (.vtanhLV ty l d a x)
  | .vsigm ty l d a => some (.vsigmLV ty l d a x)
  | .vperm sz d a b => some (.vpermLV sz d a b x)
  | .vbcast sz d a k => some (.vbcastLV sz d a k x)
  | .vshuf sz d a k => some (.vshufLV sz d a k x)
  | .vred ty op d a => some (.vredLV ty op d a x)
  | .vscan ty op ex d a => some (.vscanLV ty op ex d a x)
  | .vrng ty d a b => some (.vrngLV ty d a b x)
  | .vquant ty d a => some (.vquantLV ty d a x)
  | .vdeq ty d a => some (.vdeqLV ty d a x)
  | .vcmul d a b => some (.vcmulLV d a b x)
  | .vsel ty d a b => some (.vselLV ty d a b x)
  | .vxall ty d a => some (.vxallLV ty d a x)
  | _ => none

/-- The pair form and word 1 of an LV instruction. -/
def lvSplit (i : Instr) : Option (Instr × LVX) :=
  match i with
  | .vaddLV ty d a b x => some (.vadd ty d a b, x)
  | .vsubLV ty d a b x => some (.vsub ty d a b, x)
  | .vmulLV ty d a b x => some (.vmul ty d a b, x)
  | .vfmaLV ty d a b x => some (.vfma ty d a b, x)
  | .vminLV ty d a b x => some (.vmin ty d a b, x)
  | .vmaxLV ty d a b x => some (.vmax ty d a b, x)
  | .vminpLV ty d a b x => some (.vminp ty d a b, x)
  | .vmaxpLV ty d a b x => some (.vmaxp ty d a b, x)
  | .vandLV d a b x => some (.vand d a b, x)
  | .vorLV d a b x => some (.vor d a b, x)
  | .vxorLV d a b x => some (.vxor d a b, x)
  | .vandnLV d a b x => some (.vandn d a b, x)
  | .vshlLV sz d a b x => some (.vshl sz d a b, x)
  | .vshrLV sz d a b x => some (.vshr sz d a b, x)
  | .vsraLV sz d a b x => some (.vsra sz d a b, x)
  | .vcvtLV ty dty d a x => some (.vcvt ty dty d a, x)
  | .vrcpLV ty l d a x => some (.vrcp ty l d a, x)
  | .vrsqLV ty l d a x => some (.vrsq ty l d a, x)
  | .vexp2LV ty l d a x => some (.vexp2 ty l d a, x)
  | .vlog2LV ty l d a x => some (.vlog2 ty l d a, x)
  | .vtanhLV ty l d a x => some (.vtanh ty l d a, x)
  | .vsigmLV ty l d a x => some (.vsigm ty l d a, x)
  | .vpermLV sz d a b x => some (.vperm sz d a b, x)
  | .vbcastLV sz d a k x => some (.vbcast sz d a k, x)
  | .vshufLV sz d a k x => some (.vshuf sz d a k, x)
  | .vredLV ty op d a x => some (.vred ty op d a, x)
  | .vscanLV ty op ex d a x => some (.vscan ty op ex d a, x)
  | .vrngLV ty d a b x => some (.vrng ty d a b, x)
  | .vquantLV ty d a x => some (.vquant ty d a, x)
  | .vdeqLV ty d a x => some (.vdeq ty d a, x)
  | .vcmulLV d a b x => some (.vcmul d a b, x)
  | .vselLV ty d a b x => some (.vsel ty d a b, x)
  | .vxallLV ty d a x => some (.vxall ty d a, x)
  | _ => none

/-- Every check of a list holds. -/
def allHold (cs : List (Bool × Nat)) : Bool := cs.all (fun c => c.1)

/-- Engine command operands: any width (R107). -/
def seOk (a b : GOp) : Bool := a.ok [0, 1, 2, 3] && b.ok [0, 1, 2, 3]

/-- A register by name, for the two-writer rule (R100), interlocks (R102, R103) and the Lathe's footprint (R154);
vector registers are window-relative numbers. -/
inductive Reg where
  | g (n : Nat) | p (n : Nat) | v (n : Nat) | e (n : Nat)
deriving DecidableEq, Repr

/-- The consecutive registers of an operand of `2 ^ w`. -/
def regsFrom (mk : Nat → Reg) (n w : Nat) : List Reg := (List.range (2 ^ w)).map (fun k => mk (n + k))

/-- Scalar registers written, g0 left out (R100). -/
def gW (n : Nat) : List Reg := if n == 0 then [] else [.g n]
/-- The registers of a G6 operand, g0 left out. -/
def gopRegs (o : GOp) : List Reg := (regsFrom .g o.n.val o.w.val).filter (fun r => r != .g 0)
/-- The registers of a V7 operand. -/
def vopRegs (o : VOp) : List Reg := regsFrom .v o.n.val o.w.val
/-- The registers of a pair operand. -/
def pairRegs (k : GPair) : List Reg := gopRegs ⟨1, ⟨2 * k.val, by omega⟩⟩
/-- The second register of a pair operand. -/
def pairHi (k : GPair) : List Reg := [.g (2 * k.val + 1)]
/-- The registers of an octet operand. -/
def octRegs (k : GOct) : List Reg := gopRegs ⟨3, ⟨8 * k.val, by omega⟩⟩

/-- The registers an instruction writes, explicitly or implicitly (R100). -/
def Instr.writes (i : Instr) : List Reg :=
  match lvSplit i with
  | some (.vadd _ d _ _, _) | some (.vsub _ d _ _, _) | some (.vmul _ d _ _, _) | some (.vfma _ d _ _, _)
  | some (.vmin _ d _ _, _) | some (.vmax _ d _ _, _) | some (.vminp _ d _ _, _) | some (.vmaxp _ d _ _, _)
  | some (.vand d _ _, _) | some (.vor d _ _, _) | some (.vxor d _ _, _) | some (.vandn d _ _, _)
  | some (.vshl _ d _ _, _) | some (.vshr _ d _ _, _) | some (.vsra _ d _ _, _) | some (.vcvt _ _ d _, _)
  | some (.vrcp _ _ d _, _) | some (.vrsq _ _ d _, _) | some (.vexp2 _ _ d _, _) | some (.vlog2 _ _ d _, _)
  | some (.vtanh _ _ d _, _) | some (.vsigm _ _ d _, _) | some (.vperm _ d _ _, _) | some (.vbcast _ d _ _, _)
  | some (.vshuf _ d _ _, _) | some (.vred _ _ d _, _) | some (.vscan _ _ _ d _, _) | some (.vrng _ d _ _, _)
  | some (.vquant _ d _, _) | some (.vdeq _ d _, _) | some (.vcmul d _ _, _) | some (.vsel _ d _ _, _)
  | some (.vxall _ d _, _) => vopRegs d
  | some _ => []
  | none =>
    match i with
    | .add d .. | .sub d .. | .and d .. | .or d .. | .xor d .. | .shl d .. | .shr d .. | .sra d .. | .shli d ..
    | .shri d .. | .srai d .. | .slt d .. | .sltu d .. | .seq d .. | .min d .. | .minu d .. | .max d .. | .maxu d ..
    | .mul d .. | .mulh d .. | .mulhu d .. | .clz d .. | .popc d .. | .bext d .. | .bdep d .. | .sel d ..
    | .lea _ d .. | .addsat _ _ d .. | .subsat _ _ d .. | .addi d .. | .andi d .. | .ori d .. | .xori d ..
    | .slti d .. | .movi d .. | .movhi d .. | .addl d .. | .andl d .. | .orl d .. | .xorl d .. | .div d .. | .divu d ..
    | .rem d .. | .remu d .. | .brdec d .. | .jr d .. | .vqry d .. | .aadd d .. | .afadd d .. | .amin d .. | .amax d ..
    | .aand d .. | .aor d .. | .axor d .. | .axch d .. | .kget d .. | .wait d .. | .migr d .. | .gang d ..
    | .pcnt d .. | .pfirst d .. | .ecnt _ d | .send d .. | .sendd d .. | .sendx d .. | .qpush d .. | .qstat d ..
    | .cbinit d .. | .cbwait d .. | .cbacq d .. | .grpld d .. | .tqtake d | .cpCopy d .. | .cpGather d ..
    | .cpScatter d .. | .cpFill d .. | .cpToken d .. | .sgRead d .. | .mremote d .. | .svG1 d .. | .svG2 d ..
    | .svG3 d .. | .svCg d .. | .svDiag d .. | .svSwapq d .. | .svPerm d .. | .svProb d .. | .svNorm d ..
    | .svInit d .. | .svSync d .. | .dirset d .. | .repnew d .. | .repret d .. | .capset d .. | .treeset d ..
    | .fwdset d .. | .sptset d .. | .placeq d .. | .ctrget d .. | .meter d .. | .genget d .. | .lifeget d ..
    | .mstat _ d _ => gW d.val
    | .spawn d .. => gW d.val ++ [.g 14]
    | .call _ | .callLong _ => [.g 14]
    | .ld t .. | .ldAcq t .. | .ldLong t .. | .ldx t .. | .qpop t .. => gopRegs t
    | .acas d .. => gW (2 * d.val)
    | .ldv v .. => vopRegs v
    | .ldvAdv v s _ => vopRegs v ++ pairHi s
    | .stvAdv _ s => pairHi s
    | .recv d a _ _ | .recvt d a _ _ => pairRegs d ++ (if a.w.val == 3 then gopRegs a else [])
    | .peek d _ => pairRegs d
    | .gqpop d _ b _ => octRegs d ++ gW b.val
    | .vadd _ d .. | .vsub _ d .. | .vmul _ d .. | .vfma _ d .. | .vmin _ d .. | .vmax _ d .. | .vminp _ d ..
    | .vmaxp _ d .. | .vand d .. | .vor d .. | .vxor d .. | .vandn d .. | .vshl _ d .. | .vshr _ d .. | .vsra _ d ..
    | .vcvt _ _ d .. | .vrcp _ _ d .. | .vrsq _ _ d .. | .vexp2 _ _ d .. | .vlog2 _ _ d .. | .vtanh _ _ d ..
    | .vsigm _ _ d .. | .vperm _ d .. | .vbcast _ d .. | .vshuf _ d .. | .vred _ _ d .. | .vscan _ _ _ d ..
    | .vrng _ d .. | .vquant _ d .. | .vdeq _ d .. | .vcmul d .. | .vsel _ d .. | .vxall _ d .. => vopRegs d
    | .vcmp pd .. | .pand pd .. | .por pd .. | .pnot pd .. | .plim pd .. => [.p pd.val]
    | .eclr d .. | .eline d .. | .eadd d .. | .emax d .. | .einf d .. | .econj d .. | .esimp d .. | .eld d .. => [.e d.val]
    | .eeval _ g _ | .earg _ g _ | .eget _ g => pairHi g
    | _ => []

/-- The registers an instruction reads; g0 and matrix state left out. -/
def Instr.reads (i : Instr) : List Reg :=
  match lvSplit i with
  | some (p, x) => vsrc p ++ (match x.pg with
                              | some k => [.p k.val]
                              | none => []) ++
      (match p with
       | .vfma .. => vopRegs x.c
       | _ => []) ++ (if x.pg.isSome then vdst p else [])
  | none =>
    match i with
    | .add _ a b | .sub _ a b | .and _ a b | .or _ a b | .xor _ a b | .shl _ a b | .shr _ a b | .sra _ a b
    | .slt _ a b | .sltu _ a b | .seq _ a b | .min _ a b | .minu _ a b | .max _ a b | .maxu _ a b | .mul _ a b
    | .mulh _ a b | .mulhu _ a b | .bext _ a b | .bdep _ a b | .lea _ _ a b | .addsat _ _ _ a b | .subsat _ _ _ a b
    | .div _ a b _ | .divu _ a b _ | .rem _ a b _ | .remu _ a b _ | .vrcl a b | .aadd _ a b _ | .afadd _ a b _
    | .amin _ a b _ | .amax _ a b _ | .aand _ a b _ | .aor _ a b _ | .axor _ a b _ | .axch _ a b _ | .wait _ a b
    | .mwb a b | .rowout _ a b | .sendd _ a b _ _ | .cbinit _ a b | .cbrel a b | .tlbinv a b | .dirset _ a b
    | .repret _ a b | .capset _ a b | .treeset _ a b | .fwdset _ a b | .sptset _ a b | .svcset a b | .placeq _ a b
    | .meter _ a b | .lifeget _ a b => gW a.val ++ gW b.val
    | .sel d a b => gW d.val ++ gW a.val ++ gW b.val
    | .shli _ a _ | .shri _ a _ | .srai _ a _ | .clz _ a | .popc _ a | .addi _ a _ | .andi _ a _ | .ori _ a _
    | .xori _ a _ | .slti _ a _ | .addl _ a _ | .andl _ a _ | .orl _ a _ | .xorl _ a _ | .bz a _ | .bnz a _
    | .brdec a _ | .jr _ a | .vqry _ a _ | .pfetchTlb a | .pfetchPc a | .pfetchOwn a | .kset a _ _ | .migr _ a
    | .lathe _ _ a _ | .plim _ a | .eclr _ a | .mdrain _ a _ _ _ | .asave _ a | .arest _ a | .eld _ a _ | .est _ a
    | .qpop _ a _ | .qstat _ a | .cbwait _ a _ | .cbacq _ a _ | .grpst _ a | .tlbinva a | .repnew _ a
    | .ctrget _ a | .ctrclr a | .genget _ a | .peek _ a | .gqpop _ a _ _ =>
        gW a.val ++ (match i with
                     | .est d _ => [.e d.val]
                     | _ => [])
    | .movhi d _ => gW d.val
    | .ret => [.g 14]
    | .ld _ b .. | .ldAcq _ b .. | .ldLong _ b .. => gW b.val
    | .st t b .. | .stRel t b .. | .stLong t b .. => gopRegs t ++ gW b.val
    | .ldx _ a b _ => gW a.val ++ gW b.val
    | .stx d a b => octRegs d ++ gW a.val ++ gW b.val
    | .acas d a _ => pairRegs d ++ gW a.val
    | .ldv _ s _ | .ldvAdv _ s _ => pairRegs s
    | .stv v s | .stvAdv v s => vopRegs v ++ pairRegs s
    | .recv _ a b _ | .recvt _ a b _ => (if a.w.val == 0 then gopRegs a else []) ++ gW b.val
    | .qpush _ a b => gopRegs a ++ gW b.val
    | .send _ a b _ _ _ | .sendx _ a b _ _ => gopRegs a ++ gW b.val
    | .spawn _ a b => octRegs 1 ++ gW a.val ++ gW b.val
    | .gqpush a b => gopRegs a ++ pairRegs b
    | .postc a b => gopRegs a ++ gW b.val
    | .cpCopy _ a b | .cpGather _ a b | .cpScatter _ a b | .cpFill _ a b | .cpToken _ a b | .sgRead _ a b
    | .mremote _ a b | .svG1 _ a b | .svG2 _ a b | .svG3 _ a b | .svCg _ a b | .svDiag _ a b | .svSwapq _ a b
    | .svPerm _ a b | .svProb _ a b | .svNorm _ a b | .svInit _ a b | .svSync _ a b => gopRegs a ++ gopRegs b
    | .mma _ ga gb _ _ _ => pairRegs ga ++ gW gb.val
    | .mmas _ ga gb _ _ _ _ => pairRegs ga ++ pairRegs gb
    | .vsel _ _ a b => .p 0 :: (vopRegs a ++ vopRegs b)
    | .pand _ a b | .por _ a b => [.p a.val, .p b.val]
    | .pnot _ a | .pcnt _ a | .pfirst _ a => [.p a.val]
    | .eline _ a g _ => .e a.val :: pairRegs g
    | .eadd _ a b _ | .emax _ a b _ | .einf _ a b _ => [.e a.val, .e b.val]
    | .econj _ a _ | .esimp _ a _ | .ecnt a _ => [.e a.val]
    | .eeval a g _ | .earg a g _ | .eget a g => .e a.val :: gW (2 * g.val)
    | _ => vsrc i
where
  /-- vector sources of a pair form -/
  vsrc (i : Instr) : List Reg :=
    match i with
    | .vadd _ _ a b | .vsub _ _ a b | .vmul _ _ a b | .vmin _ _ a b | .vmax _ _ a b | .vminp _ _ a b
    | .vmaxp _ _ a b | .vand _ a b | .vor _ a b | .vxor _ a b | .vandn _ a b | .vshl _ _ a b | .vshr _ _ a b
    | .vsra _ _ a b | .vperm _ _ a b | .vrng _ _ a b | .vcmul _ a b | .vsel _ _ a b | .vcmp _ _ _ a b =>
        vopRegs a ++ vopRegs b
    | .vfma _ d a b => vopRegs d ++ vopRegs a ++ vopRegs b
    | .vcvt _ _ _ a | .vrcp _ _ _ a | .vrsq _ _ _ a | .vexp2 _ _ _ a | .vlog2 _ _ _ a | .vtanh _ _ _ a
    | .vsigm _ _ _ a | .vbcast _ _ a _ | .vshuf _ _ a _ | .vred _ _ _ a | .vscan _ _ _ _ a | .vquant _ _ a
    | .vdeq _ _ a | .vxall _ _ a => vopRegs a
    | _ => []
  /-- destination of a guarded operation, kept in its inactive lanes -/
  vdst (i : Instr) : List Reg := i.writes

end Sys2Proof
end

