-- ==== Sys2Proof/Machine/State.lean ====
section
/-! DEFINITION. The state of the module: every piece of state the spec gives it, as plain data, and the state after
reset. Software-visible words are bit vectors; counts, indexes and hidden hardware fields are numbers. Numbers for cores
are as in `src` (R283): compute cores 0 to 2,047, `ocore(h,i)` 2,048 + 8h + i. -/

namespace Sys2Proof.Machine

/-- Why the machine stops. -/
inductive Fault where
  /-- Raised by `step` on a module that has powered down (R372) or lost its power (R347): nothing executes. Safe. -/
  | poweredOff
deriving DecidableEq, Repr

/-- Why an instruction has no meaning in the model. -/
inductive Refusal where
  /-- An instruction of the table the model gives no meaning yet. Safe. -/
  | notModelled (mnemonic : String)
deriving DecidableEq, Repr

/-! ## Memory -/

/-- Memory over the whole physical space: cells with rising addresses, none equal to 0, which unlisted bytes read as
(vaults: R220; elsewhere assumption 5). Ranges: `vaultAt` and the others of Mem.lean. -/
abbrev Memory := List Host.Cell

/-- Version state of a line (R231): current version, floor, shadow copies (version, contents) newest last. -/
structure LineVer where
  c : Nat := 0
  f : Nat := 0
  shadows : List (Nat × BitVec 512) := []
deriving DecidableEq, Repr

/-- A TLB entry (R321): handle, virtual page base, size in 64 KiB units (1 or 512), rights x w rd, mattr, and the
physical target base (in the encoding of `Mem.lean`). -/
structure TlbEntry where
  handle : Nat
  vbase : Nat
  units : Nat
  rx : Bool
  rw : Bool
  rd : Bool
  mattr : Nat
  target : Nat
deriving DecidableEq, Repr, Inhabited

/-- A page-cache tag (R322) with the piece's owner and, for a lease, the cycle of its grant (R227). -/
structure PcTag where
  lease : Bool
  dty : Bool
  rank : Nat
  hub : Nat
  frame : Nat
  granted : Nat
  /-- lines whose shadows did not fit the holder's pool: they stay at the owner (R227) -/
  kept : List Nat := []
deriving DecidableEq, Repr

/-! ## Faults -/

/-- A fault record (R350). -/
structure FaultRec where
  addr : Nat := 0
  pc : Nat := 0
  seq : Nat := 0
  elem : Nat := 0
  prog : Nat := 0
  aux : Nat := 0
  lnch : Nat := 0
  gen : Nat := 0
  core : Nat := 0
  slot : Nat := 0
  stage : Nat := 0
  cls : Nat := 0
  opnd : Nat := 0
  kind : Nat := 0
  rid : Nat := 0
  unit : Nat := 0
  rep : Nat := 0
deriving DecidableEq, Repr, Inhabited

/-- What a reply to a fault resumes (R354). -/
inductive Resume where
  /-- a group of the thread (precise) -/
  | group
  /-- the instruction of a dispatch-ring entry (late) -/
  | late (seq : Nat)
  /-- the held access of the thread -/
  | access
  /-- a running engine command: FIFO and push sequence -/
  | engine (fifo seq : Nat)
  /-- the running command of the matrix unit -/
  | matrix
  /-- the running command of a Spindle, by lead hub -/
  | spindle (hub : Nat)
  /-- an absent context, by uid -/
  | sched (uid : Nat)
  /-- an instruction fetch -/
  | fetch
deriving DecidableEq, Repr

/-- A fault awaiting its reply at its poster (R352). -/
structure FaultWait where
  frec : FaultRec
  svc : Nat
  postedAt : Nat
  uid : Nat
  resume : Resume
  /-- the launch it belongs to -/
  launch : Option (Nat × Nat) := none
deriving DecidableEq, Repr

/-! ## Threads -/

/-- One long-latency destination's value. -/
inductive OutVal where
  | words (ws : List Word)
  | vecs (vs : List VReg)
deriving DecidableEq, Repr

/-- What an outstanding long-latency operation still waits for. -/
inductive OutWait where
  /-- its value has arrived -/
  | ready
  /-- a result in output FIFO `fifo` (R301), the matching sequence number if given -/
  | qpop (fifo : Nat) (seq : Option Nat)
  /-- a version of a line (R232): address, version, cycle and `kvwait` at which the wait started (R132) -/
  | ldx (ea v start bound : Nat)
  /-- the claimed result of a group's round (R312) -/
  | grpld (n : Nat)
  /-- an element of the gradient queue (R315): name and step -/
  | gqpop (name step : Nat)
  /-- the cache's routing decision for a token (R289): outbox message uid -/
  | route (msg : Nat)
  /-- a Rind result (R210): dispatch sequence -/
  | rind (seq : Nat)
  /-- the reply to the fault of the held access -/
  | held
  /-- an access that has issued and is not performed yet (R271) -/
  | access
deriving DecidableEq, Repr

/-- An outstanding long-latency operation (R102): destination registers in order (vector registers as core registers), groups still reading the old value,
what it waits for, its value once arrived; `lathe` when its window counts repetitions. -/
structure Out where
  id : Nat
  regs : List Reg
  look : Nat
  wait : OutWait
  val : OutVal
  lathe : Bool
deriving DecidableEq, Repr

/-- A memory access as it is performed, held and performed again (R247). Destinations are register names. -/
inductive Access where
  /-- `ld`: size code, destination registers -/
  | load (ea sz : Nat) (dst : List Reg) (look : Nat)
  /-- `st`: size code, the words -/
  | store (ea sz : Nat) (vals : List Word)
  /-- an atomic of R240 (op 0 to 7) or `acas` (op 8, `b` the expected word, `b2` the new one) -/
  | atomic (op ea : Nat) (b b2 : Word) (dst : List Reg) (look : Nat)
  | ldx (ea v : Nat) (dst : List Reg) (look : Nat)
  | stx (ea : Nat) (line : BitVec 512) (v : Nat)
  | vrcl (ea v count : Nat)
  | vqry (ea : Nat) (dst : List Reg) (look : Nat)
  /-- `ldv`: record address, position, width, first core register, dispatch sequence; the register an advance form moves on -/
  | ldv (ra p w v seq look : Nat) (adv : Option Nat)
  /-- `stv`: record address, position, dispatch sequence, first core register of the source and its contents -/
  | stv (ra p w seq v : Nat) (data : List VReg) (adv : Option Nat)
  | eld (ea d seq look : Nat)
  | est (ea : Nat) (image : List Byte) (seq : Nat)
  /-- the payload of a message still in the outbox: its uid, address, flits -/
  | payload (msg ea flits : Nat)
  /-- plain bytes of `recv`, `rowout` -/
  | bytes (ea : Nat) (data : List Byte)
  /-- an image of a table instruction read at an address: the instruction is issued again -/
  | again (ea : Nat)
deriving DecidableEq, Repr

/-- One access of an instruction that makes several (R167, R229): its word or lane, its address, its bytes. -/
structure Part where
  lane : Nat
  ea : Nat
  len : Nat
deriving DecidableEq, Repr, Inhabited

/-- A relaxed instruction that has issued and whose accesses are not all performed yet (R167, R229, R271): the access, its result's
number, its group's address, the parts still to be performed, whether they read and write, and what the others have read, by lane. -/
structure Deferred where
  acc : Access
  out : Nat
  pc : Nat
  parts : List Part
  rd : Bool
  wr : Bool
  got : List (Nat × Nat) := []
  /-- it is a release (R273) -/
  rel : Bool := false
deriving DecidableEq, Repr

/-- A byte of peer, host or CXL memory whose latest plain store is not visible to every thread yet (R272, R281): the byte before that
store, its context and acknowledgement, whether it is a release, the contexts for which it happens before what follows their next
release, and those that still read the older byte. -/
structure Hidden where
  pa : Nat
  old : Byte
  writer : Nat
  ack : Nat
  rel : Bool
  knows : List Nat
  blind : List Nat
deriving DecidableEq, Repr

/-- What a group that has issued still does when its thread's work is complete. -/
inductive After where
  | none
  /-- the thread retires (R101, R150) -/
  | retire
  /-- `migr` (R147): the cluster, the register that receives the core's number -/
  | migr (k d : Nat)
deriving DecidableEq, Repr

/-- Why a thread issues nothing. -/
inductive Block where
  | none
  /-- its group's condition does not hold yet; the group is tried again -/
  | retry
  /-- a fault awaits its reply (R348), by request number -/
  | mailbox (rid : Nat)
  /-- a spawn awaits its reply (R30): register for d, child PC -/
  | spawnReply (d : Nat) (childPc : Word)
  /-- an answer from elsewhere (R323, R338), written to the register -/
  | answer (d : Nat)
  /-- the context is on its way to another core (R356) -/
  | leaving
deriving DecidableEq, Repr

/-- Membership of a gang (R25): the leader's context by uid, size, own index. -/
structure GangRec where
  lead : Nat
  n : Nat
  j : Nat
deriving DecidableEq, Repr

/-- A Drupe being executed (R296, R297): its code words, the inbox entry's uid and first inbox slot. -/
structure Drupe where
  code : List (BitVec 32)
  uid : Nat
  slot : Nat
deriving DecidableEq, Repr

/-- A thread slot and its context (R19, R125). -/
structure Thread where
  /-- a thread holds the slot -/
  live : Bool := false
  /-- model: names the context wherever it goes -/
  uid : Nat := 0
  g : Vector Word 16 := Vector.replicate 16 0
  pc : Word := 0
  kfmtA : Word := 4
  kfmtB : Word := 4
  kfmtC : Word := 6
  ksclA : Word := 0
  ksclB : Word := 0
  kround : Word := 0
  kflags : Word := 0
  kvwin : Word := 0
  krole : Word := 0
  kmig : Word := 0
  kstep : Word := 0
  kstage : Word := 0
  kseq : Word := 0
  ktol : Word := 0
  kenv : Word := 0
  ktrap : Word := 0
  p : Vector Pred 8 := Vector.replicate 8 0
  /-- pending-event mask (R142) -/
  pend : BitVec 6 := 0
  /-- age counter (R23) and the promotion of R23 -/
  age : Nat := 0
  promoted : Bool := false
  /-- cycle in which the thread became ready (R23, R143) -/
  readyAt : Nat := 0
  /-- safe-point count (R49) -/
  safeCount : Nat := 0
  /-- send counter (R288) -/
  sendCtr : Nat := 0
  /-- gradient credits per optimiser core (R313), 64 where not listed -/
  credits : FMap Nat := []
  outs : List Out := []
  nextOut : Nat := 0
  /-- the access held behind a fault (R247) -/
  held : Option Access := none
  /-- address of the group that issued it -/
  heldPc : Nat := 0
  blk : Block := .none
  /-- the timer of a `wait` (R142): the cycle at which it elapses -/
  timer : Option Nat := none
  /-- the timer of a `recvt` (R295) -/
  rtimer : Option Nat := none
  /-- `recvt`'s time has run out -/
  timedOut : Bool := false
  gang : Option GangRec := none
  drupe : Option Drupe := none
  /-- ring slots acquired and not published, consumed and not freed (R310): handle, position, oldest first -/
  acquired : List (Nat × Nat) := []
  consumed : List (Nat × Nat) := []
  /-- the launch: FIFO and sequence number (R41) -/
  launch : Option (Nat × Nat) := none
  /-- container handle -/
  cont : Nat := 0
  /-- the replica the thread serves (R58): name and slot -/
  replica : Option (Nat × Nat) := none
  /-- a retry reply has been received for the held access (R337, refaults) -/
  retried : Bool := false
  /-- the same for the fetch of its group -/
  refetch : Bool := false
  /-- the drain whose row the held `rowout` copy carries (R204): dispatch sequence -/
  rowCopy : Option Nat := none
  /-- accesses issued and not performed yet, in program order (R271) -/
  deferred : List Deferred := []
  /-- its next store is the first after a `fence rel` or `fence full`, a release (R273) -/
  fenced : Bool := false
  /-- dispatch number of the A-slot partner of the latest control transfer (R101) -/
  part : Option Nat := none
  /-- what the latest group still does (R101, R147) -/
  after : After := .none
  /-- a `migr` whose context could not be saved: the cluster (R357) -/
  migReq : Option Nat := none
deriving DecidableEq, Repr

/-- A thread and vector file as they stood when a pair's sources were read (R99). -/
structure Latch where
  thr : Thread
  v : Vector VReg 32
  /-- `g13` of the members of the thread's gang: core, slot, value (R28) -/
  heads : List (Nat × Nat × Word) := []
  /-- the counter a `ctrget` of the group names, as earlier cycles left it (R338) -/
  count : Option Word := none
deriving DecidableEq, Repr

/-! ## Messages -/

/-- Fields of a directory slot (R54). -/
structure DirSlot where
  core : Nat := 0
  /-- 0 FREE, 1 PENDING, 2 ACTIVE, 3 DRAINING, 4 RETIRED -/
  state : Nat := 0
  fin : Bool := false
  depth : Nat := 0
  wver : Nat := 0
deriving DecidableEq, Repr

/-- A directory entry's fields (R54). -/
structure DirEntry where
  v : Bool := false
  name : Nat := 0
  shr : Nat := 0
  owner : Nat := 0
  ostack : Nat := 0
  gfmt : Nat := 0
  maxrep : Nat := 0
  frz : Bool := false
  served : Nat := 0
  win : Nat := 0
  thret : Nat := 0
  threp : Nat := 0
  meter : Nat := 0
  fver : Nat := 0
  rvoff : Nat := 0
  wlines : Nat := 0
  wbase : Nat := 0
  hpc : Nat := 0
  slots : List DirSlot := List.replicate 8 {}
deriving DecidableEq, Repr

/-- What a hardware message carries beyond its header (kinds 4 to 9 and the directory's messages, R391). -/
inductive SysMsg where
  | none
  /-- R290: child PC, octet, krole, kround, kstep, kstage, launch, container, a remote or bad target refused -/
  | spawn (pc : Word) (octet : List Word) (krole kround kstep kstage : Word) (launch : Option (Nat × Nat)) (cont : Nat)
  | spawnReply (accepted : Bool)
  /-- R296: launch and container of a Drupe's sender -/
  | drupe (launch : Option (Nat × Nat)) (cont : Nat)
  /-- R356: the context, the origin, and the register that receives the core's number -/
  | context (t : Thread) (ocore oslot : Nat) (d : Nat)
  | contextAck (newCore newSlot oslot : Nat)
  | meter (name : Nat)
  | claim (name j : Nat)
  /-- R58: with the name of the replica thread's context, 0 when refused -/
  | claimReply (name j core uid : Nat) (accepted : Bool)
  /-- R59, R377: with the context whose `dirset` waits for it -/
  | activation (name j wver : Nat) (fin : Bool) (ostack gfmt : Nat) (asker : Option Nat)
  /-- R392: a later change of the slot, to its core -/
  | slotChange (name j state wver : Nat) (fin : Bool)
  /-- R53: a change, to a sharer cluster: the entry's new contents -/
  | change (cluster name : Nat) (e : DirEntry)
  | changeAck (cluster name : Nat)
  | evict (cluster name : Nat)
  | served (name j core : Nat)
  | servedAnswer (name j : Nat) (yes : Bool)
  | finalPush (name j step : Nat)
  | depth (name j n : Nat)
  /-- R313: name, step, line, last flag, pushing slot, format; `ending` an end element -/
  | gradient (name step line : Nat) (last : Bool) (j gfmt : Nat) (ending : Bool)
  | faultRecord (r : FaultRec)
  /-- R353: rid, unit, code, new generation, service core -/
  | faultReply (rid unit code gen svc : Nat)
deriving DecidableEq, Repr

/-- A message (R283): the header's fields, the flits, and what hardware messages carry. -/
structure Msg where
  uid : Nat := 0
  kind : Nat := 0
  vn : Nat := 0
  tag : Nat := 0
  step : Nat := 0
  reason : Nat := 0
  rix : Nat := 0
  sdev : Nat := 0
  src : Nat := 0
  sslot : Nat := 0
  ddev : Nat := 0
  dslot : Nat := 0
  dst : Nat := 0
  mid : Nat := 0
  nf : Nat := 0
  flits : List (BitVec 512) := []
  sys : SysMsg := .none
  /-- cycle at which it entered the network, and whether it is in an escape buffer (R293) -/
  since : Nat := 0
  escaped : Bool := false
  /-- it waits at its target's router, having found room neither in the inbox nor in the overflow store (R285) -/
  atRouter : Bool := false
  /-- it comes back from the overflow store (R285) -/
  back : Bool := false
  /-- cycle of its arrival (R295) -/
  arr : Nat := 0
  /-- a token that an expert forwarding entry has sent on: it is handled as slot 0's (R61) -/
  fwd : Bool := false
  /-- uid of the sending context -/
  suid : Nat := 0
deriving DecidableEq, Repr

/-- A message held in an inbox: whether it is parked for an activation or a served answer (R62), and its first slot. -/
structure InboxEntry where
  msg : Msg
  parked : Bool := false
  /-- the token has taken a unit of capacity and waits for the served answer (R65) -/
  waitServed : Bool := false
  slot : Nat := 0
deriving DecidableEq, Repr

/-- A message in an outbox, with the address of a payload still to be read. -/
structure OutboxEntry where
  msg : Msg
  /-- the payload has been read -/
  ready : Bool := true
  /-- waits for the cache's routing decision, or for the last push's predecessors -/
  routing : Bool := false
deriving DecidableEq, Repr

/-! ## Core units -/

/-- An accumulator (R186, R188): elements (row × 32 + column) as ACC48 numbers, 0 where not listed. -/
structure Accum where
  elems : FMap Nat := []
  pin : Bool := false
  mode : Nat := 0
  fa : Nat := 0
  fb : Nat := 0
  flg : BitVec 6 := 0
  seg : Nat := 0
  kcnt : Nat := 0
  /-- k-steps of the chain modulo 128, which `kcnt` does not tell once it is saturated (R87, R89) -/
  pos : Nat := 0
  sclA : Word := 0
  sclB : Word := 0
  owner : Option (Nat × Nat) := none
deriving DecidableEq, Repr

/-- The registers an instruction reads at issue for a queued unit (R192, R355). -/
structure Sampled where
  kfmtA : Word := 4
  kfmtB : Word := 4
  kfmtC : Word := 6
  ksclA : Word := 0
  ksclB : Word := 0
  kround : Word := 0
  kseq : Word := 0
  kstep : Word := 0
  kstage : Word := 0
  ktol : Word := 0
  kenv : Word := 0
  /-- scalar operands in the order of the fields -/
  ops : List Word := []
deriving DecidableEq, Repr

/-- A matrix command queued or running (R191) or complete but for the release of its rows (R199, R204). -/
structure MCmd where
  ins : Instr
  s : Sampled
  core : Nat
  slot : Nat
  uid : Nat
  pc : Nat
  seq : Nat
  launch : Option (Nat × Nat)
  cont : Nat
  /-- pushed by `mremote`: pushing core, push sequence and header word (R307) -/
  remote : Option (Nat × Nat × Word) := none
  /-- the device that pushed it, when not this one (R307) -/
  far : Option Nat := none
  /-- the access at which it stands has received a retry reply (R337) -/
  retried : Bool := false
  /-- next k of the group being fetched, next row of a drain, flags raised so far, drain stage of a segment -/
  k : Nat := 0
  row : Nat := 0
  flags : BitVec 6 := 0
  /-- copied rows of segments still to be delivered: segment, row, values -/
  stage : List (Nat × Nat × List Nat) := []
  /-- the arithmetic is over; rows may still be delivered or held -/
  done : Bool := false
  /-- the checks of its start have passed -/
  started : Bool := false
  /-- a fault of the command awaits its reply -/
  faulted : Bool := false
  /-- a segment end is due (R195) -/
  due : Bool := false
  /-- rows of A fetched for the group in progress -/
  fetched : List (List Nat) := []
  /-- the shape record and the epilogue record, once read -/
  shapeRec : List Byte := []
  epiRec : List Byte := []
  /-- the row staged in a row slot whose epilogue thread has not started yet (R200): slot, row, segment -/
  waiting : Option (Nat × Nat × Nat) := none
deriving DecidableEq, Repr

/-- A row slot in use (R199, R201): accumulator, row, slot address, bytes, drain's command. -/
structure RowSlot where
  acc : Nat
  row : Nat
  addr : Nat
  bytes : Nat
  cmd : Nat
deriving DecidableEq, Repr

/-- One piece of an envelope (R207): slope, intercept, left breakpoint as FP32 numbers, tag. -/
structure Piece where
  s : Nat
  c : Nat
  b : Nat
  t : Nat
deriving DecidableEq, Repr

/-- An envelope (R207), with the launch of the last writer. -/
structure Env where
  lo : Nat := 0xFF800000
  hi : Nat := 0x7F800000
  pieces : List Piece := []
  owner : Option (Nat × Nat) := none
deriving DecidableEq, Repr

/-- A Rind instruction queued (R210). -/
structure RCmd where
  ins : Instr
  s : Sampled
  slot : Nat
  uid : Nat
  pc : Nat
  seq : Nat
  launch : Option (Nat × Nat)
  lathe : Bool := false
  /-- envelopes it reads as they stood at issue, inside a window of its thread -/
  old : FMap Env := []
  /-- the image `eld` has read -/
  image : List Byte := []
deriving DecidableEq, Repr

/-- A renamed envelope result waiting for its window (R210): destination, issuing context, look left, result. -/
structure EnvPend where
  d : Nat
  uid : Nat
  seq : Nat
  look : Nat
  /-- none until the instruction has run -/
  res : Option Env
  lathe : Bool := false
deriving DecidableEq, Repr

/-- The Lathe (R152 to R155): owner slot and context, captured A-slot words with their instructions, geometry, window
sampled, what is left to capture, position of the next repetition. -/
structure Lathe where
  slot : Nat
  uid : Nat
  pc : Nat
  left : Nat
  bad : Bool := false
  words : List Instr := []
  stride : Nat := 0
  count : Nat := 0
  wbase : Nat := 0
  wcnt : Nat := 0
  r : Nat := 0
  i : Nat := 0
deriving DecidableEq, Repr

/-- A dispatch-ring entry (R355). -/
structure RingEntry where
  seq : Nat
  ins : Instr
  pc : Nat
  slot : Nat
  uid : Nat
  g : Vector Word 16
  p : Vector Pred 8
  kvwin : Word
  s : Sampled
  cont : Nat := 0
  rep : Nat := 0
  /-- the Lathe as it stood when it issued the instruction -/
  lathe : Option Lathe := none
  /-- the instruction has faulted and awaits its reply -/
  faulted : Bool := false
deriving DecidableEq, Repr

/-- A `vxall` in the core's queue (R184). -/
structure VxCmd where
  n : Nat
  w : Nat
  /-- core registers of the destination -/
  d : Nat
  data : List VReg
  slot : Nat
  uid : Nat
  pc : Nat
  seq : Nat
  /-- the Lathe has issued it: its thread does not wait (R154) -/
  lathe : Bool := false
deriving DecidableEq, Repr

/-- An engine command: header and body words (R108), running progress, samples (R307). -/
structure ECmd where
  hdr : Word
  body : List Word
  slot : Nat
  uid : Nat
  pc : Nat
  launch : Option (Nat × Nat)
  cont : Nat
  s : Sampled
  /-- bytes (or rows) done; units -/
  done : Nat := 0
  /-- a fault awaits its reply -/
  faulted : Bool := false
  /-- cycle of the push: the order of a thread's pushes, wherever it was (R305) -/
  pushed : Nat := 0
  /-- the table rows of the index list as far as it has been read; none of a row whose index a reply passed over (R303, R354) -/
  idx : List (Option Nat) := []
  /-- the position of the ring slot being written or read (R304) -/
  ringPos : Option Nat := none
  /-- bytes of an element that go into the next ring slot (R306) -/
  rest : List Byte := []
  /-- the access at which it stands has received a retry reply (R337) -/
  retried : Bool := false
  /-- status and result body once complete -/
  result : Option (Nat × List Word) := none
  /-- the stride pattern read at the start (R334) -/
  pattern : BitVec 256 := 0
deriving DecidableEq, Repr

/-- A result entry of an output FIFO (R108): header, body, owner. -/
structure QoEntry where
  hdr : Word
  body : List Word
  slot : Nat
  uid : Nat
deriving DecidableEq, Repr

/-- A round of a group at a member core (R312): the contribution, by whom, by a `bar` or not, the result, claims. -/
structure GroupState where
  contrib : Word
  uid : Nat
  bar : Bool
  result : Option Word := none
  /-- a `grpld` has claimed the result -/
  claimed : Bool := false
  /-- the thread of its `bar` has gone -/
  gone : Bool := false
deriving DecidableEq, Repr

/-- A replica's activation at its core, with its copies (R392); served flag 0 unasked, 1 pending, 2 yes, 3 no. -/
structure Activation where
  j : Nat
  /-- the slot's state as last heard -/
  state : Nat := 2
  wver : Nat
  fin : Bool
  ostack : Nat
  gfmt : Nat
  served : Nat := 0
deriving DecidableEq, Repr

/-- A forwarding entry (R331): expert (key name, target core) or thread (key slot, target core and slot). -/
structure Forward where
  thread : Bool
  key : Nat
  core : Nat
  slot : Nat
  expires : Nat
  /-- the launch it is freed with (R359) -/
  launch : Option (Nat × Nat) := none
deriving DecidableEq, Repr

/-- A gradient-queue element (R313, R315). -/
structure GradElem where
  name : Nat
  step : Nat
  line : Nat
  last : Bool
  j : Nat
  gfmt : Nat
  ending : Bool
  data : BitVec 512
  suid : Nat
  /-- the core that pushed it -/
  src : Nat := 0
deriving DecidableEq, Repr

/-- A context that has left its slot (R357): the thread as saved, live masks, window registers. -/
structure Absent where
  thr : Thread
  slot : Nat
  glive : BitVec 16
  plive : BitVec 8
  vlive : BitVec 32
  win : List VReg
  /-- a thread has started in its slot since (R358) -/
  lost : Bool := false
  /-- the SCHED record has been posted -/
  posted : Bool := false
  /-- resumed by a SCHED retry reply -/
  wake : Bool := false
  /-- saved by `migr` (R21): the cluster it is to be placed in, and the register that receives the core's number -/
  target : Option (Nat × Nat) := none
deriving DecidableEq, Repr

/-- A message or result parked for an absent context (R358), or held for a migrating one (R356). -/
structure Parked where
  uid : Nat
  msg : Option Msg
  res : Option (Nat × QoEntry)
deriving DecidableEq, Repr

/-- A core. -/
structure Core where
  /-- thread slots; a slot not listed is idle -/
  threads : FMap Thread := []
  v : Vector VReg 32 := Vector.replicate 32 0
  kage : Word := 64
  kpre : Word := 4096
  kvwait : Word := 0x100000
  acc : FMap Accum := []
  /-- the weight buffer's bytes -/
  wbuf : Memory := []
  mq : List MCmd := []
  mrun : Option MCmd := none
  /-- commands complete but for the release of their rows -/
  mrows : List MCmd := []
  rowSlots : FMap RowSlot := []
  env : FMap Env := []
  rq : List RCmd := []
  envPend : List EnvPend := []
  lathe : Option Lathe := none
  vxq : List VxCmd := []
  inbox : List InboxEntry := []
  outbox : List OutboxEntry := []
  /-- overflow store: spilled messages of `vn.rep` and `vn.sys`, results, fault records; parked items -/
  spill : List Msg := []
  spillRes : List (Nat × QoEntry) := []
  spillFlt : List FaultRec := []
  parked : List Parked := []
  absent : List Absent := []
  qi : FMap (List ECmd) := []
  qrun : FMap (List ECmd) := []
  qo : FMap (List QoEntry) := []
  pushSeq : FMap Nat := []
  dispSeq : Nat := 0
  ring : List RingEntry := []
  issued : Nat := 0
  dropPf : Nat := 0
  refault : Nat := 0
  deadlock : Nat := 0
  discarded : Nat := 0
  groups : FMap GroupState := []
  tree : FMap (BitVec 32) := []
  cap : FMap Nat := []
  capab : FMap (Word × Nat) := []
  fwd : List Forward := []
  fwExp : Nat := 16
  fwMig : Nat := 64
  acts : FMap Activation := []
  /-- claims held: name and slot (R330) -/
  claims : FMap Nat := []
  /-- replica copies in progress: name to slot, version, start cycle -/
  copies : FMap (Nat × Nat × Nat) := []
  /-- last depth reported per expert (R376) -/
  lastDepth : FMap Nat := []
  itlb : List TlbEntry := []
  dtlb : List TlbEntry := []
  /-- instruction cache: the container and role image present (R370) -/
  icache : Option (Nat × Nat) := none
  /-- slots that have become free and may start a communication image (R47) -/
  freed : List Nat := []
  gen : Nat := 0
  /-- generations learned per service core (R352) -/
  learned : FMap Nat := []
  gradq : List GradElem := []
deriving DecidableEq, Repr

/-- A ring (R309, R310). -/
structure Ring where
  base : Nat
  slots : Nat
  bytes : Nat
  a : Nat := 0
  p : Nat := 0
  c : Nat := 0
  f : Nat := 0
  pubs : List Nat := []
  freed : List Nat := []
  launch : Option (Nat × Nat) := none
  /-- waiting threads in arrival order: context uid -/
  waitA : List Nat := []
  waitC : List Nat := []
deriving DecidableEq, Repr

/-- A continuation record (R34). -/
structure TaskRec where
  pc : Word
  key : Word
  args : List Word
  launch : Option (Nat × Nat)
  cont : Nat
  /-- the cycle of its arrival and the core it comes from (R36) -/
  since : Nat := 0
  src : Nat := 0
deriving DecidableEq, Repr

/-- A directory cache line. -/
structure DirLine where
  name : Nat
  e : DirEntry
deriving DecidableEq, Repr

/-- A cluster. -/
structure Cluster where
  /-- second-level TLB: set to entries, most recent first -/
  l2tlb : FMap (List TlbEntry) := []
  /-- directory cache, most recent first -/
  dcache : List DirLine := []
  /-- names being fetched from their homes -/
  fetching : List Nat := []
  rings : FMap Ring := []
  taskq : List TaskRec := []
  /-- records beyond 512, in the overflow store of the lowest core -/
  taskOver : List TaskRec := []
  /-- records for which that store has no room -/
  taskWait : List TaskRec := []
deriving DecidableEq, Repr

/-- A claim in progress at a home (R58). -/
structure Claim where
  j : Nat
  core : Nat
  refused : Nat
  /-- candidates not yet tried -/
  rest : List Nat
  /-- `repnew`: core and slot of the blocked thread -/
  asker : Option (Nat × Nat)
deriving DecidableEq, Repr

/-- A home's record of one name: the entry and what the hardware keeps beside it. -/
structure Home where
  e : DirEntry := {}
  winStart : Nat := 0
  /-- length of the window in progress (R326 TUNE) -/
  winLen : Nat := 0
  /-- creations, retirements, creation aborts, dropped creations (R342) -/
  stats : List Nat := [0, 0, 0, 0]
  claims : List Claim := []
  /-- unacknowledged changes per cluster -/
  unacked : FMap Nat := []
  /-- per DRAINING slot, a cluster for each change up to that to DRAINING it has not acknowledged (R61) -/
  drainWait : FMap (List Nat) := []
  /-- RETIRED slots whose forwarding entry could not be installed yet (R56) -/
  fwdDue : List Nat := []
  /-- the context of each slot's replica thread (R58, R61) -/
  reps : FMap Nat := []
  /-- end elements of the current step have been sent (R67) -/
  joined : Bool := false
  /-- launch and container of the thread that created the entry (assumption 20) -/
  launch : Option (Nat × Nat) := none
  cont : Nat := 0
deriving DecidableEq, Repr

/-- A Spindle map entry (R252). -/
structure SvMap where
  valid : Bool := false
  map : List Nat := []
  recAddr : Nat := 0
  /-- region translation: per slot, physical page bases -/
  pages : List (List Nat) := []
deriving DecidableEq, Repr

/-- A Spindle command accepted by its lead hub (R254, R265). -/
structure SvCmd where
  hdr : Word
  body : List Word
  core : Nat
  slot : Nat
  uid : Nat
  pc : Nat
  launch : Option (Nat × Nat)
  cont : Nat
  mapid : Nat := 0
  record : BitVec 256 := 0
  phase : Nat := 0
  pidx : Nat := 0
  chunk : Nat := 0
  count : Nat := 0
  started : Bool := false
  halted : Bool := false
  /-- place in the order of acceptance -/
  ord : Nat := 0
  /-- it holds its hubs, which run one command at a time -/
  active : Bool := false
  /-- sums of the regions so far, in the summation (R261) -/
  sums : List Nat := []
  /-- the thread's `kstage` at the push -/
  stage : Nat := 0
  /-- it was sent by the lead hub of another device, where its result is due (R254) -/
  far : Bool := false
  /-- its fault has received a retry reply (R337) -/
  retried : Bool := false
  /-- its fault has received a skip reply: it passes its next chunk (R354) -/
  passes : Bool := false
  /-- the matrix, diagonal or map read at the start -/
  data : List Word := []
  /-- status and result body once complete on every hub -/
  result : Option (Nat × List Word) := none
deriving DecidableEq, Repr

/-- A stack hub. -/
structure Hub where
  /-- page-cache area in pieces (R225) and its tags: set to ways, most recent first -/
  pcsz : Nat := 0
  tags : FMap (List PcTag) := []
  patterns : FMap (BitVec 256) := []
  maps : FMap SvMap := []
  svq : List SvCmd := []
  /-- frames held by a move in progress, forwarding pointers (frame to target base) (R368) -/
  heldFrames : List Nat := []
  pointers : FMap Nat := []
deriving DecidableEq, Repr

/-- A die. -/
structure Die where
  n : Nat := 2
  /-- cycle of the last change of N -/
  changed : Option Nat := none
  rsvmin : Nat := 2
  rsvmax : Nat := 8
  rsvhi : Nat := 1024
  rsvlo : Nat := 256
  dlto : Nat := 65536
  fltto : Nat := 262144
  thr : Nat := 95 + 256 * 105
  /-- temperatures of its sensors in °C (R372): 0 the die's, 1 + hub a hub's -/
  temps : FMap Nat := []
deriving DecidableEq, Repr

/-- A launch running, contained or halted (R40, R41). -/
structure Launch where
  sq : Nat
  record : BitVec 512
  /-- threads still to start: core, image role, rank, stage -/
  toPlace : List (Nat × Nat × Nat × Nat) := []
  placed : Nat := 0
  contained : Bool := false
  halting : Option Nat := none
  halted : Bool := false
deriving DecidableEq, Repr

/-- A launch FIFO (R37, R39). -/
structure LFifo where
  queue : List (Nat × BitVec 512) := []
  pushed : Nat := 0
  done : Nat := 0
  running : Option Launch := none
deriving DecidableEq, Repr

/-- A role image of a loaded container (R119, R121). -/
structure Role where
  idx : Nat
  text : Nat
  size : Nat
  entry : Nat
  krole : Nat
  comm : Bool
deriving DecidableEq, Repr

/-- A loaded container (R369). -/
structure Container where
  /-- physical address of the level-0 table -/
  root : Nat
  roles : List Role
  /-- placement entries in file order -/
  place : List (BitVec 64)
  fanout : Nat
  /-- its one vault image -/
  vault : List Byte
  verified : Bool
  measure : List Byte
  /-- HBM frames taken, in runs: the first, numbered through the stacks, and how many -/
  taken : List (Nat × Nat) := []
deriving DecidableEq, Repr

/-- What a halted launch left in its halt area (R360). -/
structure HaltSave where
  area : Nat
  fifo : Nat
  /-- the launch as it ran -/
  run : Launch
  /-- contexts and parked items, by core -/
  contexts : List (Nat × Absent)
  parked : List (Nat × Parked)
  /-- pinned accumulators and envelopes, by core and number -/
  accs : List (Nat × Nat × Accum)
  envs : List (Nat × Nat × Env)
  /-- Spindle commands by lead hub, with their map entries by hub and number -/
  sv : List (Nat × SvCmd)
  maps : List (Nat × Nat × SvMap)
  /-- late faults whose threads await the reply, by core -/
  late : List (Nat × FaultWait)
deriving DecidableEq, Repr

/-- The operands of an event (Syntax.lean): core or rank, slot or kind, index, FIFO or hub, a switch, words, a record. -/
structure EvArgs where
  q : Nat := 0
  t : Nat := 0
  k : Nat := 0
  f : Nat := 0
  on : Bool := false
  v : Word := 0
  w : Word := 0
  data : BitVec 512 := 0
deriving DecidableEq, Repr

/-- One choice of the schedule (assumption 1): cycles that pass first, and what acts: an event, or a core's issue, whose relaxed
access may be left to be performed later (`late`, R271). -/
inductive Pick where
  | event (stall : Nat) (e : Instr) (a : EvArgs)
  | issue (stall core : Nat) (late : Bool := false)
deriving DecidableEq, Repr

/-- The instruction being executed. -/
structure Cur where
  core : Nat := 0
  slot : Nat := 0
  /-- address of its group -/
  addr : Word := 0
  /-- the registers its sources are read from, when not the current ones (R99) -/
  latch : Option Latch := none
  /-- the group does not execute: its condition does not hold, it faulted or it trapped (R101) -/
  stop : Bool := false
  /-- it runs in the Lathe: window base and count in force at the `lathe`, and r × stride (R152) -/
  lathe : Option (Nat × Nat × Nat) := none
  /-- repetition of a repeated instruction -/
  rep : Nat := 0
  /-- a gang follower runs it: the leader decides where the gang goes on (R26) -/
  follows : Bool := false
  /-- a late instruction runs again from its dispatch-ring entry, by sequence number (R355) -/
  replay : Option Nat := none
deriving DecidableEq, Repr

/-- The state of the module. -/
structure State where
  cycle : Nat := 0
  cores : FMap Core := []
  clusters : FMap Cluster := []
  hubs : FMap Hub := []
  dies : FMap Die := []
  /-- directory homes, by expert name -/
  dir : FMap Home := []
  mem : Memory := []
  /-- version state of lines, by physical address ÷ 64 -/
  ver : FMap LineVer := []
  /-- stalled versioned stores, oldest first (R234): pool, context uid, start cycle -/
  stalls : List (Nat × Nat × Nat) := []
  /-- unacknowledged stores (R245): context uid, physical address -/
  acks : List (Nat × Nat) := []
  /-- bytes of peer, host and CXL memory that some threads still read as they were (R272) -/
  hidden : List Hidden := []
  fifos : FMap LFifo := []
  conts : FMap Container := []
  halts : List HaltSave := []
  /-- what the halt areas in a checkpoint hold, by the checkpoint's address (R366, assumption 62) -/
  ckHalts : List (Nat × List HaltSave) := []
  svcmap : FMap (BitVec 16) := []
  /-- the management window (R362) -/
  mwCst : Word := 0
  /-- the block of the command being performed, while `mw.cst` shows busy (R363) -/
  mwCmd : Option (BitVec 512) := none
  mwFltoff : Word := 0x1FA0000
  mwFab : Word := 0
  mwPol : Word := 0
  mwOvf : FMap Word := []
  mwSw : FMap Bool := []
  mwCxl : FMap (BitVec 128) := []
  net : List Msg := []
  /-- messages handed to the fabric (R367) -/
  fabric : List Msg := []
  /-- gradient pushes sent and not settled: context uid, name, step (R313) -/
  pushes : List (Nat × Nat × Nat) := []
  linksDown : List Nat := []
  flts : List FaultWait := []
  /-- page-cache fills in flight: hub, virtual page, owner rank, owner hub, frame, lease wanted -/
  fills : List (Nat × Nat × Nat × Nat × Nat × Bool) := []
  /-- copies and leases of this device's pages held by peers (R226, R227): rank, hub, frame, lease -/
  peerCopies : List (Nat × Nat × Nat × Bool) := []
  /-- invalidations and recalls sent to peers: rank, hub, frame -/
  peerInval : List (Nat × Nat × Nat) := []
  /-- peer requests held for a lease recall or a frame move (R227, R368) -/
  peerHeld : List EvArgs := []
  /-- lifetime totals and bins (R345, R346): (object, item × 16 + bin) keyed; 8 bins then total at 15 -/
  life : FMap Nat := []
  lifeLog : FMap Nat := []
  /-- power-on time in cycles before this reset (R346) -/
  powerOn : Nat := 0
  on : Bool := true
  /-- boot-tree deliveries in progress: FIFO to (rank to blocks present) -/
  boot : FMap (FMap Nat) := []
  /-- the outside world's events to come -/
  inputs : List (Instr × EvArgs) := []
  sched : List Pick := []
  ev : EvArgs := {}
  free : Nat := 0
  cur : Cur := {}
  /-- the pick leaves relaxed accesses to be performed later (R271, assumption 3) -/
  defers : Bool := false
  nextUid : Nat := 1
  rr : Nat := 0
deriving DecidableEq, Repr

/-- The module right after device reset: registers, memory and tables at the values the spec states (R125, R156, R186,
R220, R282, R318, R337, R362), nothing listed where that is the default; no thread. -/
def State.reset : State := {}

end Sys2Proof.Machine
end

