-- ==== Sys2Proof/Machine/Mem.lean ====
section
/-! DEFINITION. Memory as cells over physical addresses (R220, R1): bytes, little-endian words, ranges. Physical addresses:
a vault byte is its address below 2^32; HBM byte `off` of stack `h` is 2^40 + h·2^36 + off; a byte of the CXL pool is 2^60 and its CXL
host-physical address, and byte `off` of region `r`, before the region's base is added, 2^61 + r·2^52 + off; host byte `a` is 2^64 + a; byte `off` of stack `h` of device `rank` is 2^72 + rank·2^41 + h·2^36 + off,
and this device's cached copy of it 2^80 more; byte `va` of another device's address space (a Spindle slot of R252) is
2^90 + rank·2^52 + va. -/

namespace Sys2Proof.Machine

/-- Physical address of an HBM byte. -/
def hbmPa (h off : Nat) : Nat := 2 ^ 40 + h * 2 ^ 36 + off
/-- A byte of a CXL region, as a leaf or a pointer names it (R320). -/
def cxlPa (r off : Nat) : Nat := 2 ^ 61 + r * 2 ^ 52 + off
/-- Physical address of a byte of a CXL region: the region's base and the offset (R365); ports only route (assumption 83). -/
def State.poolAt (s : State) (r off : Nat) : Nat := 2 ^ 60 + (fget 0 s.mwCxl r).toNat % 2 ^ 52 + off
/-- The physical address of a byte that a leaf or a pointer names. -/
def State.pooled (s : State) (pa : Nat) : Nat :=
  if 2 ^ 61 ≤ pa ∧ pa < 2 ^ 62 then s.poolAt ((pa - 2 ^ 61) / 2 ^ 52) (pa % 2 ^ 52) else pa
/-- Physical address of a host byte. -/
def hostPa (a : Nat) : Nat := 2 ^ 64 + a
/-- Physical address of a byte of a peer's stack. -/
def peerPa (rank h off : Nat) : Nat := 2 ^ 72 + rank * 2 ^ 41 + h * 2 ^ 36 + off
/-- Where this device keeps its copy of a peer byte (R225). -/
def cachedPa (pa : Nat) : Nat := 2 ^ 80 + pa
/-- Physical address of a byte of another device's virtual space. -/
def spacePa (rank va : Nat) : Nat := 2 ^ 90 + rank * 2 ^ 52 + va

/-- One byte. What no cell lists reads as 0 (vaults R220; elsewhere assumption 5). -/
def Memory.get (m : Memory) (a : Nat) : Byte :=
  match m with
  | [] => 0
  | (b, v) :: rest => if b == a then v else Memory.get rest a

/-- Write one byte; a cell equal to what an unlisted address reads as is not kept. -/
def Memory.set (m : Memory) (a : Nat) (v : Byte) : Memory :=
  match m with
  | [] => if v == 0 then [] else [(a, v)]
  | (b, w) :: rest =>
    if b == a then (if v == 0 then rest else (a, v) :: rest)
    else if a < b then (if v == 0 then (b, w) :: rest else (a, v) :: (b, w) :: rest)
    else (b, w) :: Memory.set rest a v

/-- The canonical form: addresses strictly rising, no cell equal to 0. -/
def Memory.wf (m : Memory) : Bool :=
  match m with
  | [] => true
  | (a, v) :: rest => v != 0 && rest.all (fun c => decide (a < c.1)) && Memory.wf rest

/-- `n` bytes from `a`, ascending. -/
def Memory.bytes (m : Memory) (a n : Nat) : List Byte := (List.range n).map (fun i => m.get (a + i))

/-- Write bytes from `a`, ascending. -/
def Memory.setBytes (m : Memory) (a : Nat) (l : List Byte) : Memory :=
  match l with
  | [] => m
  | b :: rest => Memory.setBytes (m.set a b) (a + 1) rest

/-- Bytes as a little-endian number (R1). -/
def leNat (l : List Byte) : Nat :=
  match l with
  | [] => 0
  | b :: rest => b.toNat + 256 * leNat rest

/-- The low `n` bytes of a number, little-endian (R1). -/
def leBytes (n v : Nat) : List Byte := (List.range n).map (fun i => BitVec.ofNat 8 (v / 2 ^ (8 * i)))

/-- Little-endian number of `n` bytes. -/
def Memory.nat (m : Memory) (a n : Nat) : Nat := leNat (m.bytes a n)
/-- Write the low `n` bytes of a number. -/
def Memory.setNat (m : Memory) (a n v : Nat) : Memory := m.setBytes a (leBytes n v)

/-- The cells of a range. -/
def Memory.range (m : Memory) (a n : Nat) : Memory := m.filter (fun c => decide (a ≤ c.1) && decide (c.1 < a + n))
/-- The memory with a range cleared. -/
def Memory.clear (m : Memory) (a n : Nat) : Memory := m.filter (fun c => !(decide (a ≤ c.1) && decide (c.1 < a + n)))
/-- The memory with `n` bytes from `src` copied to `dst` at once. -/
def Memory.copy (m : Memory) (dst src n : Nat) : Memory :=
  (m.range src n).foldl (fun acc c => acc.set (dst + (c.1 - src)) c.2) (m.clear dst n)

/-- A 512-bit line or flit from its 64 bytes. -/
def lineOf (l : List Byte) : BitVec 512 := BitVec.ofNat 512 (leNat l)
/-- The 64 bytes of a line or flit. -/
def lineBytes (x : BitVec 512) : List Byte := leBytes 64 x.toNat
/-- The 64-bit word `i` of a line. -/
def lineWord (x : BitVec 512) (i : Nat) : Word := x.extractLsb' (64 * i) 64
/-- A line from its words, word 0 lowest; missing words are 0. -/
def lineOfWords (ws : List Word) : BitVec 512 := BitVec.ofNat 512 (leNat (ws.flatMap (fun w => leBytes 8 w.toNat)))

end Sys2Proof.Machine
end

