-- ==== Sys2Proof/Machine/Operands.lean ====
section
/-! DEFINITION. Where state lives and how operands are read and written: cores, threads, scalar registers at every width
(R95, R125), window-relative vector registers (R20, R157), predicates (R160). Sources come from the latch of the pair while
one is held (R99); `g0` reads 0 and discards writes in `Thread.reg` and `Thread.setReg` alone. -/

namespace Sys2Proof.Machine

/-- A core. -/
def State.core (s : State) (c : Nat) : Core := fget {} s.cores c
/-- Replace a core. -/
def State.setCore (s : State) (c : Nat) (x : Core) : State := { s with cores := fset s.cores c x }
/-- A thread slot. -/
def Core.thr (x : Core) (t : Nat) : Thread := fget {} x.threads t
/-- Replace a thread slot. -/
def Core.setThr (x : Core) (t : Nat) (y : Thread) : Core := { x with threads := fset x.threads t y }
/-- The thread slot `t` of core `c`. -/
def State.thr (s : State) (c t : Nat) : Thread := (s.core c).thr t
/-- Replace a thread slot of a core. -/
def State.setThr (s : State) (c t : Nat) (y : Thread) : State := s.setCore c ((s.core c).setThr t y)
/-- A cluster. -/
def State.cluster (s : State) (k : Nat) : Cluster := fget {} s.clusters k
/-- Replace a cluster. -/
def State.setCluster (s : State) (k : Nat) (x : Cluster) : State := { s with clusters := fset s.clusters k x }
/-- A stack hub. -/
def State.hub (s : State) (h : Nat) : Hub := fget {} s.hubs h
/-- Replace a stack hub. -/
def State.setHub (s : State) (h : Nat) (x : Hub) : State := { s with hubs := fset s.hubs h x }
/-- A die. -/
def State.die (s : State) (d : Nat) : Die := fget {} s.dies d
/-- Replace a die. -/
def State.setDie (s : State) (d : Nat) (x : Die) : State := { s with dies := fset s.dies d x }
/-- A temperature is above a die's throttle temperature (R372). -/
def Die.above (x : Die) (t : Nat) : Bool := decide (x.thr % 2 ^ 8 < t)
/-- A sensor of a die is at the shutdown temperature (R372). -/
def Die.tooHot (x : Die) : Bool := x.temps.any (fun t => decide (x.thr / 2 ^ 8 % 2 ^ 8 ≤ t.2))
/-- A launch FIFO. -/
def State.fifo (s : State) (f : Nat) : LFifo := fget {} s.fifos f
/-- Replace a launch FIFO. -/
def State.setFifo (s : State) (f : Nat) (x : LFifo) : State := { s with fifos := fset s.fifos f x }

/-- The core the instruction runs on. -/
def State.here (s : State) : Core := s.core s.cur.core
/-- Change the core the instruction runs on. -/
def State.modHere (s : State) (f : Core → Core) : State := s.setCore s.cur.core (f s.here)
/-- The thread that executes the instruction. -/
def State.me (s : State) : Thread := s.thr s.cur.core s.cur.slot
/-- Change the executing thread. -/
def State.modMe (s : State) (f : Thread → Thread) : State := s.setThr s.cur.core s.cur.slot (f s.me)
/-- The thread's registers as the instruction reads them (R99). -/
def State.src (s : State) : Thread :=
  match s.cur.latch with
  | some l => l.thr
  | none => s.me
/-- The vector file as the instruction reads it (R99). -/
def State.srcV (s : State) : Vector VReg 32 :=
  match s.cur.latch with
  | some l => l.v
  | none => s.here.v
/-- Every slot that holds a thread, with its core. -/
def State.threads (s : State) : List (Nat × Nat × Thread) :=
  s.cores.flatMap (fun x => (x.2.threads.filter (fun y => y.2.live)).map (fun y => (x.1, y.1, y.2)))
/-- Messages that have left their sender: in the network, in inboxes, in overflow stores. -/
def State.messages (s : State) : List Msg :=
  s.net ++ s.cores.flatMap (fun x => x.2.inbox.map (fun e => e.msg) ++ x.2.spill)
/-- Contexts travelling to another core (R356). -/
def State.travellers (s : State) : List Thread :=
  s.messages.filterMap (fun m => match m.sys with
    | .context t _ _ _ => some t
    | _ => none)
/-- Contexts that are in no slot: absent from their cores, in halt areas, on their way. -/
def State.away (s : State) : List Thread :=
  s.cores.flatMap (fun x => x.2.absent.map (fun a => a.thr)) ++ s.halts.flatMap (fun h => h.contexts.map (fun a => a.2.thr)) ++
    s.travellers
/-- Where the context `uid` sits in a slot; a slot it is leaving (R356) does not count. -/
def State.findUid (s : State) (uid : Nat) : Option (Nat × Nat) :=
  match s.threads.find? (fun x => x.2.2.uid == uid && x.2.2.blk != .leaving) with
  | some x => some (x.1, x.2.1)
  | none => none

/-- Change the context a message carries (R356). -/
def Msg.modContext (m : Msg) (g : Thread → Thread) : Msg :=
  match m.sys with
  | .context t oc os d => { m with sys := .context (g t) oc os d }
  | _ => m
/-- Change a context by name wherever it is: in a slot, absent, on its way, or in a halt area. -/
def State.modUid (s : State) (uid : Nat) (f : Thread → Thread) : State :=
  let g := fun (t : Thread) => if t.uid == uid then f t else t
  { s with
    cores := fvals s.cores (fun x => { x with threads := fvals x.threads g
                                              absent := x.absent.map (fun (a : Absent) => { a with thr := g a.thr })
                                              inbox := x.inbox.map (fun e => { e with msg := e.msg.modContext g })
                                              spill := x.spill.map (fun m => m.modContext g) })
    net := s.net.map (fun m => m.modContext g)
    halts := s.halts.map (fun h => { h with contexts := h.contexts.map (fun p => (p.1, { p.2 with thr := g p.2.thr })) }) }

/-- A scalar register; `g0` reads 0 (R125). -/
def Thread.reg (t : Thread) (n : Nat) : Word :=
  if n % 16 = 0 then 0 else t.g[n % 16]'(Nat.mod_lt n (by decide))
/-- Write a scalar register; a write to `g0` is discarded (R125). -/
def Thread.setReg (t : Thread) (n : Nat) (v : Word) : Thread :=
  if n % 16 = 0 then t else { t with g := t.g.set (n % 16) v (Nat.mod_lt n (by decide)) }
/-- Write consecutive scalar registers. -/
def Thread.setRegs (t : Thread) (n : Nat) (vs : List Word) : Thread :=
  match vs with
  | [] => t
  | v :: rest => (t.setReg n v).setRegs (n + 1) rest
/-- A predicate register (R160). -/
def Thread.pred (t : Thread) (n : Nat) : Pred := t.p[n % 8]'(Nat.mod_lt n (by decide))
/-- Write a predicate register. -/
def Thread.setPred (t : Thread) (n : Nat) (v : Pred) : Thread :=
  { t with p := t.p.set (n % 8) v (Nat.mod_lt n (by decide)) }

/-- A scalar source (R99). -/
def State.rd (s : State) (n : Nat) : Word := s.src.reg n
/-- A scalar source as a number. -/
def State.rdN (s : State) (n : Nat) : Nat := (s.rd n).toNat
/-- The registers of a G6 source in ascending order (R95). -/
def State.rdG (s : State) (o : GOp) : List Word := (List.range (2 ^ o.w.val)).map (fun k => s.rd (o.n.val + k))
/-- Write a scalar destination. -/
def State.wr (s : State) (n : Nat) (v : Word) : State := s.modMe (fun t => t.setReg n v)
/-- Write a scalar destination with a number modulo 2^64. -/
def State.wrN (s : State) (n v : Nat) : State := s.wr n (BitVec.ofNat 64 v)
/-- Write consecutive scalar destinations. -/
def State.wrs (s : State) (n : Nat) (vs : List Word) : State := s.modMe (fun t => t.setRegs n vs)
/-- A predicate source. -/
def State.rdP (s : State) (n : Nat) : Pred := s.src.pred n
/-- Write a predicate destination. -/
def State.wrP (s : State) (n : Nat) (v : Pred) : State := s.modMe (fun t => t.setPred n v)

/-- Base and count of a `kvwin` value (R127). -/
def winBase (k : Word) : Nat := k.toNat % 32
/-- Count of a `kvwin` value (R127). -/
def winCnt (k : Word) : Nat := k.toNat / 2 ^ 8 % 64
/-- The window the instruction's vector operands are resolved through (R20, R152). -/
def State.window (s : State) : Nat × Nat :=
  match s.cur.lathe with
  | some (b, c, _) => (b, c)
  | none => (winBase s.src.kvwin, winCnt s.src.kvwin)
/-- The window-relative number a V7 field names: as encoded, or moved on by the Lathe (R152). -/
def State.vnum (s : State) (o : VOp) : Nat :=
  match s.cur.lathe with
  | some (_, c, off) => (o.n.val + off) % c
  | none => o.n.val
/-- The core register of the first register of a V7 operand (R20). -/
def State.vcore (s : State) (o : VOp) : Nat := s.window.1 + s.vnum o
/-- The core register of register `k` of a V7 operand (R20). Under the Lathe every register wraps in the window (R152, R158,
assumption 90). -/
def State.vreg (s : State) (o : VOp) (k : Nat) : Nat :=
  match s.cur.lathe with
  | some (b, c, off) => b + (o.n.val + off + k) % c
  | none => s.vcore o + k
/-- A V7 operand lies inside the window; a repetition of the Lathe never fails this (R158). -/
def State.vin (s : State) (o : VOp) : Bool := s.cur.lathe.isSome || decide (s.vnum o + 2 ^ o.w.val ≤ s.window.2)
/-- A vector source register by core number. -/
def State.rdV (s : State) (n : Nat) : VReg := s.srcV[n % 32]'(Nat.mod_lt n (by decide))
/-- The registers of a V7 source, ascending. -/
def State.rdVs (s : State) (o : VOp) : List VReg := (List.range (2 ^ o.w.val)).map (fun k => s.rdV (s.vreg o k))
/-- Write a core's vector register. -/
def Core.setV (x : Core) (n : Nat) (v : VReg) : Core := { x with v := x.v.set (n % 32) v (Nat.mod_lt n (by decide)) }
/-- Write consecutive vector registers of a core. -/
def Core.setVs (x : Core) (n : Nat) (vs : List VReg) : Core :=
  match vs with
  | [] => x
  | v :: rest => (x.setV n v).setVs (n + 1) rest
/-- Write vector registers of a core by a list of their numbers. -/
def Core.setVsAt (x : Core) (ns : List Nat) (vs : List VReg) : Core :=
  match ns, vs with
  | n :: ns, v :: vs => (x.setV n v).setVsAt ns vs
  | _, _ => x
/-- Write a V7 destination. -/
def State.wrVs (s : State) (o : VOp) (vs : List VReg) : State :=
  s.modHere (fun x => x.setVsAt ((List.range (2 ^ o.w.val)).map (s.vreg o)) vs)

/-- Registers by name with vector numbers resolved to core registers. -/
def State.absRegs (s : State) (rs : List Reg) : List Reg :=
  rs.map (fun r => match r with
    | .v n => .v (s.vcore ⟨0, Fin.ofNat 32 n⟩)
    | r => r)

/-- Write a named register of the thread `t` of core `x`, from a word or a vector value. -/
def Core.writeReg (x : Core) (t : Nat) (r : Reg) (w : Option Word) (v : Option VReg) : Core :=
  match r, w, v with
  | .g n, some a, _ => x.setThr t ((x.thr t).setReg n a)
  | .v n, _, some a => x.setV n a
  | _, _, _ => x
/-- Land the value of a long-latency operation in its registers (R102). -/
def Core.landRegs (x : Core) (t : Nat) (rs : List Reg) (val : OutVal) : Core :=
  match rs with
  | [] => x
  | r :: rest =>
    match val with
    | .words ws => (x.writeReg t r (some (ws.headD 0)) none).landRegs t rest (.words ws.tail)
    | .vecs vs => (x.writeReg t r none (some (vs.headD 0))).landRegs t rest (.vecs vs.tail)

/-- Issue a long-latency result (R102): destination registers, L, what it waits for, the value once it is known. -/
def State.addOut (s : State) (rs : List Reg) (look : Nat) (w : OutWait) (val : OutVal) : State :=
  s.modMe (fun t => { t with
    outs := t.outs ++ [{ id := t.nextOut, regs := s.absRegs rs, look := look, wait := w, val := val,
                         lathe := s.cur.lathe.isSome }],
    nextOut := t.nextOut + 1 })
/-- A long-latency scalar result whose value is known; nothing is kept for `g0` (R102, R240). -/
def State.longG (s : State) (n look : Nat) (v : Word) : State :=
  if n % 16 = 0 then s else s.addOut [.g n] look .ready (.words [v])

/-- A free value for a scalar register (assumption 2): each use takes the next one. -/
def State.freshWord (s : State) : Word × State := (Config.freeWord s.free, { s with free := s.free + 1 })
/-- A free value for a vector register (assumption 2). -/
def State.freshVReg (s : State) : VReg × State := (Config.freeVReg s.free, { s with free := s.free + 1 })

/-- Address of the group after the executing one. -/
def State.nextPc (s : State) : Word := s.cur.addr + 8

end Sys2Proof.Machine
end

