-- ==== Sys2Proof/Machine/Fabric.lean ====
section
/-! DEFINITION. The scale-up fabric as this device sees it (R367): its position, ranks, the first link of a route, detours. -/

namespace Sys2Proof.Machine

/-- Sizes SW, SX, SY, SZ of a `mw.fab` value. -/
def fabSizes (w : Word) : List Nat :=
  let n := w.toNat
  [n / 2 ^ 16 % 4 + 1, n / 2 ^ 18 % 4 + 1, n / 2 ^ 20 % 64 + 1, n / 2 ^ 26 % 64 + 1]
/-- Coordinates w, x, y, z of a `mw.fab` value. -/
def fabCoords (w : Word) : List Nat :=
  let n := w.toNat
  [n % 4, n / 4 % 4, n / 2 ^ 4 % 64, n / 2 ^ 10 % 64]
/-- Rank of coordinates under sizes. -/
def fabRank (sz co : List Nat) : Nat :=
  match sz, co with
  | a :: as, x :: xs => x + a * fabRank as xs
  | _, _ => 0
/-- Coordinates of a rank. -/
def fabOf (sz : List Nat) (r : Nat) : List Nat :=
  match sz with
  | [] => []
  | a :: as => r % a :: fabOf as (r / a)
/-- Devices of the fabric. -/
def State.fabCount (s : State) : Nat := (fabSizes s.mwFab).foldl (· * ·) 1
/-- The device's own rank. -/
def State.rank (s : State) : Nat := fabRank (fabSizes s.mwFab) (fabCoords s.mwFab)
/-- A rank that names a device of the fabric. -/
def State.rankExists (s : State) (r : Nat) : Bool := decide (r < s.fabCount)

/-- One step from coordinate `a` toward `b` in dimension `dim` of size `n`: true for +. W and X are meshes, Y and Z tori,
which take the shorter way round with ties going +. -/
def stepPlus (dim n a b : Nat) : Bool :=
  if dim < 2 then decide (a < b) else decide ((b + n - a) % n ≤ (a + n - b) % n)
/-- The link number (R345) of a dimension and direction. -/
def linkNo (dim : Nat) (plus : Bool) : Nat := if plus then dim + 4 else dim
/-- The coordinate after one step. -/
def stepTo (n a : Nat) (plus : Bool) : Nat := if plus then (a + 1) % n else (a + n - 1) % n
/-- A link of this device, or coded 4,096 + rank a node, or coded 2^20 + 16 × rank + number a link of another device, is down. -/
def State.downLink (s : State) (k : Nat) : Bool := s.linksDown.contains k
/-- The next step of a packet at `a` on its way to `b` (R367): in the order W, X, Y, Z, with the dimension of a detour last; none when it
is there. -/
def nextStep (sz a b : List Nat) (last : Option Nat) : Option (Nat × Bool) :=
  let dims := (List.range 4).filter (fun d => some d != last) ++ last.toList
  (dims.find? (fun d => a.getD d 0 != b.getD d 0)).map (fun d => (d, stepPlus d (sz.getD d 1) (a.getD d 0) (b.getD d 0)))
/-- A link of the device of a rank is down at its own end. -/
def State.linkDownAt (s : State) (r dim : Nat) (plus : Bool) : Bool :=
  s.downLink (if r = s.rank then linkNo dim plus else 2 ^ 20 + 16 * r + linkNo dim plus)
/-- A step from coordinates is live: its link, at both ends, and the node it leads to. -/
def State.liveStep (s : State) (sz co : List Nat) (dim : Nat) (plus : Bool) : Bool :=
  let to_ := fabRank sz (co.set dim (stepTo (sz.getD dim 1) (co.getD dim 0) plus))
  !s.linkDownAt (fabRank sz co) dim plus && !s.linkDownAt to_ dim (!plus) && !s.downLink (4096 + to_)
/-- The detour of R367 at coordinates: W (X when SW = 1), + unless at the end; none when both sizes are 1. -/
def detour (sz co : List Nat) : Option (Nat × Bool) :=
  if sz.getD 0 1 > 1 then some (0, decide (co.getD 0 0 + 1 < sz.getD 0 1))
  else if sz.getD 1 1 > 1 then some (1, decide (co.getD 1 0 + 1 < sz.getD 1 1))
  else none
/-- A packet at coordinates `a` gets to `b`, in at most `n` steps: at each device by the next step of its route, or where that is down by
the detour (R367). -/
def State.routed (s : State) (sz a b : List Nat) (last : Option Nat) (n : Nat) : Bool :=
  match n with
  | 0 => false
  | n + 1 =>
    let go := fun (d : Nat) (p : Bool) => a.set d (stepTo (sz.getD d 1) (a.getD d 0) p)
    match nextStep sz a b last with
    | none => true
    | some (d, p) =>
      if s.liveStep sz a d p then s.routed sz (go d p) b last n
      else
        match detour sz a with
        | some (e, q) => s.liveStep sz a e q && s.routed sz (go e q) b (some e) n
        | none => false
/-- The steps no live route exceeds: one through every device of a ring or mesh, twice in each dimension. -/
def routeBound : Nat := 512
/-- A packet to a rank has a live route (R367). -/
def State.reachable (s : State) (r : Nat) : Bool :=
  let sz := fabSizes s.mwFab
  s.rankExists r && (r == s.rank || (!s.downLink (4096 + r) && s.routed sz (fabCoords s.mwFab) (fabOf sz r) none routeBound))

end Sys2Proof.Machine
end

