-- ==== Sys2Proof/Machine/Translate.lean ====
section
/-! DEFINITION. Translation (R221, R223, R319 to R321), the page cache and leases (R225 to R227), moved and held frames
(R368): from an effective address to the places an access is performed at. -/

namespace Sys2Proof.Machine

/-- What an access needs of a leaf (R320). -/
inductive Need where
  | fetch | load | store | atomic
deriving DecidableEq, Repr

/-- How an access uses a page-cache copy (R226): a plain load, a plain store, or an operation that goes to the owner. -/
inductive Via where
  | load | store | owner
deriving DecidableEq, Repr

/-- Where an access is performed: the address read, the addresses written, and the memory attributes (R223); a vault line
is versionable (R222). -/
structure Place where
  rpa : Nat
  wpas : List Nat
  mattr : Nat
deriving DecidableEq, Repr

/-- Fault classes (R349). -/
def cXLATE : Nat := 0x30
def cPERM : Nat := 0x31
def cVERPAGE : Nat := 0x32
def cVERORD : Nat := 0x33
def cVERWAIT : Nat := 0x34
def cVERGONE : Nat := 0x35
def cSHADOWFULL : Nat := 0x36
def cSVFAULT : Nat := 0x37
def cSCHED : Nat := 0x38

/-- Bits hi down to lo of a number. -/
def bitsN (n hi lo : Nat) : Nat := n / 2 ^ lo % 2 ^ (hi - lo + 1)

/-- mattr values the walk accepts (R223). -/
def mattrOk (m : Nat) : Bool :=
  m / 32 == 0 && m / 8 % 4 != 3 && !(m % 4 == 0 && m / 8 % 4 != 0) && !(2 ≤ m % 4 && m / 4 % 2 == 1)

/-- The physical base a leaf's or pointer's target names, by type; none when it breaks R320. `p` is the entry's bits 55:16
in place. -/
def State.targetBase (s : State) (p type : Nat) : Option Nat :=
  match type with
  | 0 => if bitsN p 40 36 ≤ 23 && bitsN p 55 41 == 0 then some (hbmPa (bitsN p 40 36) (bitsN p 35 16 * 2 ^ 16)) else none
  | 1 =>
    if bitsN p 40 36 ≤ 23 && bitsN p 42 41 == 0 && s.rankExists (bitsN p 55 43) then
      some (if bitsN p 55 43 == s.rank then hbmPa (bitsN p 40 36) (bitsN p 35 16 * 2 ^ 16)
            else peerPa (bitsN p 55 43) (bitsN p 40 36) (bitsN p 35 16 * 2 ^ 16))
    else none
  | 2 => if bitsN p 55 52 == 0 then some (hostPa (bitsN p 51 16 * 2 ^ 16)) else none
  | _ => some (cxlPa (bitsN p 55 52) (bitsN p 51 16 * 2 ^ 16))

/-- A leaf entry read at level 1 or 2 (R320, R323 attributes); none when invalid. -/
def State.leaf (s : State) (h ea level e : Nat) : Option TlbEntry :=
  if e / 2 ^ 63 == 1 && bitsN e 58 56 == 0 && mattrOk (e % 256) && (level == 2 || bitsN e 24 16 == 0) then
    match s.targetBase e (e % 4) with
    | some b => some { handle := h, vbase := (if level == 1 then ea / 2 ^ 25 * 512 else ea / 2 ^ 16),
                       units := (if level == 1 then 512 else 1), rx := bitsN e 61 61 == 1, rw := bitsN e 60 60 == 1,
                       rd := bitsN e 59 59 == 1, mattr := e % 256, target := b }
    | none => none
  else none

/-- The table a non-leaf entry names, aligned to `2 ^ al`; none when invalid (R320). -/
def tableAt (e al : Nat) : Option Nat :=
  if e / 2 ^ 63 == 1 && bitsN e 62 62 == 0 && bitsN e 58 56 == 0 && e % 256 == 0 && bitsN e 55 45 == 0 &&
     bitsN e 44 40 ≤ 23 && bitsN e 39 16 * 2 ^ 12 % 2 ^ al == 0
  then some (hbmPa (bitsN e 44 40) (bitsN e 39 16 * 2 ^ 12)) else none

/-- An entry grants an access (R320). -/
def TlbEntry.grants (e : TlbEntry) (n : Need) : Bool :=
  match n with
  | .fetch => e.rx
  | .load => e.rd
  | .store => e.rw
  | .atomic => e.rd && e.rw

/-- The port that an offset of a CXL region goes to, by the mask and the granule (R365); none with an empty mask. -/
def State.cxlPort (s : State) (r off : Nat) : Option Nat :=
  let v := (fget 0 s.mwCxl r).toNat
  let ps := (List.range 4).filter (fun p => v.testBit (52 + p))
  ps[off / 2 ^ bitsN v 59 56 % ps.length]?
/-- A CXL region is valid, the offset lies in it, and the pool device at its port does not refuse the access (R365). -/
def State.cxlOk (s : State) (r off : Nat) : Bool :=
  let v := (fget 0 s.mwCxl r).toNat
  bitsN v 63 63 == 1 && decide (off < v / 2 ^ 64) && (s.cxlPort r off).all (fun p => !s.linksDown.contains (16384 + p))

/-- Hub and frame of an HBM address. -/
def hbmFrame (pa : Nat) : Option (Nat × Nat) :=
  if 2 ^ 40 ≤ pa && pa < 2 ^ 40 + 24 * 2 ^ 36 then some ((pa - 2 ^ 40) / 2 ^ 36, pa % 2 ^ 36 / 2 ^ 16) else none

/-- Where an address of a moved frame is now (R368); `n` bounds a chain of moves. -/
def State.moved (s : State) (pa n : Nat) : Nat :=
  match n with
  | 0 => pa
  | n + 1 =>
    match hbmFrame pa with
    | none => pa
    | some (h, f) =>
      match fget? (s.hub h).pointers f with
      | some b => s.moved (b + pa % 2 ^ 16) n
      | none => pa

/-- An HBM frame whose requests are held (R368), or that a peer holds on lease (R227). -/
def State.frameHeld (s : State) (pa : Nat) : Bool :=
  match hbmFrame pa with
  | none => false
  | some (h, f) =>
    (s.hub h).heldFrames.contains f || s.peerCopies.any (fun x => x.2.1 == h && x.2.2.1 == f && x.2.2.2)

/-- Rank, hub and frame of a peer address. -/
def peerFrame (pa : Nat) : Option (Nat × Nat × Nat) :=
  if 2 ^ 72 ≤ pa && pa < 2 ^ 80 then
    some ((pa - 2 ^ 72) / 2 ^ 41, (pa - 2 ^ 72) / 2 ^ 36 % 32, pa % 2 ^ 36 / 2 ^ 16)
  else none

/-- The hub that caches the piece with virtual page number `p` for a core (R225). -/
def cacheHub (c p : Nat) : Nat := 3 * dieOf c + p % 3
/-- The set of a piece in a hub's page cache (R225). -/
def Hub.setOf (x : Hub) (p : Nat) : Nat := p % (x.pcsz / 8)
/-- A tag holds a piece. -/
def PcTag.holds (t : PcTag) (r h f : Nat) : Bool := t.rank == r && t.hub == h && t.frame == f

/-- The tag that some hub of the device has for a piece: a device's accesses to a piece go through one copy while a copy is held
(R226), whichever of its hubs hold a tag for it (assumption 88). -/
def State.tagOf (s : State) (r h f : Nat) : Option PcTag :=
  (s.hubs.flatMap (fun x => x.2.tags.flatMap (fun y => y.2))).find? (fun t => t.holds r h f)
/-- The one copy of a byte of peer memory that operations other than plain loads and stores go to: the device's copy while some hub
holds it on lease, else the owner's (R226, R227, R272). -/
def State.peerHome (s : State) (pa : Nat) : Nat :=
  match peerFrame pa with
  | none => pa
  | some (r, h, f) =>
    match s.tagOf r h f with
    | some t => if t.lease && !t.kept.contains (pa / 64 % 1024) then cachedPa pa else pa
    | none => pa
/-- The places of a peer access, by what the device holds of its piece: every access to a piece goes through the copy while the copy is
held, by whichever hub (R226, R227). An operation that goes to the owner keeps a read-only copy up to date, so that a thread's later
load sees its own write (R270, assumption 89). -/
def State.heldPlace (s : State) (pa mattr : Nat) (v : Via) : Place :=
  match peerFrame pa with
  | none => ⟨pa, [pa], mattr⟩
  | some (r, h, f) =>
    match s.tagOf r h f with
    | none => ⟨pa, [pa], mattr⟩
    | some t =>
      if t.lease then ⟨s.peerHome pa, [s.peerHome pa], mattr⟩
      else
        match v with
        | .load => ⟨cachedPa pa, [], mattr⟩
        | _ => ⟨pa, [cachedPa pa, pa], mattr⟩
/-- An entry of a page table, read at the hub that holds it: the request follows a moved frame, and is held with a frame that is held
(R319, R368). An error of 0 says that it is held. -/
def State.walkWord (s : State) (pa : Nat) : Except Nat Nat :=
  let a := s.moved pa 16
  if s.frameHeld a then .error 0 else .ok (s.mem.nat (s.peerHome (s.pooled a)) 8)
/-- The page-table walk of a container (R319): an error is XLATE, or 0 when the walk is held. -/
def State.walk (s : State) (h ea : Nat) : Except Nat TlbEntry :=
  let found := fun (e : Option TlbEntry) => match e with
    | some e => Except.ok e
    | none => Except.error cXLATE
  match fget? s.conts h with
  | none => .error cXLATE
  | some k =>
    match s.walkWord (k.root + 8 * bitsN ea 51 38) with
    | .error n => .error n
    | .ok e0 =>
      match tableAt e0 16 with
      | none => .error cXLATE
      | some t1 =>
        match s.walkWord (t1 + 8 * bitsN ea 37 25) with
        | .error n => .error n
        | .ok e1 =>
          if bitsN e1 62 62 == 1 then found (s.leaf h ea 1 e1)
          else
            match tableAt e1 12 with
            | none => .error cXLATE
            | some t2 =>
              match s.walkWord (t2 + 8 * bitsN ea 24 16) with
              | .error n => .error n
              | .ok e2 => if bitsN e2 62 62 == 1 then found (s.leaf h ea 2 e2) else .error cXLATE

/-- A TLB entry holds the page of an address. -/
def TlbEntry.hits (e : TlbEntry) (h ea : Nat) : Bool :=
  e.handle == h && decide (e.vbase ≤ ea / 2 ^ 16) && decide (ea / 2 ^ 16 < e.vbase + e.units)
/-- Use an entry of a fully associative TLB of `n` entries, most recent first (R318). -/
def tlbUse (l : List TlbEntry) (n : Nat) (e : TlbEntry) : List TlbEntry := (e :: l.erase e).take n
/-- The second-level set of an entry: virtual page mod 256 (R318). -/
def TlbEntry.set (e : TlbEntry) : Nat := e.vbase / e.units % 256
/-- The entry a second-level TLB holds for an address, of either size. -/
def l2Find (k : Cluster) (h ea : Nat) : Option TlbEntry :=
  ((fget [] k.l2tlb (ea / 2 ^ 16 % 256)) ++ (fget [] k.l2tlb (ea / 2 ^ 25 % 256))).find? (fun e => e.hits h ea)

/-- The second-level TLB of a core's cluster after a walk's entry or a hit of its own (R318). -/
def State.useL2 (s : State) (c : Nat) (e : TlbEntry) : State :=
  let k := s.cluster (clusterOf c)
  s.setCluster (clusterOf c) { k with l2tlb := fset k.l2tlb e.set (tlbUse (fget [] k.l2tlb e.set) 8 e) }
/-- The I-TLB or D-TLB of a core after a fill or a hit (R318). -/
def State.useL1 (s : State) (c : Nat) (fetch : Bool) (e : TlbEntry) : State :=
  let x := s.core c
  s.setCore c (if fetch then { x with itlb := tlbUse x.itlb 16 e } else { x with dtlb := tlbUse x.dtlb 32 e })
/-- The translation of an address for core `c`: from its TLB, from the second level, which fills that TLB, or from a walk, which fills
both (R318, R321). An error is XLATE, or 0 when the walk is held. -/
def State.lookup (s : State) (c h ea : Nat) (fetch : Bool) : State × Except Nat TlbEntry :=
  let x := s.core c
  match (if fetch then x.itlb else x.dtlb).find? (fun e => e.hits h ea) with
  | some e => (s.useL1 c fetch e, .ok e)
  | none =>
    match l2Find (s.cluster (clusterOf c)) h ea with
    | some e => ((s.useL1 c fetch e).useL2 c e, .ok e)
    | none =>
      match s.walk h ea with
      | .ok e => ((s.useL1 c fetch e).useL2 c e, .ok e)
      | .error n => (s, .error n)

/-- A write is the newest store to its bytes for every thread: what an earlier one hid is past (R270, R272). -/
def State.unhide (s : State) (pa n : Nat) : State :=
  if pa < 2 ^ 60 || s.hidden.isEmpty then s
  else { s with hidden := s.hidden.filter (fun x => !(decide (pa ≤ x.pa) && decide (x.pa < pa + n))) }
/-- Lines `ls` of a piece copied with their version state (R227). -/
def State.copyVerLines (s : State) (dst src : Nat) (ls : List Nat) : State :=
  match ls with
  | [] => s
  | i :: rest =>
    State.copyVerLines { s with
      mem := s.mem.copy (dst + 64 * i) (src + 64 * i) 64
      ver := match fget? s.ver (src / 64 + i) with
        | some l => fset s.ver (dst / 64 + i) l
        | none => ferase s.ver (dst / 64 + i) } dst src rest
/-- Copy a piece with its lines' version state (R227). -/
def State.copyPiece (s : State) (dst src : Nat) : State :=
  let ver := (List.range 1024).foldl (fun v i =>
    match fget? s.ver (src / 64 + i) with
    | some l => fset v (dst / 64 + i) l
    | none => ferase v (dst / 64 + i)) s.ver
  { s with mem := s.mem.copy dst src (2 ^ 16), ver := ver }
/-- Clear a piece's bytes and version state. -/
def State.clearPiece (s : State) (pa : Nat) : State :=
  { s with
    mem := s.mem.clear pa (2 ^ 16)
    ver := s.ver.filter (fun x => !(decide (pa / 64 ≤ x.1) && decide (x.1 < pa / 64 + 1024))) }
/-- Apply a function to every tag of a piece. -/
def State.mapTags (s : State) (r h f : Nat) (g : PcTag → PcTag) : State :=
  { s with hubs := fvals s.hubs (fun x => { x with tags := fvals x.tags (fun l => l.map (fun t => if t.holds r h f then g t else t)) }) }
/-- A tag of a hub is gone. With the device's last tag for its piece the copy goes: a lease that was written is first written back
with its version state, but for the lines the owner kept (R227). -/
def State.dropPiece (s : State) (t : PcTag) : State :=
  if (s.tagOf t.rank t.hub t.frame).isSome then s
  else
    let pa := peerPa t.rank t.hub (t.frame * 2 ^ 16)
    let s := if t.lease && t.dty then
        (if t.kept.isEmpty then s.copyPiece pa (cachedPa pa)
         else s.copyVerLines pa (cachedPa pa) ((List.range 1024).filter (fun i => !t.kept.contains i))) else s
    (s.unhide pa (2 ^ 16)).clearPiece (cachedPa pa)
/-- Lines of a piece whose shadows do not fit in `room` pool lines, in ascending order (R227). -/
def State.unfit (s : State) (pa room : Nat) (ls : List Nat) : List Nat :=
  match ls with
  | [] => []
  | i :: rest =>
    let n := (fget {} s.ver (pa / 64 + i)).shadows.length
    if n ≤ room then s.unfit pa (room - n) rest else i :: s.unfit pa room rest
/-- Free lines of a hub's shadow pool (R234): 1 Mi lines hold the shadows of its HBM lines and of the pieces it caches. -/
def State.hubRoom (s : State) (g : Nat) : Nat :=
  2 ^ 20 - (s.ver.filter (fun x =>
    (hbmPa g 0 / 64 ≤ x.1 && x.1 < hbmPa (g + 1) 0 / 64) ||
    (fget? s.hubs g).any (fun y => y.tags.any (fun z => z.2.any (fun t =>
      cachedPa (peerPa t.rank t.hub (t.frame * 2 ^ 16)) / 2 ^ 16 == x.1 / 2 ^ 10))))).foldl (fun n x => n + x.2.shadows.length) 0
/-- Fill the page cache of hub `g` with a piece of virtual page `p` (R225): the whole piece, into the least recently used way. A piece
the device holds in the same way already keeps its one copy; a read-only copy of it goes when the lease comes. -/
def State.fillPiece (s : State) (g p r h f : Nat) (lease : Bool) : State :=
  let pa := peerPa r h (f * 2 ^ 16)
  -- a copy held in the other way is dropped at every hub first
  let s := match s.tagOf r h f with
    | some t => if t.lease == lease then s else
        ({ s with hubs := fvals s.hubs (fun x => { x with tags := fvals x.tags (fun l => l.filter (fun t => !t.holds r h f)) }) } : State).dropPiece t
    | none => s
  let x := s.hub g
  let ways := fget [] x.tags (x.setOf p)
  if ways.any (fun t => t.holds r h f) then s else
  let victim := if ways.length < 8 then none else ways.getLast?
  let held := s.tagOf r h f
  let s := s.setHub g { x with tags := fset x.tags (x.setOf p) (ways.take 7) }
  let s := match victim with
    | some t => s.dropPiece t
    | none => s
  let add := fun (s : State) (t : PcTag) =>
    let x := s.hub g
    s.setHub g { x with tags := fset x.tags (x.setOf p) (t :: fget [] x.tags (x.setOf p)) }
  match held with
  | some t => add s t
  | none =>
    let s := s.unhide pa (2 ^ 16)
    let kept := if lease then s.unfit pa (s.hubRoom g) (List.range 1024) else []
    let s := add s { lease := lease, dty := false, rank := r, hub := h, frame := f, granted := s.cycle, kept := kept }
    if lease then
      (if kept.isEmpty then s.copyPiece (cachedPa pa) pa
       else s.copyVerLines (cachedPa pa) pa ((List.range 1024).filter (fun i => !kept.contains i)))
    else { s with mem := s.mem.copy (cachedPa pa) pa (2 ^ 16) }

/-- The hub's tag for a piece, made its set's most recent (R225, R322). -/
def State.touchTag (s : State) (g p : Nat) (t : PcTag) : State :=
  let x := s.hub g
  s.setHub g { x with tags := fset x.tags (x.setOf p) (t :: (fget [] x.tags (x.setOf p)).erase t) }
/-- The hub's tag for a piece that a device's access finds in the way its page asks for is used, or the piece is filled (R225 to R227);
a page that is not cached, or whose hub has no area, leaves the caches as they are. -/
def State.cachePiece (s : State) (c ea pa mattr : Nat) (v : Via) : State :=
  let rcm := mattr / 8 % 4
  let p := ea / 2 ^ 16
  let g := cacheHub c p
  let x := s.hub g
  match peerFrame pa with
  | none => s
  | some (r, h, f) =>
    if rcm == 0 || x.pcsz == 0 then s
    else
      match (fget [] x.tags (x.setOf p)).find? (fun t => t.holds r h f && t.lease == (rcm == 2)) with
      | some t => if rcm == 1 && v == .owner then s else s.touchTag g p t
      | none => if rcm == 1 && v != .load then s else s.fillPiece g p r h f (rcm == 2)
/-- The places of a peer access under its remote-cache mode (R225 to R227). -/
def State.peerPlace (s : State) (c ea pa mattr : Nat) (v : Via) : State × Place :=
  let u := s.cachePiece c ea pa mattr v
  (u, u.heldPlace pa mattr v)

/-- Where the translation of an address leads, moves followed, with its entry: nothing is filled and no right is asked. -/
def State.resolve (s : State) (c h ea : Nat) : Option (TlbEntry × Nat) :=
  match (s.lookup c h ea false).2 with
  | .ok e => some (e, s.moved (e.target + (ea - e.vbase * 2 ^ 16)) 16)
  | .error _ => none
/-- The one copy of the location of an address, for a thread's order and for the versions of its line (R231, R270). -/
def State.copyAt (s : State) (c h ea : Nat) : Option Nat :=
  if ea < 2 ^ 32 then some ea else (s.resolve c h ea).map (fun p => s.peerHome (s.pooled p.2))

/-- Where an access of core `c` under container `h` at `ea` is performed. An error is a fault class, or 0 when the request is
held at its hub (R227, R368). -/
def State.place (s : State) (c h ea : Nat) (n : Need) (v : Via) : State × Except Nat Place :=
  if ea < 2 ^ 32 then (s, .ok ⟨ea, [ea], 4⟩)
  else
    match s.lookup c h ea (n == .fetch) with
    | (s, .error k) => (s, .error k)
    | (s, .ok e) =>
      if !e.grants n then (s, .error cPERM)
      else
        let pa := s.moved (e.target + (ea - e.vbase * 2 ^ 16)) 16
        if s.frameHeld pa then (s, .error 0)
        else
          match peerFrame pa with
          | some (r, _, _) =>
            if s.reachable r then
              let (s, p) := s.peerPlace c ea pa e.mattr v
              (s, .ok p)
            else (s, .error cXLATE)
          | none =>
            if 2 ^ 61 ≤ pa && pa < 2 ^ 62 && !s.cxlOk ((pa - 2 ^ 61) / 2 ^ 52) (pa % 2 ^ 52) then (s, .error cXLATE)
            else (s, .ok ⟨s.pooled pa, [s.pooled pa], e.mattr⟩)

/-- Copies that peers hold of an HBM frame are invalidated by a write to it (R226). -/
def State.noteWrite (s : State) (pa : Nat) : State :=
  match hbmFrame pa with
  | none => s
  | some (h, f) =>
    let hit := s.peerCopies.filter (fun x => x.2.1 == h && x.2.2.1 == f && !x.2.2.2)
    if hit.isEmpty then s
    else { s with peerInval := s.peerInval ++ hit.map (fun x => (x.1, h, f)),
                  peerCopies := s.peerCopies.filter (fun x => !(x.2.1 == h && x.2.2.1 == f && !x.2.2.2)) }

/-- A write to a leased piece, its bytes or its version state, is remembered in its tags (R322). -/
def State.noteDirty (s : State) (pa : Nat) : State :=
  if 2 ^ 80 ≤ pa && pa < 2 ^ 90 then
    match peerFrame (pa - 2 ^ 80) with
    | some (r, h, f) => s.mapTags r h f (fun t => { t with dty := t.lease })
    | none => s
  else s
/-- Write bytes at each place of a store. -/
def State.put (s : State) (wpas : List Nat) (off : Nat) (data : List Byte) : State :=
  match wpas with
  | [] => s
  | pa :: rest => (((({ s with mem := s.mem.setBytes (pa + off) data } : State).unhide (pa + off) data.length).noteWrite pa).noteDirty pa).put rest off data

/-- The read of one byte through core `c` and container `h`, with no effect: what a program reads there (R274). -/
def State.byteAt (s : State) (c h ea : Nat) : Byte :=
  match (s.place c h ea .load .load) with
  | (t, .ok p) => t.mem.get p.rpa
  | (_, .error _) => 0

end Sys2Proof.Machine
end

