-- ==== Sys2Proof/Machine/Access.lean ====
section
/-! DEFINITION. Performing memory accesses (R229, R231 to R243, R163 to R167): bytes, words, atomics, versioned lines, vector
units. An access is tried at the single copy of its location and either is performed, faults, or is held (assumption 3). -/

namespace Sys2Proof.Machine

/-- What trying an access gives. -/
inductive AccRes where
  /-- performed: the words for its scalar destinations (none for a store) -/
  | words (ws : List Word)
  /-- performed: the registers of its vector destination, and the units of the operand (R166) -/
  | vecs (vs : List VReg) (m : Nat)
  /-- a vector store is performed: the units of the operand -/
  | stored (m : Nat)
  /-- performed: raw bytes -/
  | bytes (l : List Byte)
  /-- a fault-message fault: class and address -/
  | fault (cls ea : Nat)
  /-- SHAPEREC: the record's address and the position (R165) -/
  | shapeRec (ea p : Nat)
  /-- the versioned load waits for its version (R232) -/
  | waits
  /-- the versioned store stalls on a full pool (R234) -/
  | stalls (pool : Nat)
  /-- held at its hub (R227, R368) -/
  | held
deriving DecidableEq, Repr

/-- Who makes an access: core, container handle, context. -/
structure Who where
  core : Nat
  cont : Nat
  uid : Nat
deriving DecidableEq, Repr

/-- The executing thread as the maker of an access. -/
def State.who (s : State) : Who := ⟨s.cur.core, s.me.cont, s.me.uid⟩

/-! ## Stores that some threads do not see yet (R272, R281) -/

/-- Memory whose plain stores may become visible to one thread before another: peer memory of which the device has no copy, host and CXL
memory (R272). -/
def State.mayHide (s : State) (pa : Nat) : Bool :=
  decide (2 ^ 60 ≤ pa) && decide (pa < 2 ^ 80) && (match peerFrame pa with
    | some (r, h, f) => (s.tagOf r h f).isNone
    | none => true)
/-- The bytes of a range as a context reads them: a byte whose latest store it does not see yet reads as before it (R272). -/
def State.seen (s : State) (uid pa n : Nat) : List Byte :=
  if pa < 2 ^ 60 || s.hidden.isEmpty then s.mem.bytes pa n
  else (List.range n).map (fun i => match s.hidden.find? (fun x => x.pa == pa + i && x.blind.contains uid) with
    | some x => x.old
    | none => s.mem.get (pa + i))
/-- A context has read a range: a release it has seen happens before what follows its own next release (R273). -/
def State.noteSeen (s : State) (uid pa n : Nat) : State :=
  if pa < 2 ^ 60 || s.hidden.isEmpty then s
  else { s with hidden := s.hidden.map (fun x =>
    if x.rel && decide (pa ≤ x.pa) && decide (x.pa < pa + n) && !x.blind.contains uid then { x with knows := uid :: x.knows.erase uid } else x) }
/-- A context sees the newest bytes of a range from now on: it has used their one copy (R243, R270). -/
def State.reveal (s : State) (uid pa n : Nat) : State :=
  if pa < 2 ^ 60 || s.hidden.isEmpty then s
  else { s with hidden := s.hidden.map (fun x =>
    if decide (pa ≤ x.pa) && decide (x.pa < pa + n) then { x with blind := x.blind.erase uid } else x) }
/-- What happens before a release of a context is visible to every thread (R273). -/
def State.released (s : State) (uid : Nat) : State :=
  if s.hidden.isEmpty then s else { s with hidden := s.hidden.filter (fun x => !x.knows.contains uid) }

/-- The result of a failed placement. -/
def failed (cls ea : Nat) : AccRes := if cls = 0 then .held else .fault cls ea

/-- Read `n` bytes that lie in one page. -/
def State.readPage (s : State) (w : Who) (ea n : Nat) : State × Except AccRes (List Byte) :=
  if 2 ^ 52 < ea + n then (s, .error (.fault cXLATE ea))
  else
    match s.place w.core w.cont ea .load .load with
    | (s, .ok p) => (s.noteSeen w.uid p.rpa n, .ok (s.seen w.uid p.rpa n))
    | (s, .error c) => (s, .error (failed c ea))
/-- Read `n` bytes as one access (at most 64 KiB); each page translates separately. -/
def State.readAt (s : State) (w : Who) (ea n : Nat) : State × Except AccRes (List Byte) :=
  let a := 2 ^ 16 - ea % 2 ^ 16
  if n ≤ a then s.readPage w ea n
  else
    match s.readPage w ea a with
    | (s, .error e) => (s, .error e)
    | (s, .ok l) =>
      match s.readPage w (ea + a) (n - a) with
      | (s, .error e) => (s, .error e)
      | (s, .ok r) => (s, .ok (l ++ r))
/-- Write bytes that lie in one page; the store awaits its acknowledgement (R245). -/
def State.writePage (s : State) (w : Who) (ea : Nat) (data : List Byte) : State × Option AccRes :=
  if 2 ^ 52 < ea + data.length then (s, some (.fault cXLATE ea))
  else
    match s.place w.core w.cont ea .store .store with
    | (s, .ok p) => ({ s.put p.wpas 0 data with acks := s.acks ++ [(w.uid, p.rpa)] }, none)
    | (s, .error c) => (s, some (failed c ea))
/-- Write bytes as one access (at most 64 KiB): across two pages nothing is written unless both can be (R167). -/
def State.writeAt (s : State) (w : Who) (ea : Nat) (data : List Byte) : State × Option AccRes :=
  let a := 2 ^ 16 - ea % 2 ^ 16
  if data.length ≤ a then s.writePage w ea data
  else
    match s.writePage w ea (data.take a) with
    | (u, some e) => (u, some e)
    | (u, none) =>
      match u.writePage w (ea + a) (data.drop a) with
      | (v, none) => (v, none)
      | (_, some e) => (s, some e)
/-- Read a run of bytes in pieces of at most `u` bytes, ascending (`n` pieces at most). -/
def State.readRun (s : State) (w : Who) (ea left u n : Nat) : State × Except AccRes (List Byte) :=
  match n with
  | 0 => (s, .ok [])
  | n + 1 =>
    if left = 0 then (s, .ok [])
    else
      match s.readAt w ea (min u left) with
      | (s, .error e) => (s, .error e)
      | (s, .ok l) =>
        match s.readRun w (ea + min u left) (left - min u left) u n with
        | (s, .error e) => (s, .error e)
        | (s, .ok r) => (s, .ok (l ++ r))
/-- Write a run of bytes in pieces of at most `u` bytes, ascending (`n` pieces at most). -/
def State.writeRun (s : State) (w : Who) (ea : Nat) (data : List Byte) (u n : Nat) : State × Option AccRes :=
  match n with
  | 0 => (s, none)
  | n + 1 =>
    if data.isEmpty then (s, none)
    else
      match s.writeAt w ea (data.take u) with
      | (s, some e) => (s, some e)
      | (s, none) => s.writeRun w (ea + u) (data.drop u) u n

/-- Bytes of an access of a size code (R97). -/
def szBytes (sz : Nat) : Nat := 2 ^ (sz / 2)
/-- A loaded word extended as its size code says (R229). -/
def szExtend (sz : Nat) (l : List Byte) : Word :=
  let n := leNat l
  let b := 8 * szBytes sz
  BitVec.ofNat 64 (if sz % 2 == 1 && n / 2 ^ (b - 1) == 1 then n + (2 ^ 64 - 2 ^ b) else n)

/-- The words of a load from `ea`, `k` of them, ascending (R229). -/
def State.loadWords (s : State) (w : Who) (ea sz k : Nat) : State × Except AccRes (List Word) :=
  match k with
  | 0 => (s, .ok [])
  | k + 1 =>
    match s.readAt w ea (szBytes sz) with
    | (s, .error e) => (s, .error e)
    | (s, .ok l) =>
      match s.loadWords w (ea + 8) sz k with
      | (s, .error e) => (s, .error e)
      | (s, .ok ws) => (s, .ok (szExtend sz l :: ws))
/-- Store words from `ea`, ascending; the words before a faulting one are performed (R229). -/
def State.storeWords (s : State) (w : Who) (ea sz : Nat) (vs : List Word) : State × AccRes :=
  match vs with
  | [] => (s, .words [])
  | v :: rest =>
    match s.writeAt w ea (leBytes (szBytes sz) v.toNat) with
    | (s, some e) => (s, e)
    | (s, none) => s.storeWords w (ea + 8) sz rest

/-! ## Atomics -/

/-- Two FP32 sums, RNE, no flag kept (R241). -/
def afaddWord (a b : Word) : Word :=
  let lo := (fadd fp32 rne (a.toNat % 2 ^ 32) (b.toNat % 2 ^ 32)).1
  let hi := (fadd fp32 rne (a.toNat / 2 ^ 32) (b.toNat / 2 ^ 32)).1
  BitVec.ofNat 64 (hi * 2 ^ 32 + lo)
/-- The word an atomic writes (R240 to R242); none when `acas` does not write. -/
def atomicNew (op : Nat) (old b b2 : Word) : Option Word :=
  match op with
  | 0 => some (old + b)
  | 1 => some (afaddWord old b)
  | 2 => some (if b.slt old then b else old)
  | 3 => some (if old.slt b then b else old)
  | 4 => some (old &&& b)
  | 5 => some (old ||| b)
  | 6 => some (old ^^^ b)
  | 7 => some b
  | _ => if old == b then some b2 else none
/-- An atomic on the word at `ea`: one indivisible access that returns the old word (R240, R243). -/
def State.atomicAt (s : State) (w : Who) (op ea : Nat) (b b2 : Word) : State × AccRes :=
  match s.place w.core w.cont ea .atomic .owner with
  | (s, .error c) => (s, failed c ea)
  | (s, .ok p) =>
    let old := BitVec.ofNat 64 (s.mem.nat p.rpa 8)
    match atomicNew op old b b2 with
    | some v => (s.put p.wpas 0 (leBytes 8 v.toNat), .words [old])
    | none => (s.reveal w.uid p.rpa 8, .words [old])

/-! ## Versioned lines -/

/-- Version state of the line of an address (R231). -/
def State.line (s : State) (pa : Nat) : LineVer := fget {} s.ver (pa / 64)
/-- Set the version state of a line. -/
def State.setLine (s : State) (pa : Nat) (l : LineVer) : State := { s with ver := fset s.ver (pa / 64) l }
/-- Contents of the line of an address. -/
def State.lineData (s : State) (pa : Nat) : BitVec 512 := lineOf (s.mem.bytes (pa / 64 * 64) 64)
/-- The newest shadow not above `v`, shadows being newest last. -/
def shadowAt (l : List (Nat × BitVec 512)) (v : Nat) : Option (BitVec 512) :=
  match l.reverse.find? (fun x => decide (x.1 ≤ v)) with
  | some x => some x.2
  | none => none
/-- The line's contents at version `v` (R231). -/
def State.lineAt (s : State) (pa v : Nat) : BitVec 512 :=
  if (s.line pa).c ≤ v then s.lineData pa
  else
    match shadowAt (s.line pa).shadows v with
    | some x => x
    | none => s.lineData pa
/-- The shadow pool of a line: a vault's cluster, 128 + hub for HBM lines and pieces cached there (R234); 1,000 for lines
whose pool is not on this device. -/
def State.poolOf (s : State) (pa : Nat) : Nat :=
  if pa < 2 ^ 32 then pa / 2 ^ 25
  else
    match hbmFrame pa with
    | some (h, _) => 128 + h
    | none =>
      if 2 ^ 80 ≤ pa then
        match s.hubs.find? (fun x => x.2.tags.any (fun y => y.2.any (fun t =>
            cachedPa (peerPa t.rank t.hub (t.frame * 2 ^ 16)) / 2 ^ 16 == pa / 2 ^ 16))) with
        | some x => 128 + x.1
        | none => 1000
      else 1000
/-- Lines a pool holds (R234). -/
def poolSize (p : Nat) : Nat := if p < 128 then 16384 else 2 ^ 20
/-- Shadows kept in a pool. -/
def State.poolUsed (s : State) (p : Nat) : Nat :=
  (s.ver.filter (fun x => s.poolOf (x.1 * 64) == p)).foldl (fun n x => n + x.2.shadows.length) 0
/-- The pool has no free line. -/
def State.poolFull (s : State) (p : Nat) : Bool := decide (p < 1000) && decide (poolSize p ≤ s.poolUsed p)

/-- A page takes versioned operations (R224). -/
def verOk (mattr : Nat) : Bool := mattr / 4 % 2 == 1
/-- `ldx` at its line (R232): `k` words. -/
def State.ldxAt (s : State) (w : Who) (ea v k : Nat) : State × AccRes :=
  match s.place w.core w.cont ea .load .owner with
  | (s, .error c) => (s, failed c ea)
  | (s, .ok p) =>
    if !verOk p.mattr then (s, .fault cVERPAGE ea)
    else if v < (s.line p.rpa).f then (s, .fault cVERGONE ea)
    else if v ≤ (s.line p.rpa).c then
      (s.reveal w.uid (p.rpa / 64 * 64) 64, .words ((List.range k).map (fun j => lineWord (s.lineAt p.rpa v) (p.rpa % 64 / 8 + j))))
    else (s, .waits)
/-- A result that waits for a version of the line of `pa` arrives if the line has it now (R232). -/
def State.wakeOut (s : State) (w : Who) (pa : Nat) (o : Out) : Out :=
  match o.wait with
  | .ldx ea v _ _ =>
    match s.copyAt w.core w.cont ea with
    | some a =>
      if a / 64 == pa / 64 && decide ((s.line a).f ≤ v) && decide (v ≤ (s.line a).c) then
        { o with wait := .ready,
                 val := .words ((List.range o.regs.length).map (fun j => lineWord (s.lineAt a v) (a % 64 / 8 + j))) }
      else o
    | none => o
  | _ => o
/-- A thread none of whose versioned loads waits any more is through with the access that was retried (R337). -/
def Thread.settled (t : Thread) : Thread :=
  if t.held.isNone && !t.outs.any (fun o => match o.wait with
    | .ldx _ _ _ _ => true
    | _ => false) then { t with retried := false } else t
/-- A new version wakes the versioned loads that wait for it, in every thread (R232). -/
def State.wakeLdx (s : State) (pa : Nat) : State :=
  (s.threads.filter (fun x => x.2.2.outs.any (fun o => o.wait != .ready))).foldl (fun u x =>
    u.setThr x.1 x.2.1 { x.2.2 with outs := x.2.2.outs.map (s.wakeOut ⟨x.1, x.2.2.cont, x.2.2.uid⟩ pa) }.settled) s
/-- `stx` at its line (R233): contents and version change together. `go` performs it although its pool's queue is not
empty (it heads that queue). -/
def State.stxAt (s : State) (w : Who) (ea v : Nat) (x : BitVec 512) (go : Bool) : State × AccRes :=
  match s.place w.core w.cont ea .store .owner with
  | (s, .error c) => (s, failed c ea)
  | (s, .ok p) =>
    let l := s.line p.rpa
    let pool := s.poolOf p.rpa
    if !verOk p.mattr then (s, .fault cVERPAGE ea)
    else if v ≤ l.c then (s, .fault cVERORD ea)
    else if l.f < v && (s.poolFull pool || (!go && s.stalls.any (fun y => y.1 == pool))) then (s, .stalls pool)
    else
      let sh := if l.f < v then l.shadows ++ [(l.c, s.lineData p.rpa)] else l.shadows
      let s := (s.put p.wpas 0 (lineBytes x)).setLine p.rpa { l with c := v, shadows := sh }
      ({ s with acks := s.acks ++ [(w.uid, p.rpa)] }.wakeLdx p.rpa, .words [])
/-- Shadows still needed once the floor is `v`: those whose next newer version is above `v` (R235). -/
def keepShadows (l : List (Nat × BitVec 512)) (c v : Nat) : List (Nat × BitVec 512) :=
  match l with
  | [] => []
  | x :: rest =>
    let nxt := match rest with
      | y :: _ => y.1
      | [] => c
    if nxt ≤ v then keepShadows rest c v else x :: keepShadows rest c v
/-- `vrcl` over `n` lines from `ea` (R235): earlier lines stand when a later one faults. -/
def State.vrclAt (s : State) (w : Who) (ea v n : Nat) : State × AccRes :=
  match n with
  | 0 => (s, .words [])
  | n + 1 =>
    match if 2 ^ 52 ≤ ea then (s, .error cXLATE) else s.place w.core w.cont ea .store .owner with
    | (s, .error c) => (s, failed c ea)
    | (s, .ok p) =>
      let l := s.line p.rpa
      let s := if verOk p.mattr then
          (s.setLine p.rpa { l with f := max l.f v, shadows := keepShadows l.shadows l.c v }).noteDirty p.rpa else s
      s.vrclAt w (ea + 64) v n
/-- A stalled versioned store proceeds if its pool has a free line and no earlier one waits for it (R234). -/
def State.releaseStall (s : State) (y : Nat × Nat × Nat) : State :=
  if s.poolFull y.1 || (s.stalls.find? (fun z => z.1 == y.1)) != some y then s
  else
    match s.findUid y.2.1 with
    | none => { s with stalls := s.stalls.erase y }
    | some (c, t) =>
      let th := s.thr c t
      match th.held with
      | some (.stx ea x v) =>
        match s.stxAt ⟨c, th.cont, th.uid⟩ ea v x true with
        | (u, .words _) => { u.setThr c t { u.thr c t with held := none, retried := false } with stalls := u.stalls.erase y }
        | (u, .stalls _) => u
        | (u, _) => { u with stalls := u.stalls.erase y }
      | _ => { s with stalls := s.stalls.erase y }
/-- Stalled stores proceed in their order, as far as lines are free (R234). -/
def State.releaseStalls (s : State) (l : List (Nat × Nat × Nat)) : State :=
  match l with
  | [] => s
  | y :: rest => (s.releaseStall y).releaseStalls rest
/-- `vqry` (R236). -/
def State.vqryAt (s : State) (w : Who) (ea : Nat) : State × AccRes :=
  match s.place w.core w.cont ea .load .owner with
  | (s, .error c) => (s, failed c ea)
  | (s, .ok p) =>
    if !verOk p.mattr then (s, .fault cVERPAGE ea)
    else (s, .words [BitVec.ofNat 64 ((s.line p.rpa).f * 2 ^ 32 + (s.line p.rpa).c)])

/-! ## Shape records -/

/-- A shape record's fields (R163). -/
structure Shape where
  base : Nat
  fmt : Nat
  rank : Nat
  resv : Nat
  ext : List Nat
  str : List Int
deriving DecidableEq, Repr

/-- A 32-bit two's-complement number. -/
def s32 (n : Nat) : Int := if n < 2 ^ 31 then (n : Int) else (n : Int) - 2 ^ 32
/-- The fields of 32 bytes (R163). -/
def shapeOf (l : List Byte) : Shape :=
  let n := leNat l
  { base := n % 2 ^ 52, fmt := bitsN n 55 52, rank := bitsN n 57 56 + 1, resv := bitsN n 63 58,
    ext := (List.range 4).map (fun k => bitsN n (79 + 16 * k) (64 + 16 * k)),
    str := (List.range 4).map (fun k => s32 (bitsN n (159 + 32 * k) (128 + 32 * k))) }
/-- A BFP format. -/
def isBfp (fmt : Nat) : Bool := decide (8 ≤ fmt) && decide (fmt ≤ 14)
/-- Mantissa width of a BFP code (R71). -/
def bfpM (fmt : Nat) : Nat := fmt - 6
/-- Bytes of one unit (R163). -/
def unitBytes (fmt : Nat) : Nat := if isBfp fmt then 1 + 4 * bfpM fmt else elemBits fmt / 8
/-- Units of the tensor (R164). -/
def Shape.count (r : Shape) : Nat := (r.ext.take r.rank).foldl (· * ·) 1
/-- Byte address of unit `q` (R164). -/
def Shape.addr (r : Shape) (q : Nat) : Int :=
  let rec go (q : Nat) (es : List Nat) (ss : List Int) : Int :=
    match es, ss with
    | e :: es, t :: ss => ((q % e : Nat) : Int) * t + go (q / e) es ss
    | _, _ => 0
  (r.base : Int) + (unitBytes r.fmt : Int) * go q (r.ext.take r.rank) r.str
/-- Units an operand of width `w` covers (R166). -/
def Shape.lanes (r : Shape) (w : Nat) : Nat := if isBfp r.fmt then 2 ^ w else laneCount w (elemBits r.fmt)
/-- The units of an access at position `p`: those inside the tensor, by lane. -/
def Shape.active (r : Shape) (p w : Nat) : List Nat := (List.range (r.lanes w)).filter (fun l => decide (p + l < r.count))
/-- The record is legal for a width and position (R165). -/
def Shape.ok (r : Shape) (p w : Nat) : Bool :=
  r.resv == 0 && r.fmt != 7 &&
  (r.ext.take r.rank).all (fun e => e != 0) && (r.ext.drop r.rank).all (fun e => e == 0) &&
  (r.str.drop r.rank).all (fun t => t == 0) &&
  (isBfp r.fmt || r.base % unitBytes r.fmt == 0) &&
  (if isBfp r.fmt then decide (w ≤ 2) else decide (laneCount w (elemBits r.fmt) ≤ 128)) &&
  (r.active p w).all (fun l => decide (0 ≤ r.addr (p + l)) && decide (r.addr (p + l) + unitBytes r.fmt ≤ 2 ^ 52))

/-- A register group as one number, bit 0 of its first register lowest. -/
def groupNat (vs : List VReg) : Nat :=
  match vs with
  | [] => 0
  | v :: rest => v.toNat + 2 ^ 1024 * groupNat rest
/-- A number as the registers of a group of width `w`. -/
def natGroup (w n : Nat) : List VReg := (List.range (2 ^ w)).map (fun k => BitVec.ofNat 1024 (n / 2 ^ (1024 * k)))

/-- Read the units of the listed lanes, each one access, into a number (R166, R167). -/
def State.readUnits (s : State) (w : Who) (r : Shape) (p : Nat) (ls : List Nat) : State × Except AccRes Nat :=
  match ls with
  | [] => (s, .ok 0)
  | l :: rest =>
    match s.readAt w (r.addr (p + l)).toNat (unitBytes r.fmt) with
    | (s, .error e) => (s, .error e)
    | (s, .ok b) =>
      match s.readUnits w r p rest with
      | (s, .error e) => (s, .error e)
      | (s, .ok n) => (s, .ok (n + leNat b * 2 ^ (8 * unitBytes r.fmt * l)))
/-- Write the units of the listed lanes, ascending (R166, R167). -/
def State.writeUnits (s : State) (w : Who) (r : Shape) (p g : Nat) (ls : List Nat) : State × Option AccRes :=
  match ls with
  | [] => (s, none)
  | l :: rest =>
    match s.writeAt w (r.addr (p + l)).toNat (leBytes (unitBytes r.fmt) (g / 2 ^ (8 * unitBytes r.fmt * l))) with
    | (s, some e) => (s, some e)
    | (s, none) => s.writeUnits w r p g rest
/-- Read and check the record of a vector load or store (R165, R166). -/
def State.shapeAt (s : State) (w : Who) (ra p wd : Nat) : State × Except AccRes Shape :=
  if ra % 32 != 0 || 2 ^ 52 ≤ ra then (s, .error (.shapeRec ra p))
  else
    match s.readAt w ra 32 with
    | (s, .error e) => (s, .error e)
    | (s, .ok l) => if (shapeOf l).ok p wd then (s, .ok (shapeOf l)) else (s, .error (.shapeRec ra p))
/-! ## Trying an access -/

/-- Try an access (R229 to R243, R166, R247). Destinations are not written here. -/
def State.tryAccess (s : State) (w : Who) (a : Access) : State × AccRes :=
  match a with
  | .load ea sz dst _ =>
    match s.loadWords w ea sz dst.length with
    | (s, .ok ws) => (s, .words ws)
    | (s, .error e) => (s, e)
  | .store ea sz vals => s.storeWords w ea sz vals
  | .atomic op ea b b2 _ _ => s.atomicAt w op ea b b2
  | .ldx ea v dst _ => s.ldxAt w ea v dst.length
  | .stx ea x v => s.stxAt w ea v x false
  | .vrcl ea v n =>
    let (s, r) := s.vrclAt w ea v n
    (s.releaseStalls s.stalls, r)
  | .vqry ea _ _ => s.vqryAt w ea
  | .ldv ra p wd _ _ _ _ =>
    match s.shapeAt w ra p wd with
    | (s, .error e) => (s, e)
    | (s, .ok r) =>
      match s.readUnits w r p (r.active p wd) with
      | (s, .error e) => (s, e)
      | (s, .ok n) => (s, .vecs (natGroup wd n) (r.lanes wd))
  | .stv ra p wd _ _ data _ =>
    match s.shapeAt w ra p wd with
    | (s, .error e) => (s, e)
    | (s, .ok r) =>
      match s.writeUnits w r p (groupNat data) (r.active p wd) with
      | (s, none) => (s, .stored (r.lanes wd))
      | (s, some e) => (s, e)
  | .eld ea _ _ _ =>
    match s.readAt w ea 16 with
    | (s, .error e) => (s, e)
    | (s, .ok h) =>
      let n := leNat (h.drop 8) % 2 ^ 32
      if 256 < n then (s, .bytes h)
      else
        match s.readRun w (ea + 16) (16 * n) 16 n with
        | (s, .error e) => (s, e)
        | (s, .ok l) => (s, .bytes (h ++ l))
  | .est ea image _ =>
    match s.writeRun w ea image 16 257 with
    | (s, some e) => (s, e)
    | (s, none) => (s, .words [])
  | .payload _ ea flits =>
    match s.readRun w ea (64 * flits) 64 flits with
    | (s, .error e) => (s, e)
    | (s, .ok l) => (s, .bytes l)
  | .bytes ea data =>
    match s.writeRun w ea data 64 (data.length / 64 + 1) with
    | (s, some e) => (s, e)
    | (s, none) => (s, .words [])
  | .again ea =>
    match s.readAt w ea 8 with
    | (s, .error e) => (s, e)
    | (s, .ok _) => (s, .words [])

/-! ## The accesses of one relaxed instruction (R167, R229, R271) -/

/-- The accesses of a plain instruction, ascending, whether they read and write, and the units its position register moves on by. -/
structure Plan where
  parts : List Part
  rd : Bool
  wr : Bool
  units : Nat := 0

/-- The accesses of an instruction: none for one that makes them all at its issue, or whose shape record does not allow them. -/
def State.plan (s : State) (w : Who) (a : Access) : Option Plan :=
  let units := fun (r : Shape) (p wd : Nat) =>
    (r.active p wd).map (fun l => (⟨l, (r.addr (p + l)).toNat, unitBytes r.fmt⟩ : Part))
  match a with
  | .load ea sz d _ => some ⟨(List.range d.length).map (fun j => ⟨j, ea + 8 * j, szBytes sz⟩), true, false, 0⟩
  | .store ea sz vs => some ⟨(List.range vs.length).map (fun j => ⟨j, ea + 8 * j, szBytes sz⟩), false, true, 0⟩
  | .atomic _ ea _ _ _ _ => some ⟨[⟨0, ea, 8⟩], true, true, 0⟩
  | .vqry ea _ _ => some ⟨[⟨0, ea, 8⟩], true, false, 0⟩
  | .ldx ea _ d _ => some ⟨[⟨0, ea, 8 * d.length⟩], true, false, 0⟩
  | .ldv ra p wd _ _ _ _ =>
    match s.shapeAt w ra p wd with
    | (_, .ok r) => some ⟨units r p wd, true, false, r.lanes wd⟩
    | (_, .error _) => none
  | .stv ra p wd _ _ _ _ =>
    match s.shapeAt w ra p wd with
    | (_, .ok r) => some ⟨units r p wd, false, true, r.lanes wd⟩
    | (_, .error _) => none
  | _ => none
/-- The shape record that an instruction reads at its issue (R166). -/
def Access.record (a : Access) : List Part :=
  match a with
  | .ldv ra _ _ _ _ _ _ | .stv ra _ _ _ _ _ _ => [⟨0, ra, 32⟩]
  | _ => []
/-- What an access needs of its page (R320). -/
def needOf (rd wr : Bool) : Need := if rd && wr then .atomic else if wr then .store else .load
/-- The range of `n` bytes from `ea`, in one page, at their one copy; none when the access would fault or be held. -/
def State.rangeAt (s : State) (w : Who) (n : Need) (ea len : Nat) : Option (Nat × Nat) :=
  match s.place w.core w.cont ea n .owner with
  | (_, .ok _) => (s.copyAt w.core w.cont ea).map (fun a => (a, len))
  | (_, .error _) => none
/-- The ranges that an access touches, one for each page; none when it would fault or be held. -/
def State.rangesOf (s : State) (w : Who) (n : Need) (p : Part) : Option (List (Nat × Nat)) :=
  let a := 2 ^ 16 - p.ea % 2 ^ 16
  if 2 ^ 52 < p.ea + p.len then none
  else if p.len ≤ a then (s.rangeAt w n p.ea p.len).map (fun x => [x])
  else
    match s.rangeAt w n p.ea a, s.rangeAt w n (p.ea + a) (p.len - a) with
    | some x, some y => some [x, y]
    | _, _ => none
/-- Two ranges of accesses keep their program order (R270, R271): they share a byte, or lie in one vault and are no store followed by a
load. -/
def ranged (rd1 wr1 rd2 wr2 : Bool) (x y : Nat × Nat) : Bool :=
  (decide (x.1 < y.1 + y.2) && decide (y.1 < x.1 + x.2)) ||
  (decide (x.1 < 2 ^ 32) && decide (y.1 < 2 ^ 32) && x.1 / 2 ^ 25 == y.1 / 2 ^ 25 && !(wr1 && !rd1 && rd2 && !wr2))
/-- Two accesses of a thread keep their program order (R270, R271); one that would fault or be held keeps its own with every other. -/
def State.keepsOrder (s : State) (w : Who) (rd1 wr1 : Bool) (p : Part) (rd2 wr2 : Bool) (q : Part) : Bool :=
  match s.rangesOf w (needOf rd1 wr1) p, s.rangesOf w (needOf rd2 wr2) q with
  | some l, some m => l.any (fun x => m.any (fun y => ranged rd1 wr1 rd2 wr2 x y))
  | _, _ => true
/-- Some access of these earlier instructions must be performed before one of these accesses (R270, R271). -/
def State.mustFollow (s : State) (w : Who) (l : List Deferred) (rd wr : Bool) (ps : List Part) : Bool :=
  l.any (fun e => e.parts.any (fun p => ps.any (fun q => s.keepsOrder w e.rd e.wr p rd wr q)))
/-- Hide a store that has been performed, `s` being the state before it, from every context but its own (R272, R281). -/
def State.hideFrom (s u : State) (w : Who) (rel : Bool) (p : Part) : State :=
  match s.rangesOf w .store p with
  | some ((a, n) :: rest) =>
    let others := (s.threads.map (fun x => x.2.2.uid) ++ s.away.map (fun t => t.uid)).filter (fun k => k != w.uid)
    if (s.mayHide a && others != []) then
      { u with hidden := u.hidden ++ ((a, n) :: rest).flatMap (fun r => (List.range r.2).map (fun i =>
          { pa := r.1 + i, old := s.mem.get (r.1 + i), writer := w.uid, ack := r.1, rel := rel, knows := [w.uid], blind := others })) }
    else u
  | _ => u
/-- Perform one access of an instruction that was left for later: the number it reads, a lane in its place of a group. -/
def State.tryPart (s : State) (w : Who) (a : Access) (p : Part) : State × Except AccRes Nat :=
  let write := fun (n : Nat) =>
    match s.writeAt w p.ea (leBytes p.len n) with
    | (u, none) => (u, .ok 0)
    | (_, some e) => (s, .error e)
  let read := fun (k : Nat) =>
    match s.readAt w p.ea p.len with
    | (u, .ok l) => (u, .ok (leNat l * k))
    | (_, .error e) => (s, .error e)
  let word := fun (r : State × AccRes) => match r with
    | (u, .words ws) => (u, .ok ((ws.getD 0 0).toNat))
    | (_, e) => (s, .error e)
  match a with
  | .store _ _ vs => write (vs.getD p.lane 0).toNat
  | .stv _ _ _ _ _ data _ => write (groupNat data / 2 ^ (8 * p.len * p.lane))
  | .atomic op ea b b2 _ _ => word (s.atomicAt w op ea b b2)
  | .vqry ea _ _ => word (s.vqryAt w ea)
  | .ldv _ _ _ _ _ _ _ => read (2 ^ (8 * p.len * p.lane))
  | _ => read 1
/-- The value of a loading instruction all of whose accesses have been performed. -/
def Access.gathered (a : Access) (got : List (Nat × Nat)) : OutVal :=
  let at_ := fun (j : Nat) => match got.find? (fun x => x.1 == j) with
    | some x => x.2
    | none => 0
  match a with
  | .load _ sz d _ => .words ((List.range d.length).map (fun j => szExtend sz (leBytes (szBytes sz) (at_ j))))
  | .ldv _ _ wd _ _ _ _ => .vecs (natGroup wd (got.foldl (fun n x => n + x.2) 0))
  | _ => .words [BitVec.ofNat 64 (at_ 0)]

end Sys2Proof.Machine
end

