-- ==== Sys2Proof/Machine/Flags.lean ====
section
/-! DEFINITION. The sticky flags of `kflags` (R82). -/

namespace Sys2Proof.Machine

/-- Raise flags of a thread: bits set stay set until a `kset` (R82). -/
def Thread.raise (t : Thread) (f : Flags) : Thread := { t with kflags := t.kflags ||| f.zeroExtend 64 }
/-- Raise flags of the executing thread. -/
def State.raise (s : State) (f : Flags) : State := s.modMe (fun t => t.raise f)
/-- Raise flags of a thread wherever its context is (a queued unit's instruction, R82). -/
def State.raiseUid (s : State) (uid : Nat) (f : Flags) : State := s.modUid uid (fun t => t.raise f)

end Sys2Proof.Machine
end

