-- ==== Sys2Proof/Machine/Home.lean ====
section
/-! DEFINITION. The network as the hardware's own messages enter it (R367, R391), and the homes of the expert directory (R52 to
R60): entries, what the homes tell caches and cores. -/

namespace Sys2Proof.Machine

/-! ## Messages -/

/-- Put a message into the network, or hand it to the fabric when its target is on another device (R367). -/
def State.toNet (s : State) (m : Msg) : State :=
  let m := { m with uid := s.nextUid, since := s.cycle, atRouter := false, back := false }
  let s := { s with nextUid := s.nextUid + 1 }
  if m.ddev == s.rank then { s with net := s.net ++ [m] } else { s with fabric := s.fabric ++ [m] }
/-- A hardware message on `vn.sys` from one core of this device to another (R391). -/
def State.sysMsg (s : State) (kind src dst nf : Nat) (b : SysMsg) (flits : List (BitVec 512) := []) : State :=
  s.toNet { kind := kind, vn := 3, sdev := s.rank, src := src, ddev := s.rank, dst := dst, dslot := 15, nf := nf, flits := flits, sys := b }

/-! ## Homes -/

/-- A home's record of a name. -/
def State.home (s : State) (name : Nat) : Home := fget {} s.dir name
/-- Replace a home's record. -/
def State.setHome (s : State) (name : Nat) (h : Home) : State := { s with dir := fset s.dir name h }
/-- The core whose router the home of a name sends from (R391). -/
def homeCore (name : Nat) : Nat := coreAt (homeOf name) 0
/-- A message of a home (R391). -/
def State.homeMsg (s : State) (name dst : Nat) (b : SysMsg) : State := s.sysMsg 7 (homeCore name) dst 0 b
/-- A message from a core to a home. -/
def State.toHome (s : State) (name src : Nat) (b : SysMsg) : State := s.sysMsg 7 src (homeCore name) 0 b
/-- A replica slot of an entry. -/
def DirEntry.slot (e : DirEntry) (j : Nat) : DirSlot := e.slots.getD j {}
/-- Replace a replica slot. -/
def DirEntry.setSlot (e : DirEntry) (j : Nat) (x : DirSlot) : DirEntry := { e with slots := e.slots.set j x }
/-- The clusters of the sharer mask, rising. -/
def DirEntry.sharers (e : DirEntry) : List Nat := (List.range 128).filter (fun k => e.shr.testBit k)

/-- Send one change to the sharers in a list (R53). -/
def State.tellSharers (s : State) (name : Nat) (ks : List Nat) : State :=
  match ks with
  | [] => s
  | k :: rest =>
    let h := s.home name
    let s := s.setHome name { h with unacked := fset h.unacked k (fget 0 h.unacked k + 1) }
    (s.homeMsg name (coreAt k 0) (.change k name h.e)).tellSharers name rest
/-- Send a change of an entry to every sharer (R53). -/
def State.tellChange (s : State) (name : Nat) : State := s.tellSharers name (s.home name).e.sharers
/-- Send a slot's state to its core (R392). -/
def State.tellCore (s : State) (name j : Nat) : State :=
  let x := (s.home name).e.slot j
  s.homeMsg name x.core (.slotChange name j x.state x.wver x.fin)
/-- Change a slot at its home, and tell its core and the sharers (R53, R392). -/
def State.changeSlot (s : State) (name j : Nat) (x : DirSlot) : State :=
  let h := s.home name
  ((s.setHome name { h with e := h.e.setSlot j x }).tellCore name j).tellChange name
/-- Change a slot at its home and tell the sharers: an activation tells its core (R59). -/
def State.changeShared (s : State) (name j : Nat) (x : DirSlot) : State :=
  let h := s.home name
  (s.setHome name { h with e := h.e.setSlot j x }).tellChange name
/-- Add 1 to a statistic of an entry (R342): 0 creations, 1 retirements, 2 creation aborts, 3 dropped creations. -/
def State.addStat (s : State) (name k : Nat) : State :=
  let h := s.home name
  s.setHome name { h with stats := h.stats.set k (min (h.stats.getD k 0 + 1) (2 ^ 32 - 1)) }

/-- The thread of a slot's replica still exists: in a slot, or away from one. -/
def State.replicaLives (s : State) (name j : Nat) : Bool :=
  match fget? (s.home name).reps j with
  | some u => s.threads.any (fun x => x.2.2.uid == u) || s.away.any (fun t => t.uid == u)
  | none => false
/-- A RETIRED slot becomes FREE once its forwarding entry has expired and its replica thread has retired (R56); its `fin` stands
until the step ends (R67, R69). -/
def State.freeRetired (s : State) (name j : Nat) : State :=
  let h := s.home name
  let x := h.e.slot j
  if h.e.v && x.state == 4 && !h.fwdDue.contains j && !s.replicaLives name j &&
     !(s.core x.core).fwd.any (fun f => !f.thread && f.key == name)
  then s.changeSlot name j { x with state := 0, depth := 0 } else s
/-- Every RETIRED slot whose entry and thread have gone becomes FREE. -/
def State.freeAllRetired (s : State) : State :=
  s.dir.foldl (fun u h => (List.range' 1 7).foldl (fun u j => u.freeRetired h.1 j) u) s
/-- The thread of a replica has ended. -/
def State.replicaGone (s : State) (r : Option (Nat × Nat)) : State :=
  match r with
  | some (name, j) => s.freeRetired name j
  | none => s

/-! ## Windows (R57, R60) -/

/-- Slots that are PENDING, ACTIVE or DRAINING, or held by a claim (R57, R58). -/
def Home.inUse (h : Home) : Nat :=
  ((List.range 8).filter (fun j => let st := (h.e.slot j).state
    st == 1 || st == 2 || st == 3 || h.claims.any (fun c => c.j == j))).length
/-- ACTIVE to DRAINING (R60): removed from routing, the sharers' acknowledgements awaited. -/
def State.drainSlot (s : State) (name j : Nat) : State :=
  let s := s.changeSlot name j { (s.home name).e.slot j with state := 3 }
  let h := s.home name
  s.setHome name { h with drainWait := fset h.drainWait j (h.unacked.flatMap (fun u => List.replicate u.2 u.1)) }
/-- The end of a window that is due by cycle `t` (R57). -/
def State.windowEnd (s : State) (name t : Nat) : State :=
  let h := s.home name
  if !h.e.v || decide (t < h.winStart + 256 * h.winLen) || h.winLen == 0 then s
  else
    let s := s.setHome name { h with winStart := h.winStart + 256 * h.winLen, winLen := h.e.win, e := { h.e with meter := 0 } }
    if h.e.meter < h.e.thret ∧ 2 ≤ h.inUse then
      match (List.range' 1 7).reverse.find? (fun j => (h.e.slot j).state == 2) with
      | some j => s.drainSlot name j
      | none => s
    else s
/-- Every window end of a name that is due by cycle `t` acts, `n` of them at most: internal events come before messages, instructions and
later copies (R55). -/
def State.windowEnds (s : State) (name t n : Nat) : State :=
  match n with
  | 0 => s
  | n + 1 =>
    let h := s.home name
    if !h.e.v || h.winLen == 0 || decide (t < h.winStart + 256 * h.winLen) then s else (s.windowEnd name t).windowEnds name t n
/-- The home of a name as an event other than its own finds it (R55). -/
def State.atHome (s : State) (name : Nat) : State := s.windowEnds name s.cycle (s.cycle / 256 + 1)
/-- The home as a copy's completion finds it: a window end of the same cycle comes after (R55). -/
def State.beforeCopy (s : State) (name : Nat) : State :=
  if s.cycle = 0 then s else s.windowEnds name (s.cycle - 1) (s.cycle / 256 + 1)

end Sys2Proof.Machine
end

