-- ==== Sys2Proof/Machine/Thread.lean ====
section
/-! DEFINITION. Threads as they come and go (R19, R31, R41, R129, R150), messages as they are made (R283, R391), inbox and
overflow-store room (R285, R390). -/

namespace Sys2Proof.Machine

/-! ## Slots -/

/-- A core of its die's communication reserve (R45). -/
def State.reserved (s : State) (c : Nat) : Bool :=
  !isOpt c && (List.range (s.die (dieOf c)).n).any (fun k => reserveCore (dieOf c) k == c)
/-- A slot of a core has become free: a core of the reserve may start its communication image there (R47). -/
def State.freedSlot (s : State) (c t : Nat) : State :=
  if s.reserved c then s.setCore c { s.core c with freed := (s.core c).freed ++ [t] } else s
/-- Zero the registers of a window that a thread gives up (R129). -/
def Core.zeroWin (x : Core) (base n : Nat) : Core :=
  match n with
  | 0 => x
  | n + 1 => (x.setV (base + n) 0).zeroWin base n
/-- A free slot: it holds no thread. -/
def Core.free (x : Core) (t : Nat) : Bool := !(x.thr t).live
/-- The lowest free slot of a core. -/
def State.freeSlot (s : State) (c : Nat) : Option Nat := (List.range (slotCount c)).find? (fun t => (s.core c).free t)
/-- A context enters a slot: a context that left this slot loses its claim, and the slot's forwarding entry goes (R358). -/
def State.placeThread (s : State) (c t : Nat) (th : Thread) : State :=
  let x := s.core c
  let x := { x with fwd := x.fwd.filter (fun f => !(f.thread && f.key == t)),
                    absent := x.absent.map (fun (a : Absent) => if a.slot == t then { a with lost := true } else a),
                    freed := x.freed.filter (fun k => k != t) }
  let lose := fun (h : HaltSave) => { h with
    contexts := h.contexts.map (fun a => if a.1 == c && a.2.slot == t then (a.1, { a.2 with lost := true }) else a) }
  let s := { s with halts := s.halts.map lose }
  s.setCore c (x.setThr t { th with live := true, readyAt := s.cycle })
/-- Start a thread in a slot (R31, R41): a context with a new name. -/
def State.startThread (s : State) (c t : Nat) (th : Thread) : State :=
  { s.placeThread c t { th with uid := s.nextUid } with nextUid := s.nextUid + 1 }
/-- Free a slot: the thread is gone, its window reads zero, its Drupe's inbox slots are free, it waits for nothing
(R150, R297). -/
def State.endThread (s : State) (c t : Nat) : State :=
  let th := s.thr c t
  let x := (s.core c).zeroWin (winBase th.kvwin) (winCnt th.kvwin)
  let x := { x with
    threads := ferase x.threads t
    inbox := match th.drupe with
      | some d => x.inbox.filter (fun e => e.msg.uid != d.uid)
      | none => x.inbox
    lathe := match x.lathe with
      | some l => if l.uid == th.uid then none else some l
      | none => none
    vxq := x.vxq.filter (fun v => v.uid != th.uid) }
  { (s.setCore c x).freedSlot c t with
    stalls := s.stalls.filter (fun y => y.2.1 != th.uid)
    flts := s.flts.filter (fun f => !(f.uid == th.uid && (f.resume == .group || f.resume == .access || f.resume == .fetch)))
    clusters := fvals s.clusters (fun k => { k with rings := fvals k.rings (fun r =>
      { r with waitA := r.waitA.filter (fun u => u != th.uid), waitC := r.waitC.filter (fun u => u != th.uid) }) }) }

/-- The registers of a thread started with an octet (R31): `g14` and `g1` to `g7` are 0. -/
def octetRegs (o : List Word) : Vector Word 16 :=
  Vector.ofFn (fun i => if i.val < 8 || i.val == 14 then 0 else o.getD (i.val - 8) 0)

/-! ## Messages -/

/-- The low 64 bits of a header (R283). -/
def Msg.lo (m : Msg) : Word :=
  BitVec.ofNat 64 (m.reason % 16 * 2 ^ 60 + m.rix % 8 * 2 ^ 57 + m.sdev % 8192 * 2 ^ 44 + m.src % 4096 * 2 ^ 32 +
    m.sslot % 8 * 2 ^ 28 + m.dslot % 16 * 2 ^ 24 + m.dst % 4096 * 2 ^ 12 + m.mid % 4096)
/-- The high 64 bits of a header (R283). -/
def Msg.hi (m : Msg) : Word :=
  BitVec.ofNat 64 (m.tag % 2 ^ 24 * 2 ^ 40 + m.kind % 16 * 2 ^ 36 + m.vn % 4 * 2 ^ 34 + m.nf % 4 * 2 ^ 32 + m.step % 2 ^ 32)
/-- Inbox slots a message takes (R285). -/
def Msg.slots (m : Msg) : Nat := m.nf + 1
/-- Bytes an item of a size takes in the parking or spill share (R390). -/
def storeBytes (n : Nat) : Nat := (n + 63) / 64 * 64 + 64
/-- Bytes of a message in the overflow store: header and flits. -/
def Msg.stored (m : Msg) : Nat := storeBytes (16 + 64 * (m.nf + 1))
/-- Bytes of a result entry in the overflow store (R108). -/
def QoEntry.stored (e : QoEntry) : Nat := storeBytes (8 + 8 * e.body.length)

/-- The refusal of a message (R291); a refusal is never refused. -/
def State.refuse (s : State) (m : Msg) (at_ reason : Nat) : State :=
  if m.kind == 3 then s
  else s.toNet { m with kind := 3, vn := 1, reason := reason, sdev := s.rank, src := at_, sslot := 0,
                        ddev := m.sdev, dst := m.src, dslot := m.sslot, sys := .none, escaped := false, fwd := false }
/-! ## Gangs -/

/-- The members of the gang a thread belongs to, as core and slot, in ascending core number; the thread alone when it is in
none (R25). -/
def State.members (s : State) (c t : Nat) : List (Nat × Nat) :=
  match (s.thr c t).gang with
  | none => [(c, t)]
  | some g =>
    (s.threads.filter (fun x => match x.2.2.gang with
      | some h => h.lead == g.lead
      | none => false)).map (fun x => (x.1, x.2.1))
/-- The slot's thread leads its group: it is in no gang or is the gang's leader (R25). -/
def Thread.leads (th : Thread) : Bool :=
  match th.gang with
  | none => true
  | some g => g.lead == th.uid
/-- Every member of the thread's gang is in its slot (R27). -/
def State.gathered (s : State) (c t : Nat) : Bool :=
  match (s.thr c t).gang with
  | none => true
  | some g => (s.members c t).length == g.n

/-! ## Messages under way -/

/-- Remove a message from the network. -/
def State.unNet (s : State) (uid : Nat) : State := { s with net := s.net.filter (fun m => m.uid != uid) }
/-- Inbox slots in use by a virtual network (R285). -/
def Core.inUse (x : Core) (vn : Nat) : Nat :=
  (x.inbox.filter (fun e => e.msg.vn == vn)).foldl (fun n e => n + e.msg.slots) 0
/-- The inbox has room for a message (R285). -/
def Core.room (x : Core) (m : Msg) : Bool :=
  let n := m.slots
  if m.vn == 1 || m.vn == 3 then decide (x.inUse m.vn + n ≤ 4)
  else decide (x.inUse m.vn + n ≤ 16) && decide (x.inUse 0 + x.inUse 2 + n ≤ 24)
/-- A message finds room in an inbox: `back` from the overflow store, or with none of its network spilled before it (R285). -/
def Core.admits (x : Core) (m : Msg) (back : Bool) : Bool :=
  x.room m && (back || !(m.vn == 1 || m.vn == 3) || !x.spill.any (fun o => o.vn == m.vn))
/-- No earlier message of `vn.rep` or `vn.sys` waits at the router that message m is to leave (R285). -/
def State.nextAtDoor (s : State) (m : Msg) : Bool :=
  if m.vn == 1 || m.vn == 3 then
    match s.net.find? (fun o => o.atRouter && o.dst == m.dst && o.vn == m.vn) with
    | some o => o.uid == m.uid
    | none => true
  else true
/-- Network message k of the event, when it can arrive: no earlier one of its network waits at the same router, and one of `vn.sys`,
which the hardware consumes, finds room (R285). -/
def State.arriving (s : State) : Option Msg :=
  match s.net[s.ev.k]? with
  | some m => if s.nextAtDoor m && (m.vn != 3 || (s.core m.dst).admits m m.back) then some m else none
  | none => none
/-- A message that finds no room waits in its network (R17, R285): one of `vn.rep` or `vn.sys` at its target's router, ahead of later
ones. -/
def State.atDoor (s : State) (m : Msg) : State :=
  if m.atRouter || !(m.vn == 1 || m.vn == 3) then s
  else { s with net := s.net.map (fun o => if o.uid == m.uid then { o with atRouter := true } else o) }

/-- The lowest inbox slot from which a message can lie (for a Drupe's fault record, R350). -/
def Core.firstSlot (x : Core) (m : Msg) : Nat :=
  let used := fun k => x.inbox.any (fun e => decide (e.slot ≤ k) && decide (k < e.slot + e.msg.nf + 1))
  ((List.range 32).find? (fun k => (List.range (m.nf + 1)).all (fun j => !used (k + j)))).getD 0
/-- A message ranks before another in an inbox: it arrived first, ties in ascending src, then mid (R295). -/
def Msg.before (m o : Msg) : Bool :=
  decide (m.arr < o.arr) || (m.arr == o.arr && (decide (m.src < o.src) || (m.src == o.src && decide (m.mid < o.mid))))
/-- A message enters the inbox, in its place in the order of arrival (R295): one that was spilled has kept its own. -/
def Core.takeIn (x : Core) (m : Msg) (parked : Bool) : Core :=
  { x with inbox := x.inbox.filter (fun e => !m.before e.msg) ++ { msg := m, parked := parked, slot := x.firstSlot m } ::
      x.inbox.filter (fun e => m.before e.msg) }
/-- The index by which a token is judged: the slot it was routed to, or slot 0 once it has been sent on (R61). -/
def Msg.slotOf (m : Msg) : Nat := if m.fwd then 0 else m.rix

/-- Size in bytes of a core's overflow store (R362, R390). -/
def State.ovfBytes (s : State) (c : Nat) : Nat := (fget 1 s.mwOvf c).toNat * 2 ^ 16
/-- Bytes of the parking share, and of the spill share (R390). -/
def State.share (s : State) (c : Nat) : Nat := (s.ovfBytes c - 36 * 1024) / 2
/-- Bytes parked at a core. -/
def Core.parkedBytes (x : Core) : Nat :=
  x.parked.foldl (fun n p => n + (match p.msg, p.res with
    | some m, _ => m.stored
    | none, some r => r.2.stored
    | none, none => 0)) 0
/-- Bytes spilled at a core, task records of its cluster counted by the caller. -/
def Core.spillBytes (x : Core) : Nat :=
  x.spill.foldl (fun n m => n + m.stored) 0 + x.spillRes.foldl (fun n r => n + r.2.stored) 0 +
    storeBytes 64 * x.spillFlt.length
/-- Bytes of a core's spill share in use, with the task-queue records its cluster keeps there (R316, R390). -/
def State.spilled (s : State) (c : Nat) : Nat :=
  (s.core c).spillBytes +
    (if !isOpt c && posInCluster c == 0 then storeBytes 64 * (s.cluster (clusterOf c)).taskOver.length else 0)
/-- The spill share has room for `n` bytes. -/
def State.spillRoom (s : State) (c n : Nat) : Bool := decide (s.spilled c + n ≤ s.share c)
/-- The parking share has room for `n` bytes. -/
def State.parkRoom (s : State) (c n : Nat) : Bool := decide ((s.core c).parkedBytes + n ≤ s.share c)

/-- A message visible to a thread's slot (R292). -/
def InboxEntry.visible (e : InboxEntry) (t : Nat) : Bool :=
  (e.msg.kind == 0 || e.msg.kind == 2 || e.msg.kind == 3) && (e.msg.dslot == t || e.msg.dslot == 15) && !e.parked
/-- Set a pending-event bit of a thread (R142). -/
def Thread.event (t : Thread) (bit : Nat) : Thread := { t with pend := t.pend ||| BitVec.ofNat 6 (2 ^ bit) }
/-- Set a pending bit in a slot that holds a thread. -/
def State.signal (s : State) (c t bit : Nat) : State :=
  if (s.thr c t).live then s.setThr c t ((s.thr c t).event bit) else s
/-- Set bit 0 in every thread to which a message becomes visible (R292). -/
def State.signalMsg (s : State) (c dslot : Nat) : State :=
  if dslot == 15 then (List.range (slotCount c)).foldl (fun s t => s.signal c t 0) s else s.signal c dslot 0

end Sys2Proof.Machine
end

