-- ==== Sys2Proof/Machine/Fault.lean ====
section
/-! DEFINITION. Faults as they are reported (R348 to R352): classes, records, posting through the service map, containment
(R359); the lifetime record (R345, R346). -/

namespace Sys2Proof.Machine

/-! ## The lifetime record -/

/-- Power-on time in hours (R346), a cycle being 1 ÷ 1.4 GHz (R3). -/
def State.hours (s : State) : Nat := (s.powerOn + s.cycle) / (1400000000 * 3600)
/-- The band of a power-on time (R346). -/
def lifeBand (h : Nat) : Nat := ((List.range 7).find? (fun k => decide (h < 64 * 4 ^ k))).getD 7
/-- Key of a total (`sub` 15) or bin of an object's item (R345). -/
def lifeKey (kind idx item sub : Nat) : Nat := ((kind * 4096 + idx) * 8 + item) * 16 + sub
/-- Add to a saturating counter of a map. -/
def satAdd (m : FMap Nat) (k w : Nat) : FMap Nat := fset m k (min (fget 0 m k + 1) (2 ^ w - 1))
/-- Count an event in the lifetime record: 48-bit total, 32-bit bin of the band in force (R337, R346). -/
def State.lifeAdd (s : State) (kind idx item : Nat) : State :=
  { s with life := satAdd (satAdd s.life (lifeKey kind idx item 15) 48) (lifeKey kind idx item (lifeBand s.hours)) 32 }
/-- A saturating 32-bit count. -/
def sat32 (n : Nat) : Nat := min (n + 1) (2 ^ 32 - 1)

/-- A fault record is posted for an access that has already received a retry reply: the core's refault counter and its lifetime record
(R337, R345). -/
def State.countRefault (s : State) (c : Nat) : State :=
  (s.setCore c { s.core c with refault := sat32 (s.core c).refault }).lifeAdd 0 c 3

/-! ## Classes (R349) -/

def cILLENC : Nat := 0x01
def cBADPC : Nat := 0x02
def cADDRRNG : Nat := 0x03
def cALIGN : Nat := 0x04
def cVWINOVL : Nat := 0x05
def cVWINOUT : Nat := 0x06
def cKPRIV : Nat := 0x07
def cGANGOP : Nat := 0x08
def cSAFEOVD : Nat := 0x09
def cCAPTASK : Nat := 0x0A
def cLATHEOP : Nat := 0x0B
def cNOTRAP : Nat := 0x0C
def cTRAPNEST : Nat := 0x0D
def cDRUPEOP : Nat := 0x0E
def cQOP : Nat := 0x0F
def cRINGH : Nat := 0x10
def cGRPSEQ : Nat := 0x11
def cGQCORE : Nat := 0x12
def cTQREC : Nat := 0x13
def cCTRSEL : Nat := 0x14
def cMROW : Nat := 0x15
def cSHAPEREC : Nat := 0x20
def cXALLMIS : Nat := 0x21
def cMOPND : Nat := 0x22
def cMCHAIN : Nat := 0x23
def cENVOVF : Nat := 0x24
def cENVRNG : Nat := 0x25
def cENVOP : Nat := 0x26

/-- The kind of a class (R349). -/
def clsKind (c : Nat) : Nat := if c < 0x20 then 0 else if c < 0x30 then 1 else 2

/-- A launch as a record's `lnch` (R350). -/
def launchWord (l : Option (Nat × Nat)) : Nat :=
  match l with
  | some (f, q) => f * 2 ^ 27 + q
  | none => 0

/-- The 64 bytes of a fault record, `v` set (R350). -/
def FaultRec.line (r : FaultRec) : BitVec 512 :=
  BitVec.ofNat 512 (r.addr * 2 ^ 448 + r.pc % 2 ^ 64 * 2 ^ 384 + r.seq % 2 ^ 32 * 2 ^ 352 + r.elem % 2 ^ 32 * 2 ^ 320 +
    r.prog % 2 ^ 32 * 2 ^ 288 + r.aux % 2 ^ 32 * 2 ^ 256 + r.lnch % 2 ^ 32 * 2 ^ 224 + r.gen % 2 ^ 16 * 2 ^ 208 +
    r.core % 2 ^ 12 * 2 ^ 196 + r.slot % 8 * 2 ^ 193 + r.stage % 16 * 2 ^ 189 + r.cls % 64 * 2 ^ 183 + r.opnd % 8 * 2 ^ 180 +
    r.kind % 4 * 2 ^ 178 + r.rid % 2 ^ 16 * 2 ^ 160 + r.unit % 256 * 2 ^ 152 + r.rep % 2 ^ 32 * 2 ^ 120 + 2 ^ 8)
/-- A record read back from its 64 bytes. -/
def recOf (x : BitVec 512) : FaultRec :=
  let n := x.toNat
  { addr := bitsN n 511 448, pc := bitsN n 447 384, seq := bitsN n 383 352, elem := bitsN n 351 320, prog := bitsN n 319 288,
    aux := bitsN n 287 256, lnch := bitsN n 255 224, gen := bitsN n 223 208, core := bitsN n 207 196, slot := bitsN n 195 193,
    stage := bitsN n 192 189, cls := bitsN n 188 183, opnd := bitsN n 182 180, kind := bitsN n 179 178, rid := bitsN n 175 160,
    unit := bitsN n 159 152, rep := bitsN n 151 120 }

/-! ## Containment -/

/-- A message that carries a thread of a launch (R359: wherever its threads are). -/
def Msg.carries (m : Msg) (l : Nat × Nat) : Bool :=
  match m.sys with
  | .spawn _ _ _ _ _ _ ln _ => ln == some l
  | .context t _ _ _ => t.launch == some l
  | .drupe ln _ => ln == some l
  | _ => false
/-- Refuse the messages in a core's inbox that name a slot whose thread has ended (R359). -/
def State.refuseSlot (s : State) (c t : Nat) : State :=
  let hit := (s.core c).inbox.filter (fun e => e.msg.dslot == t && (e.msg.kind == 0 || e.msg.kind == 2))
  hit.foldl (fun s e => s.refuse e.msg c 6)
    (s.setCore c { s.core c with inbox := (s.core c).inbox.filter (fun e => !(e.msg.dslot == t &&
        (e.msg.kind == 0 || e.msg.kind == 2 || e.msg.kind == 3))) })
/-- Refuse the messages in inboxes that name the slots of absent contexts which still own them (R358, R359). -/
def State.refuseAbsent (s : State) (dead : List Nat) : State :=
  (s.cores.flatMap (fun x => (x.2.absent.filter (fun a => dead.contains a.thr.uid && !a.lost)).map (fun a => (x.1, a.slot)))).foldl
    (fun s p => s.refuseSlot p.1 p.2) s
/-- A round whose `bar` has lost its thread ends when its result arrives, or now when it has. -/
def Core.orphanBar (x : Core) (uid : Nat) : Core :=
  { x with groups := (x.groups.filter (fun g => !(g.2.bar && g.2.uid == uid && g.2.result.isSome))).map (fun g =>
      (g.1, if g.2.bar && g.2.uid == uid then { g.2 with gone := true } else g.2)) }
/-- Nobody is answered in a slot whose thread has gone. -/
def State.forgetAsker (s : State) (c t : Nat) : State :=
  { s with dir := fvals s.dir (fun h => { h with
      claims := h.claims.map (fun (k : Claim) => if k.asker == some (c, t) then { k with asker := none } else k) }) }
/-- End a thread by containment (R248, R359): its accesses have settled, messages to it are refused. -/
def State.killThread (s : State) (c t : Nat) : State :=
  let u := (s.endThread c t).refuseSlot c t
  ((u.setCore c ((u.core c).orphanBar (s.thr c t).uid)).forgetAsker c t).replicaGone (s.thr c t).replica
/-- What containment takes out of a core (R359): absent contexts, engine and queued matrix and Rind commands, messages that have not
left or that carry a thread, forwarding entries, of the launch; `dead` are the names of its contexts. -/
def Core.contain (x : Core) (l : Nat × Nat) (dead : List Nat) : Core :=
  let mine := fun (o : Option (Nat × Nat)) => o == some l
  { x with
    absent := x.absent.filter (fun a => !mine a.thr.launch)
    parked := x.parked.filter (fun p => !dead.contains p.uid)
    qi := fvals x.qi (fun q => q.filter (fun e => !mine e.launch))
    qrun := fvals x.qrun (fun q => q.filter (fun e => !mine e.launch))
    qo := fvals x.qo (fun q => q.filter (fun e => !dead.contains e.uid))
    spillRes := x.spillRes.filter (fun r => !dead.contains r.2.uid)
    mq := x.mq.filter (fun m => !mine m.launch)
    mrun := match x.mrun with
      | some m => if mine m.launch && m.faulted then none else some m
      | none => none
    rq := x.rq.filter (fun r => !mine r.launch)
    envPend := x.envPend.filter (fun e => !dead.contains e.uid)
    outbox := x.outbox.filter (fun o => (o.ready || !dead.contains o.msg.suid) && !o.msg.carries l)
    inbox := x.inbox.filter (fun e => !e.msg.carries l || e.msg.kind == 1)
    spill := x.spill.filter (fun m => !m.carries l)
    fwd := x.fwd.filter (fun f => f.launch != some l)
    ring := x.ring.map (fun r => if dead.contains r.uid then { r with faulted := false } else r) }
/-- Free the rings of a launch (R309, R359). -/
def State.freeRings (s : State) (l : Nat × Nat) : State :=
  { s with clusters := fvals s.clusters (fun k => { k with rings := k.rings.filter (fun r => r.2.launch != some l) }) }
/-- Items parked for contexts, with their cores, in overflow stores and halt areas. -/
def State.parkedFor (s : State) (dead : List Nat) : List (Nat × Parked) :=
  (s.cores.flatMap (fun x => x.2.parked.map (fun p => (x.1, p))) ++ s.halts.flatMap (fun h => h.parked)).filter
    (fun p => dead.contains p.2.uid)
/-- Refuse parked messages with NODEST (R359). -/
def State.refuseParked (s : State) (ps : List (Nat × Parked)) : State :=
  ps.foldl (fun s p => match p.2.msg with
    | some m => s.refuse m p.1 6
    | none => s) s
/-- Contain a launch (R359): it ends with its threads and commands, and is then ready to retire with status 1. -/
def State.containLaunch (s : State) (l : Nat × Nat) : State :=
  let here := s.threads.filter (fun x => x.2.2.launch == some l)
  let away := s.away.filter (fun t => t.launch == some l)
  let dead := here.map (fun x => x.2.2.uid) ++ away.map (fun t => t.uid)
  let items := s.parkedFor dead
  let s := here.foldl (fun s x => s.killThread x.1 x.2.1) s
  let s := s.refuseAbsent dead
  let s := { s with
    cores := fvals s.cores (fun x => x.contain l dead)
    hubs := fvals s.hubs (fun h => { h with svq := h.svq.filter (fun c => c.launch != some l) })
    net := s.net.filter (fun m => !m.carries l)
    flts := s.flts.filter (fun f => f.launch != some l)
    clusters := fvals s.clusters (fun k => { k with
      taskq := k.taskq.filter (fun r => r.launch != some l)
      taskOver := k.taskOver.filter (fun r => r.launch != some l)
      taskWait := k.taskWait.filter (fun r => r.launch != some l) }) }
  let s := (s.freeRings l).refuseParked items
  let s := match (s.fifo l.1).running with
    | some r =>
      if r.sq == l.2 then
        { s.setFifo l.1 { s.fifo l.1 with running := some { r with contained := true, toPlace := [], halting := none, halted := false } } with
          halts := s.halts.filter (fun h => h.fifo != l.1) }
      else s
    | none => s
  s.freeAllRetired

/-- Contain what a fault belongs to (R359): its launch, or a thread of no launch alone (with its gang), wherever it is. -/
def State.endContext (s : State) (uid : Nat) (launch : Option (Nat × Nat)) : State :=
  match launch with
  | some l => s.containLaunch l
  | none =>
    match s.findUid uid with
    | some (c, t) => (s.members c t).foldl (fun u m => u.killThread m.1 m.2) s
    | none =>
      let s := s.refuseAbsent [uid]
      let u : State := { s with cores := fvals s.cores (fun x =>
        { x with absent := x.absent.filter (fun a => a.thr.uid != uid), parked := x.parked.filter (fun p => p.uid != uid) }) }
      (u.refuseParked (s.parkedFor [uid])).freeAllRetired

/-! ## Posting -/

/-- The thread's fields of a record, with its group's address (R350). -/
def recFor (c t : Nat) (th : Thread) (a : Nat) : FaultRec :=
  { core := c, slot := t, stage := th.kstage.toNat % 16, lnch := launchWord th.launch,
    pc := (match th.drupe with
      | some d => d.slot + 256 * (a / 8)
      | none => a) }
/-- The executing group's address as a record gives it (R350). -/
def State.recPc (s : State) : Nat := (recFor s.cur.core s.cur.slot s.me s.cur.addr.toNat).pc
/-- A request number not in use among the unit's faults awaiting reply (R350). -/
def State.freeRid (s : State) (c u : Nat) : Nat :=
  let used := (s.flts.filter (fun f => f.frec.core == c && f.frec.unit == u)).map (fun f => f.frec.rid)
  ((List.range (used.length + 1)).find? (fun k => !used.contains k)).getD 0
/-- Post a fault record to the service core that the map names for its source (R335, R348, R352). An entry with v = 0 contains
the launch; a thread of no launch ends alone (R359). The request number is the answer. -/
def State.postFault (s : State) (src : Nat) (r : FaultRec) (uid : Nat) (launch : Option (Nat × Nat)) (res : Resume) :
    State × Nat :=
  let e := (fget 0 s.svcmap src).toNat
  if e / 2 ^ 15 == 0 then
    (s.endContext uid launch, 0)
  else
    let svc := e % 4096
    let r := { r with gen := fget 0 (s.core r.core).learned svc, rid := s.freeRid r.core r.unit, kind := clsKind r.cls }
    let s := s.sysMsg 8 r.core svc 0 (.faultRecord r)
    ({ s with flts := s.flts ++ [{ frec := r, svc := svc, postedAt := s.cycle, uid := uid, resume := res, launch := launch }] }, r.rid)
/-- The reply is what the poster's thread waits for before it issues again (R348). -/
def Resume.blocks (r : Resume) : Bool :=
  match r with
  | .group | .late _ | .access | .fetch => true
  | _ => false
/-- A fault of a context awaits its reply: its thread does not issue, in whatever slot it is (R348). -/
def State.onMailbox (s : State) (uid : Nat) : Bool := s.flts.any (fun f => f.uid == uid && f.resume.blocks)
/-- What a thread that waits on its mailbox waits for: what it waited for already comes first (R348). -/
def Block.mail (b : Block) (rid : Nat) : Block :=
  match b with
  | .none | .retry | .mailbox _ => .mailbox rid
  | b => b
/-- Block a context's thread on its mailbox, in the slot named or the one it has moved to (R348). -/
def State.mailbox (s : State) (c t uid rid : Nat) : State :=
  if (s.thr c t).live && (s.thr c t).uid == uid then s.setThr c t { s.thr c t with blk := (s.thr c t).blk.mail rid }
  else
    match s.findUid uid with
    | some (c, t) => s.setThr c t { s.thr c t with blk := (s.thr c t).blk.mail rid }
    | none => s

end Sys2Proof.Machine
end

