-- ==== Sys2Proof/Machine/Ops.lean ====
section
/-! DEFINITION. The operations the meanings share: stopping a group, taking a fault (R348, R350), trap entry and return
(R148, R149), control transfers and retirement (R32, R92, R150), rights (R34, R126, R323), the dispatch ring (R162, R355),
memory accesses as a thread makes them (R247), the outbox (R286). -/

namespace Sys2Proof.Machine

/-- What a meaning answers. -/
abbrev Res := Host.Outcome State Fault Refusal

/-! ## A group that does not execute -/

/-- The executing group's condition does not hold: it has not issued, and is tried again (R22). -/
def State.waits (s : State) : State :=
  { s.modMe (fun t => { t with blk := .retry, pc := s.cur.addr }) with cur := { s.cur with stop := true } }

/-- Take a precise fault at the executing group (R348): the record is posted, the thread stops at the group and blocks on its
mailbox. `opnd` is the operand (R350). R101 has the record name the slot, C or A, and R350 gives a record no field for it: only
ILLENC's word does so, and the record of any other precise fault names none (DESIGN CHOICE, assumption 106). -/
def State.fault (s : State) (cls opnd addr aux : Nat) : State :=
  let t := s.me
  let r := { recFor s.cur.core s.cur.slot t s.cur.addr.toNat with cls := cls, opnd := opnd, addr := addr, aux := aux }
  let u := s.modMe (fun t => { t with pc := s.cur.addr })
  let (u, rid) := u.postFault (svcIndex s.cur.core) r t.uid t.launch .group
  { u.mailbox s.cur.core s.cur.slot t.uid rid with cur := { s.cur with stop := true } }

/-- The operand of a record that an ILLENC field code stands for (R110, R350). -/
def opndOf (code : Nat) : Nat :=
  match code with
  | 3 => 4
  | 4 => 1
  | 5 => 2
  | 6 => 3
  | _ => 6
/-- ILLENC naming a word and a field code (R110). -/
def State.illenc (s : State) (word code : Nat) : State := s.fault cILLENC (opndOf code) 0 (16 * word + code)
/-- A precise fault of the instruction itself. -/
def State.faultSelf (s : State) (cls : Nat) : State := s.fault cls 6 0 0

/-! ## The dispatch ring -/

/-- The registers an instruction reads at issue for a queued unit (R192, R355). -/
def State.sample (s : State) (ops : List Word) : Sampled :=
  let t := s.src
  { kfmtA := t.kfmtA, kfmtB := t.kfmtB, kfmtC := t.kfmtC, ksclA := t.ksclA, ksclB := t.ksclB, kround := t.kround,
    kseq := t.kseq, kstep := t.kstep, kstage := t.kstage, ktol := t.ktol, kenv := t.kenv, ops := ops }
/-- Vector unit sequence number of an access (R162), or that of its Rind instruction (R350); 0 for the others. -/
def Access.seq (a : Access) : Nat :=
  match a with
  | .ldv _ _ _ _ q _ _ => q
  | .stv _ _ _ q _ _ _ => q
  | .eld _ _ q _ => q
  | .est _ _ q => q
  | _ => 0
/-- An access of a thread that its instruction's dispatch number names is held, or not performed yet. -/
def Thread.accessing (t : Thread) (q : Nat) : Bool :=
  (match t.held with
   | some a => a.seq == q
   | none => false) || t.deferred.any (fun d => d.acc.seq == q)
/-- A dispatched instruction is still queued or running, or its access is held or not performed, and may yet fault. -/
def Core.inFlight (x : Core) (q : Nat) : Bool :=
  x.mq.any (fun m => m.seq == q) || x.rq.any (fun r => r.seq == q) || x.vxq.any (fun v => v.seq == q) ||
  x.threads.any (fun t => t.2.accessing q) ||
  (match x.mrun with
   | some m => m.seq == q
   | none => false)
/-- The ring with a new entry: the 64 most recent, and entries that have faulted or may still fault (R337, R355). -/
def Core.ringPush (x : Core) (e : RingEntry) : List RingEntry :=
  let l := x.ring ++ [e]
  let old := l.take (l.length - 64)
  old.filter (fun r => r.faulted || x.inFlight r.seq) ++ l.drop (l.length - 64)
/-- Take the next dispatch sequence number and ring entry for an instruction (R162); a replay keeps its number (R355). -/
def State.dispatch (s : State) (i : Instr) : State × Nat :=
  match s.cur.replay with
  | some q => (s, q)
  | none =>
    let q := (s.here.dispSeq + 1) % 2 ^ 32
    let t := s.src
    let e : RingEntry := { seq := q, ins := i, pc := s.recPc, slot := s.cur.slot, uid := s.me.uid, g := t.g, p := t.p,
                           kvwin := t.kvwin, s := s.sample [], cont := s.me.cont, rep := s.cur.rep,
                           lathe := if s.cur.lathe.isSome then s.here.lathe else none }
    (s.modHere (fun x => { x with dispSeq := q, ring := x.ringPush e }), q)
/-- Report a late fault of a dispatched instruction (R348): its thread stops before its next group, and a Lathe that issued it
stops (R155). -/
def State.late (s : State) (core slot uid seq : Nat) (cls opnd addr elem prog unit : Nat)
    (launch : Option (Nat × Nat)) : State :=
  let x := s.core core
  let e := x.ring.find? (fun r => r.seq == seq)
  let r : FaultRec := {
    core := core, slot := slot, lnch := launchWord launch
    cls := cls, opnd := opnd, addr := addr, elem := elem, prog := prog, unit := unit, seq := seq
    stage := (match e with
      | some e => e.s.kstage.toNat % 16
      | none => 0)
    pc := (match e with
      | some e => e.pc
      | none => 0)
    rep := (match e with
      | some e => e.rep
      | none => 0) }
  let s := s.setCore core { x with
    ring := x.ring.map (fun r => if r.seq == seq then { r with faulted := true } else r)
    -- a repetition that faults stops the Lathe (R155)
    lathe := match e, x.lathe with
      | some { lathe := some k, .. }, some l => if k.pc == l.pc && k.uid == l.uid then some { l with r := l.count } else some l
      | _, l => l }
  let (s, rid) := s.postFault (svcIndex core) r uid launch (.late seq)
  s.mailbox core slot uid rid

/-! ## Rights -/

/-- The thread's role is service (R126, R323). -/
def State.service (s : State) : Bool := s.src.krole.toNat % 4 == 3
/-- A core that some entry of the service map names (R335). -/
def State.svcCore (s : State) (c : Nat) : Bool :=
  s.svcmap.any (fun e => e.2.toNat / 2 ^ 15 == 1 && e.2.toNat % 4096 == c)
/-- The task capability (R34). -/
def State.taskCap (s : State) (c : Nat) : Bool :=
  isOpt c || s.svcCore c || s.dir.any (fun e => e.2.e.v && e.2.e.owner == c)

/-! ## Control transfers and retirement -/

/-- Messages of a context in its core's outbox (R286). -/
def Core.outUsed (x : Core) (uid : Nat) : Nat := (x.outbox.filter (fun o => o.msg.suid == uid)).length
/-- The A-slot partner of a thread's control transfer has written: it is in no unit's queue and its envelope is renamed (R101). -/
def Core.partnerDone (x : Core) (th : Thread) : Bool :=
  match th.part with
  | none => true
  | some q => !x.rq.any (fun r => r.seq == q) && !x.envPend.any (fun e => e.seq == q) && !x.vxq.any (fun v => v.seq == q)
/-- The accesses of a thread have been performed, but for loads that wait for a version. -/
def State.accessesDone (s : State) (th : Thread) : Bool :=
  th.held.isNone && th.deferred.isEmpty && !s.stalls.any (fun y => y.2.1 == th.uid)
/-- The Lathe of a slot's thread has completed. -/
def State.latheIdle (s : State) (c t : Nat) : Bool :=
  match (s.core c).lathe with
  | some l => l.uid != (s.thr c t).uid
  | none => true
/-- `halt` may retire the thread of a slot: its Lathe has completed, its outbox is empty, its partner's writes have landed (R101,
R150), and the memory effects of its outstanding instructions have happened (R150, R278). -/
def State.mayHalt (s : State) (c t : Nat) : Bool :=
  let th := s.thr c t
  s.latheIdle c t && (s.core c).outUsed th.uid == 0 && (s.core c).partnerDone th && s.accessesDone th
/-- A slot's thread, and its gang with it, may retire now. -/
def State.canRetire (s : State) (c t : Nat) : Bool := (s.members c t).all (fun m => s.mayHalt m.1 m.2)
/-- A slot's thread retires, with its gang (R146). -/
def State.retired (s : State) (c t : Nat) : State :=
  (s.members c t).foldl (fun u m => (u.endThread m.1 m.2).replicaGone (s.thr m.1 m.2).replica) s
/-- Retire the executing thread as `halt` does (R150): a gang retires whole (R146), a Drupe frees its slots (R297). A thread that may
not retire yet does so once it may (R101). A follower leaves it to its leader. -/
def State.retire (s : State) : State :=
  if s.cur.follows then s
  else if s.canRetire s.cur.core s.cur.slot then s.retired s.cur.core s.cur.slot
  else s.modMe (fun t => { t with after := .retire })
/-- Transfer control to an address (R32, R92): 0 retires the thread, a misaligned target does not take place and raises BADPC.
`opnd` is the operand that gave it. -/
def State.jump (s : State) (opnd : Nat) (a : Word) : State :=
  if s.cur.follows then s
  else if a = 0 then s.retire
  else if a.toNat % 8 ≠ 0 then s.fault cBADPC opnd a.toNat 0
  else s.modMe (fun t => { t with pc := a })
/-- A transfer after other effects of its instruction, `t` being the state with them: when the group does not execute, none of
them stands (R101). -/
def State.thenGo (s t : State) (go : State → State) : State := if (go t).cur.stop then go s else go t
/-- Go to a group by displacement (R97); in a Drupe, to a group index (R297). -/
def State.branch (s : State) (disp : Int) : State :=
  match s.me.drupe with
  | none => s.jump 6 (s.cur.addr + BitVec.ofInt 64 (disp * 8))
  | some d =>
    let i : Int := (s.cur.addr.toNat / 8 : Nat) + disp
    if s.cur.follows then s
    else if i < 0 || (d.code.length / 2 : Nat) ≤ i then s.faultSelf cBADPC
    else s.modMe (fun t => { t with pc := BitVec.ofInt 64 (i * 8) })

/-! ## Accesses under way -/

/-- The thread's later accesses are held: one of its accesses is held, or it waits for a version (R232, R234, R247). -/
def Thread.accessBusy (t : Thread) : Bool :=
  t.held.isSome || t.outs.any (fun o => match o.wait with
    | .ldx _ _ _ _ => true
    | _ => false)
/-- Some access of the thread is still to be performed: what releases its earlier accesses, or is no plain access, waits (R230, R273). -/
def Thread.unsettled (t : Thread) : Bool := t.accessBusy || !t.deferred.isEmpty

/-! ## Traps -/

/-- The trap block's address (R127). -/
def State.trapBlock (s : State) : Nat := s.src.ktrap.toNat / 64 * 64 % 2 ^ 32
/-- Read a word of a vault. -/
def State.vaultWord (s : State) (a : Nat) : Word := BitVec.ofNat 64 (s.mem.nat a 8)
/-- Write a word of a vault as the executing thread's store. -/
def State.setVaultWord (s : State) (a : Nat) (v : Word) : State :=
  { s with mem := s.mem.setNat a 8 v.toNat, acks := s.acks ++ [(s.me.uid, a)] }
/-- Trap entry (R148): cause 1 SQFULL or 2 `trap`, its code, the return address. In a gang it is GANGOP (R146). -/
def State.trapEnter (s : State) (cause code : Nat) (ret : Word) : State :=
  let b := s.trapBlock
  if s.me.gang.isSome then s.faultSelf cGANGOP
  else if s.src.ktrap = 0 then s.faultSelf cNOTRAP
  else if s.me.unsettled then s.waits
  else if (s.vaultWord (b + 24)).toNat / 2 ^ 63 = 1 then s.faultSelf cTRAPNEST
  else
    let h := s.vaultWord (if cause = 1 then b else b + 8)
    let s := s.setVaultWord (b + 16) ret
    let s := s.setVaultWord (b + 24) (BitVec.ofNat 64 (2 ^ 63 + code * 2 ^ 32 + cause))
    s.jump 6 h
/-- SQFULL at a group whose message finds the outbox full (R286): the group does not execute. -/
def State.sqfull (s : State) (vn : Nat) : State :=
  let u := s.trapEnter 1 vn s.cur.addr
  { u with cur := { s.cur with stop := true } }
/-- Return from a trap (R149). -/
def State.trapReturn (s : State) : State :=
  let b := s.trapBlock
  let c := s.vaultWord (b + 24)
  if s.me.gang.isSome then s.faultSelf cGANGOP
  else if s.src.ktrap = 0 then s.faultSelf cTRAPNEST
  else if s.me.unsettled then s.waits
  else if c.toNat / 2 ^ 63 = 0 then s.faultSelf cTRAPNEST
  else
    let t := s.vaultWord (b + 16)
    if t.toNat % 8 ≠ 0 then s.fault cBADPC 6 t.toNat 0
    else (s.setVaultWord (b + 24) (BitVec.ofNat 64 (c.toNat % 2 ^ 63))).jump 6 t

/-! ## Memory accesses of a thread -/

/-- Bits 63:52 of an effective address (R221). -/
def badRange (a : Word) : Bool := decide (2 ^ 52 ≤ a.toNat)

/-- Destinations of an access and its lookahead. -/
def Access.dest (a : Access) : List Reg × Nat :=
  match a with
  | .load _ _ d l => (d, l)
  | .atomic _ _ _ _ d l => (d, l)
  | .ldx _ _ d l => (d, l)
  | .vqry _ d l => (d, l)
  | .ldv _ _ w v _ l _ => (regsFrom .v v w, l)
  | _ => ([], 0)
/-- The position register an advance form moves on (R166). -/
def Access.adv (a : Access) : Option Nat :=
  match a with
  | .ldv _ _ _ _ _ _ r => r
  | .stv _ _ _ _ _ _ r => r
  | _ => none
/-- A thread with the position register of an advance form moved on by `m` units (R166). -/
def Thread.advance (t : Thread) (a : Access) (m : Nat) : Thread :=
  match a with
  | .ldv _ p _ _ _ _ (some r) => t.setReg r (BitVec.ofNat 64 (p + m))
  | .stv _ p _ _ _ _ (some r) => t.setReg r (BitVec.ofNat 64 (p + m))
  | _ => t
/-- Add an outstanding result whose registers are core registers already. -/
def Thread.addOutAbs (t : Thread) (rs : List Reg) (look : Nat) (w : OutWait) (v : OutVal) (lathe : Bool) : Thread :=
  { t with outs := t.outs ++ [{ id := t.nextOut, regs := rs, look := look, wait := w, val := v, lathe := lathe }],
           nextOut := t.nextOut + 1 }
/-- Add an outstanding result; nothing is kept for `g0` alone (R102). -/
def Thread.outAbs (t : Thread) (rs : List Reg) (look : Nat) (w : OutWait) (v : OutVal) (lathe : Bool) : Thread :=
  if rs.all (fun r => r == .g 0) then t else t.addOutAbs rs look w v lathe
/-- Hold an access behind the executing group: its destinations, the position register of an advance form among them, wait for the
reply (R166, R247). -/
def State.hold (s : State) (a : Access) : State :=
  s.modMe (fun t =>
    -- a versioned load may still have to wait for its version, with no register to write (R232)
    let t := match a with
      | .ldx _ _ d l => t.addOutAbs d l .held (.words []) s.cur.lathe.isSome
      | _ => t.outAbs a.dest.1 a.dest.2 .held (.words []) s.cur.lathe.isSome
    let t := match a.adv with
      | some r => t.outAbs [.g r] 0 .held (.words []) false
      | none => t
    { t with held := some a, heldPc := s.cur.addr.toNat, retried := false })

/-! ## Relaxed accesses performed late (R271) -/

/-- The accesses of an instruction of the thread are left to be performed later (R271): its destinations wait for them. -/
def Thread.defer (t : Thread) (a : Access) (pc : Nat) (p : Plan) (rel : Bool) : Thread :=
  let d : Deferred := { acc := a, out := t.nextOut, pc := pc, parts := p.parts, rd := p.rd, wr := p.wr, rel := rel }
  let rs := a.dest.1
  let t := if rs.all (fun r => r == .g 0) then t else t.addOutAbs rs a.dest.2 .access (.words []) false
  { t with deferred := t.deferred ++ [d] }

/-- The results of a performed access are newly outstanding; nothing is kept for `g0` alone (R102). -/
def State.outMe (s : State) (a : Access) (v : OutVal) : State :=
  if a.dest.1.all (fun r => r == .g 0) then s else s.modMe (fun t => t.addOutAbs a.dest.1 a.dest.2 .ready v false)
/-- The position register of a performed advance form moves on (R166). -/
def State.advanceMe (s : State) (a : Access) (m : Nat) : State :=
  match a.adv with
  | some _ => s.modMe (fun t => t.advance a m)
  | none => s
/-- An access of the executing thread waits: one of the thread's accesses is held, or an earlier one that it must follow is not
performed (R270, R271); its shape record is read at issue, and what makes all its accesses at issue waits for every earlier one unless
its accesses are known (assumption 3). -/
def State.accessWaits (s : State) (a : Access) (late : Bool) : Bool :=
  let l := s.me.deferred
  s.me.accessBusy || s.mustFollow s.who l true false a.record ||
  (match s.plan s.who a with
   | none => !l.isEmpty
   | some p => !late && s.mustFollow s.who l p.rd p.wr p.parts)
/-- The schedule leaves the accesses of an instruction to be performed later (R271): they are plain ones, and none of them would fault
or be held now. -/
def State.mayDefer (s : State) (a : Access) (relaxed : Bool) : Bool :=
  s.defers && relaxed && (match s.plan s.who a with
    | some p => p.parts != [] && p.parts.all (fun q => (s.rangesOf s.who (needOf p.rd p.wr) q).isSome)
    | none => false)
/-- A store of the executing thread that the schedule makes late is hidden from the other threads where it may be (R272). -/
def State.hideMine (s u : State) (a : Access) (rel : Bool) : State :=
  match s.defers, a with
  | true, .store _ _ _ | true, .stv _ _ _ _ _ _ _ =>
    match s.plan s.who a with
    | some p => p.parts.foldl (fun v q => s.hideFrom v s.who rel q) u
    | none => u
  | _, _ => u
/-- Make an access of the executing thread (R229, R247): performed now, or held when it faults, stalls or its frame is held;
its group stands. It waits while an earlier access must come first; `relaxed`, it may itself be left to be performed later when the
schedule says so (R271). -/
def State.access (s : State) (a : Access) (relaxed : Bool := false) (rel : Bool := false) : State :=
  let late := s.mayDefer a relaxed
  if s.accessWaits a late then s.waits
  else if late then
    match s.plan s.who a with
    | some p => (s.modMe (fun t => t.defer a s.cur.addr.toNat p rel)).advanceMe a p.units
    | none => s
  else
    let (u, r) := s.tryAccess s.who a
    match r with
    | .words ws => (s.hideMine u a rel).outMe a (.words ws)
    | .vecs vs m => (u.outMe a (.vecs vs)).advanceMe a m
    | .stored m => (s.hideMine u a rel).advanceMe a m
    | .bytes _ => u
    | .waits => match a with
      | .ldx ea v d l => u.modMe (fun t =>
          { t.addOutAbs d l (.ldx ea v s.cycle s.here.kvwait.toNat) (.words []) false with heldPc := s.cur.addr.toNat, retried := false })
      | _ => u
    | .stalls p => { u.hold a with stalls := u.stalls ++ [(p, s.me.uid, s.cycle)] }
    | .shapeRec ra p => u.late s.cur.core s.cur.slot s.me.uid a.seq cSHAPEREC 5 ra p 0 6 s.me.launch
    | .fault _ _ => u.hold a
    | .held => u.hold a
/-- Make a store of the executing thread: a release comes after every earlier access, and shows what it releases; the first store after
`fence rel` or `fence full` is one (R230, R273). -/
def State.accessStore (s : State) (a : Access) (rel : Bool) : State :=
  let u := (if rel then s.released s.me.uid else s).access a (!rel) (rel || s.me.fenced)
  if u.cur.stop || !u.me.fenced then u else u.modMe (fun t => { t with fenced := false })
/-- A table instruction's read of its operand from memory (R326, R334): the bytes, or the state in which the group waits for
the reply to the fault it meets. -/
def State.image (s : State) (ea n : Nat) : State × Option (List Byte) :=
  if s.me.unsettled then (s.waits, none)
  else
    match s.readRun s.who ea n 64 (n / 64 + 1) with
    | (u, .ok l) => (u, some l)
    | (u, .error e) =>
      let bad := match e with
        | .fault _ a => a
        | _ => ea
      let u := u.modMe (fun t => { t with held := some (.again bad), heldPc := s.cur.addr.toNat, retried := false,
                                          pc := s.cur.addr })
      ({ u with cur := { s.cur with stop := true } }, none)

/-! ## Sending -/

/-- The outbox of the executing thread is full (R286). -/
def State.outFull (s : State) : Bool := decide (16 ≤ s.here.outUsed s.me.uid)
/-- Count a send and give its number (R288). -/
def State.nextMid (s : State) : State × Nat :=
  let m := (s.me.sendCtr + 1) % 4096
  (s.modMe (fun t => { t with sendCtr := m }), m)
/-- Put a message of the executing thread into its outbox; the header's sender fields are filled in (R283, R286). -/
def State.post (s : State) (m : Msg) (ready routing : Bool) : State :=
  let m := { m with uid := s.nextUid, sdev := s.rank, src := s.cur.core, sslot := s.cur.slot, suid := s.me.uid,
                    step := s.src.kstep.toNat % 2 ^ 32 }
  { s.modHere (fun x => { x with outbox := x.outbox ++ [{ msg := m, ready := ready, routing := routing }] }) with
    nextUid := s.nextUid + 1 }

/-- A target word (R284): core, slot, rank; a rank not its own marks another device. -/
structure Target where
  core : Nat
  slot : Nat
  dev : Nat
deriving DecidableEq, Repr
/-- The fields of a target word. -/
def State.target (s : State) (w : Word) : Target :=
  let n := w.toNat
  ⟨n % 4096, n / 2 ^ 12 % 16, if n / 2 ^ 16 % 2 == 1 then n / 2 ^ 17 % 2 ^ 13 else s.rank⟩
/-- The target exists (R284) and is reached (R367). -/
def State.destOk (s : State) (t : Target) : Bool :=
  coreExists t.core && (decide (t.slot < 8) || t.slot == 15) && s.rankExists t.dev && s.reachable t.dev

end Sys2Proof.Machine
end

