-- ==== Sys2Proof/Machine/Alu.lean ====
section
/-! DEFINITION. Integer and address arithmetic (R134 to R138) and `nop` (R109). -/

namespace Sys2Proof.Machine

/-- 1 when a condition holds, else 0. -/
def boolWord (c : Bool) : Word := if c then 1 else 0
/-- Leading zero bits, 64 for 0 (R134). -/
def clzWord (a : Word) : Nat := if a = 0 then 64 else 63 - Nat.log2 a.toNat
/-- Set bits of the low `n` bits (R134). -/
def popcNat (a n : Nat) : Nat :=
  match n with
  | 0 => 0
  | n + 1 => a % 2 + popcNat (a / 2) n
/-- Bit extract over the low `n` bits of the mask (R134): bits of `a` where `b` has a 1, packed from bit 0. -/
def bextNat (a b n : Nat) : Nat :=
  match n with
  | 0 => 0
  | n + 1 => if b % 2 = 1 then a % 2 + 2 * bextNat (a / 2) (b / 2) n else bextNat (a / 2) (b / 2) n
/-- Bit deposit over the low `n` bits of the mask (R134): successive bits of `a` placed where `b` has a 1. -/
def bdepNat (a b n : Nat) : Nat :=
  match n with
  | 0 => 0
  | n + 1 => if b % 2 = 1 then a % 2 + 2 * bdepNat (a / 2) (b / 2) n else 2 * bdepNat a (b / 2) n
/-- The saturating forms (R134): operands read at width w, the exact result clamped, extended under the suffix. -/
def satResult (lw : Fin 4) (sg sub : Bool) (a b : Word) : Word × Flags :=
  let w := 8 * 2 ^ lw.val
  let x := readInt w (!sg) (a.toNat % 2 ^ w)
  let y := readInt w (!sg) (b.toNat % 2 ^ w)
  let t := if sub then x - y else x + y
  let r := clampInt w (!sg) t
  (BitVec.ofInt 64 r, flagIf (r != t) fSat)
/-- Signed quotient rounded toward zero, its remainder, and their corners (R138). -/
def divWord (a b : Word) : Word :=
  if b = 0 then BitVec.allOnes 64 else BitVec.ofInt 64 (a.toInt.tdiv b.toInt)
/-- Signed remainder with the sign of a (R138). -/
def remWord (a b : Word) : Word := if b = 0 then a else BitVec.ofInt 64 (a.toInt.tmod b.toInt)
/-- Unsigned quotient (R138). -/
def divuWord (a b : Word) : Word := if b = 0 then BitVec.allOnes 64 else BitVec.ofNat 64 (a.toNat / b.toNat)
/-- Unsigned remainder (R138). -/
def remuWord (a b : Word) : Word := if b = 0 then a else BitVec.ofNat 64 (a.toNat % b.toNat)

/-- `nop` in the C slot changes nothing (R109, R141). -/
def execNopC (s : State) : Res := .next (s)
/-- `nop` in the A slot changes nothing (R109, R141). -/
def execNopA (s : State) : Res := .next (s)
/-- `add` (R134). -/
def execAdd (d a b : R) (s : State) : Res := .next (s.wr d.val (s.rd a.val + s.rd b.val))
/-- `sub` (R134). -/
def execSub (d a b : R) (s : State) : Res := .next (s.wr d.val (s.rd a.val - s.rd b.val))
/-- `and` (R134). -/
def execAnd (d a b : R) (s : State) : Res := .next (s.wr d.val (s.rd a.val &&& s.rd b.val))
/-- `or` (R134). -/
def execOr (d a b : R) (s : State) : Res := .next (s.wr d.val (s.rd a.val ||| s.rd b.val))
/-- `xor` (R134). -/
def execXor (d a b : R) (s : State) : Res := .next (s.wr d.val (s.rd a.val ^^^ s.rd b.val))
/-- `shl` by b[5:0] (R134). -/
def execShl (d a b : R) (s : State) : Res := .next (s.wr d.val (s.rd a.val <<< (s.rdN b.val % 64)))
/-- `shr` by b[5:0] (R134). -/
def execShr (d a b : R) (s : State) : Res := .next (s.wr d.val (s.rd a.val >>> (s.rdN b.val % 64)))
/-- `sra` by b[5:0] (R134). -/
def execSra (d a b : R) (s : State) : Res := .next (s.wr d.val ((s.rd a.val).sshiftRight (s.rdN b.val % 64)))
/-- `shli` (R134). -/
def execShli (d a : R) (sh : Fin 64) (s : State) : Res := .next (s.wr d.val (s.rd a.val <<< sh.val))
/-- `shri` (R134). -/
def execShri (d a : R) (sh : Fin 64) (s : State) : Res := .next (s.wr d.val (s.rd a.val >>> sh.val))
/-- `srai` (R134). -/
def execSrai (d a : R) (sh : Fin 64) (s : State) : Res := .next (s.wr d.val ((s.rd a.val).sshiftRight sh.val))
/-- `slt`, signed (R134). -/
def execSlt (d a b : R) (s : State) : Res := .next (s.wr d.val (boolWord ((s.rd a.val).slt (s.rd b.val))))
/-- `sltu`, unsigned (R134). -/
def execSltu (d a b : R) (s : State) : Res := .next (s.wr d.val (boolWord ((s.rd a.val).ult (s.rd b.val))))
/-- `seq` (R134). -/
def execSeq (d a b : R) (s : State) : Res := .next (s.wr d.val (boolWord (s.rd a.val == s.rd b.val)))
/-- `min` (R134). -/
def execMin (d a b : R) (s : State) : Res := .next (s.wr d.val (if (s.rd a.val).slt (s.rd b.val) then s.rd a.val else s.rd b.val))
/-- `minu` (R134). -/
def execMinu (d a b : R) (s : State) : Res := .next (s.wr d.val (if (s.rd a.val).ult (s.rd b.val) then s.rd a.val else s.rd b.val))
/-- `max` (R134). -/
def execMax (d a b : R) (s : State) : Res := .next (s.wr d.val (if (s.rd b.val).slt (s.rd a.val) then s.rd a.val else s.rd b.val))
/-- `maxu` (R134). -/
def execMaxu (d a b : R) (s : State) : Res := .next (s.wr d.val (if (s.rd b.val).ult (s.rd a.val) then s.rd a.val else s.rd b.val))
/-- `mul`, the low 64 bits (R134). -/
def execMul (d a b : R) (s : State) : Res := .next (s.wr d.val (s.rd a.val * s.rd b.val))
/-- `mulh`, bits 127:64 of the signed product (R134). -/
def execMulh (d a b : R) (s : State) : Res := .next (s.wr d.val (BitVec.ofInt 64 ((s.rd a.val).toInt * (s.rd b.val).toInt / 2 ^ 64)))
/-- `mulhu`, bits 127:64 of the unsigned product (R134). -/
def execMulhu (d a b : R) (s : State) : Res := .next (s.wr d.val (BitVec.ofNat 64 (s.rdN a.val * s.rdN b.val / 2 ^ 64)))
/-- `clz` (R134). -/
def execClz (d a : R) (s : State) : Res := .next (s.wrN d.val (clzWord (s.rd a.val)))
/-- `popc` (R134). -/
def execPopc (d a : R) (s : State) : Res := .next (s.wrN d.val (popcNat (s.rdN a.val) 64))
/-- `bext` (R134). -/
def execBext (d a b : R) (s : State) : Res := .next (s.wrN d.val (bextNat (s.rdN a.val) (s.rdN b.val) 64))
/-- `bdep` (R134). -/
def execBdep (d a b : R) (s : State) : Res := .next (s.wrN d.val (bdepNat (s.rdN a.val) (s.rdN b.val) 64))
/-- `sel` by the old d (R134, R135). -/
def execSel (d a b : R) (s : State) : Res := .next (s.wr d.val (if s.rd d.val ≠ 0 then s.rd a.val else s.rd b.val))
/-- `lea` (R134). -/
def execLea (k : Fin 4) (d a b : R) (s : State) : Res := .next (s.wrN d.val ((s.rdN a.val + s.rdN b.val * 2 ^ k.val) % 2 ^ 52))
/-- `addsat`: the clamped result; `kflags.sat` when clamping changed it (R134). -/
def execAddsat (lw : Fin 4) (sg : Bool) (d a b : R) (s : State) : Res :=
  let r := satResult lw sg false (s.rd a.val) (s.rd b.val)
  .next ((s.raise r.2).wr d.val r.1)
/-- `subsat`: the clamped result; `kflags.sat` when clamping changed it (R134). -/
def execSubsat (lw : Fin 4) (sg : Bool) (d a b : R) (s : State) : Res :=
  let r := satResult lw sg true (s.rd a.val) (s.rd b.val)
  .next ((s.raise r.2).wr d.val r.1)
/-- `addi` (R136). -/
def execAddi (d a : R) (imm : BitVec 13) (s : State) : Res := .next (s.wr d.val (s.rd a.val + imm.signExtend 64))
/-- `andi` (R136). -/
def execAndi (d a : R) (imm : BitVec 13) (s : State) : Res := .next (s.wr d.val (s.rd a.val &&& imm.signExtend 64))
/-- `ori` (R136). -/
def execOri (d a : R) (imm : BitVec 13) (s : State) : Res := .next (s.wr d.val (s.rd a.val ||| imm.signExtend 64))
/-- `xori` (R136). -/
def execXori (d a : R) (imm : BitVec 13) (s : State) : Res := .next (s.wr d.val (s.rd a.val ^^^ imm.signExtend 64))
/-- `slti` (R136). -/
def execSlti (d a : R) (imm : BitVec 13) (s : State) : Res := .next (s.wr d.val (boolWord ((s.rd a.val).slt (imm.signExtend 64))))
/-- `movi` (R137). -/
def execMovi (d : R) (imm : BitVec 32) (s : State) : Res := .next (s.wr d.val (imm.signExtend 64))
/-- `movhi`: bits 31:0 unchanged (R137). -/
def execMovhi (d : R) (imm : BitVec 32) (s : State) : Res := .next (s.wrN d.val (imm.toNat * 2 ^ 32 + s.rdN d.val % 2 ^ 32))
/-- `addl` (R137). -/
def execAddl (d a : R) (imm : BitVec 32) (s : State) : Res := .next (s.wr d.val (s.rd a.val + imm.signExtend 64))
/-- `andl` (R137). -/
def execAndl (d a : R) (imm : BitVec 32) (s : State) : Res := .next (s.wr d.val (s.rd a.val &&& imm.signExtend 64))
/-- `orl` (R137). -/
def execOrl (d a : R) (imm : BitVec 32) (s : State) : Res := .next (s.wr d.val (s.rd a.val ||| imm.signExtend 64))
/-- `xorl` (R137). -/
def execXorl (d a : R) (imm : BitVec 32) (s : State) : Res := .next (s.wr d.val (s.rd a.val ^^^ imm.signExtend 64))
/-- `div`, long-latency (R102, R138). -/
def execDiv (d a b : R) (look : Look) (s : State) : Res := .next (s.longG d.val look.val (divWord (s.rd a.val) (s.rd b.val)))
/-- `divu`, long-latency (R102, R138). -/
def execDivu (d a b : R) (look : Look) (s : State) : Res := .next (s.longG d.val look.val (divuWord (s.rd a.val) (s.rd b.val)))
/-- `rem`, long-latency (R102, R138). -/
def execRem (d a b : R) (look : Look) (s : State) : Res := .next (s.longG d.val look.val (remWord (s.rd a.val) (s.rd b.val)))
/-- `remu`, long-latency (R102, R138). -/
def execRemu (d a b : R) (look : Look) (s : State) : Res := .next (s.longG d.val look.val (remuWord (s.rd a.val) (s.rd b.val)))

end Sys2Proof.Machine
end

