-- ==== Sys2Proof/Machine/Branch.lean ====
section
/-! DEFINITION. Control flow (R32, R92, R139, R297). The A-slot partner of a control transfer executes whether or not it is
taken (R99): the step runs it first. -/

namespace Sys2Proof.Machine

/-- In a Drupe the forms of R297 are not performed. -/
def State.drupeop (s : State) : State := s.faultSelf cDRUPEOP

/-- `br` (R139). -/
def execBr (disp : BitVec 19) (s : State) : Res := .next (s.branch disp.toInt)
/-- `bz` (R139). -/
def execBz (a : R) (disp : BitVec 19) (s : State) : Res := .next (if s.rd a.val = 0 then s.branch disp.toInt else s)
/-- `bnz` (R139). -/
def execBnz (a : R) (disp : BitVec 19) (s : State) : Res := .next (if s.rd a.val ≠ 0 then s.branch disp.toInt else s)
/-- `brdec`: the register counts down; the branch is taken while it is not 0 (R139). -/
def execBrdec (a : R) (disp : BitVec 19) (s : State) : Res :=
  let v := s.rd a.val - 1
  .next (if v ≠ 0 then s.thenGo (s.wr a.val v) (fun u => u.branch disp.toInt) else s.wr a.val v)
/-- `call` with disp19 (R139); DRUPEOP in a Drupe (R297). -/
def execCall (disp : BitVec 19) (s : State) : Res :=
  .next (if s.me.drupe.isSome then s.drupeop else s.thenGo (s.wr 14 s.nextPc) (fun u => u.branch disp.toInt))
/-- `jr`: the target is read before the link is written (R139); DRUPEOP in a Drupe (R297). -/
def execJr (d a : R) (s : State) : Res :=
  .next (if s.me.drupe.isSome then s.drupeop else s.thenGo (s.wr d.val s.nextPc) (fun u => u.jump 1 (s.rd a.val)))
/-- `ret` (R139); DRUPEOP in a Drupe (R297). -/
def execRet (s : State) : Res := .next (if s.me.drupe.isSome then s.drupeop else s.jump 6 (s.rd 14))
/-- `jmp` with disp32 in groups (R97, R139). In a Drupe it is an absolute group number: the Drupe's slots free and the thread
goes on as an ordinary thread (R297). -/
def execJmp (disp : BitVec 32) (s : State) : Res :=
  .next (match s.me.drupe with
  | none => s.branch disp.toInt
  | some d =>
    if disp = 0 then s.retire else
    let s := s.modMe (fun t => { t with drupe := none })
    let s := s.modHere (fun x => { x with inbox := x.inbox.filter (fun e => e.msg.uid != d.uid) })
    s.jump 6 (BitVec.ofInt 64 (disp.toInt * 8)))
/-- `call` with disp32 (R139); DRUPEOP in a Drupe (R297). -/
def execCallLong (disp : BitVec 32) (s : State) : Res :=
  .next (if s.me.drupe.isSome then s.drupeop else s.thenGo (s.wr 14 s.nextPc) (fun u => u.branch disp.toInt))

end Sys2Proof.Machine
end

