-- ==== Sys2Proof/Machine/Context.lean ====
section
/-! DEFINITION. Contexts that leave a slot and come back (R48, R151, R356, R357): what is saved, when it can be, and what
unmarked registers hold at resume. -/

namespace Sys2Proof.Machine

/-- Land every result of a thread that has arrived, closing its windows (R103); true when none is left. -/
def Core.landReady (x : Core) (t : Nat) (os : List Out) : Core :=
  match os with
  | [] => x
  | o :: rest => (if o.wait == .ready then x.landRegs t o.regs o.val else x).landReady t rest
/-- Rename the envelopes of a context whose results are there. -/
def Core.landEnvsOf (x : Core) (l : List EnvPend) (uid : Nat) : Core :=
  match l with
  | [] => x
  | p :: rest =>
    (match p.res with
     | some e => if p.uid == uid then
         { x with env := fset x.env p.d e, envPend := x.envPend.filter (fun q => q.seq != p.seq) } else x
     | none => x).landEnvsOf rest uid
/-- A result of the thread is still to come, in a register or an envelope (R102, R210). -/
def State.writesDue (s : State) (c t : Nat) : Bool :=
  !(s.thr c t).outs.isEmpty || (s.core c).envPend.any (fun e => e.uid == (s.thr c t).uid)
/-- A result of the thread is still to come, or an access of it is not performed (R279). -/
def State.pendingOf (s : State) (c t : Nat) : Bool := s.writesDue c t || !s.accessesDone (s.thr c t)
/-- Land the results of a slot's thread that have arrived, among those a test names (R102, R103). -/
def State.landOuts (s : State) (c t : Nat) (p : Out → Bool) : State :=
  let os := (s.thr c t).outs
  let x := (s.core c).landReady t (os.filter p)
  s.setCore c (x.setThr t { x.thr t with outs := os.filter (fun o => !(p o && o.wait == .ready)) })
/-- Close the windows of a slot's thread (R103): arrived results are written. -/
def State.closeWindows (s : State) (c t : Nat) : State :=
  let s := s.landOuts c t (fun _ => true)
  s.setCore c ((s.core c).landEnvsOf (s.core c).envPend (s.thr c t).uid)

/-- A switch of a slot's thread is requested: by the management window, a launch halt, or a `migr` of its own (R357). -/
def State.switchDue (s : State) (c t : Nat) : Bool :=
  fget false s.mwSw (8 * c + t) || (s.thr c t).migReq.isSome ||
  (match (s.thr c t).launch with
   | some l => match (s.fifo l.1).running with
     | some r => r.sq == l.2 && r.halting.isSome
     | none => false
   | none => false)
/-- The halt area that takes a thread's context when its launch is being halted (R360). -/
def State.haltingOf (s : State) (l : Option (Nat × Nat)) : Bool :=
  match l with
  | some l => match (s.fifo l.1).running with
    | some r => r.sq == l.2 && r.halting.isSome
    | none => false
  | none => false
/-- The launch has been contained and starts no further thread (R359). -/
def State.containedOf (s : State) (l : Option (Nat × Nat)) : Bool :=
  match l with
  | some l => match (s.fifo l.1).running with
    | some r => r.sq == l.2 && r.contained
    | none => false
  | none => false
/-- A context can be saved: its slot's record in its core's overflow store is free, or it goes to the halt area (R357, R390). -/
def State.savable (s : State) (c t : Nat) : Bool :=
  (s.ovfBytes c != 0 && !(s.core c).absent.any (fun a => a.slot == t)) || s.haltingOf (s.thr c t).launch
/-- The window registers of a slot's thread. -/
def State.windowRegs (s : State) (c : Nat) (kv : Word) : List VReg :=
  (List.range (winCnt kv)).map (fun j => (s.core c).v[(winBase kv + j) % 32]'(Nat.mod_lt _ (by decide)))
/-- What of a thread survives a switch, a migration or a launch halt (R19, R356): its gradient credits are full again and it holds no
ring slot (assumption 37). -/
def Thread.carried (t : Thread) : Thread :=
  { t with outs := [], blk := .none, held := none, timer := none, rtimer := none, timedOut := false, promoted := false, age := 0,
           retried := false, rowCopy := none, deferred := [], part := none, after := .none, migReq := none, credits := [],
           acquired := [], consumed := [] }
/-- Save a slot's context and free the slot (R151, R357): `pc` is where it goes on; the masks say what is live. The safe-point count
restarts (R151). -/
def State.saveContext (s : State) (c t : Nat) (pc : Word) (gl : BitVec 16) (pl : BitVec 8) (vl : BitVec 32)
    (target : Option (Nat × Nat)) : State :=
  let th := s.thr c t
  let a : Absent := { thr := { th.carried with pc := pc, safeCount := 0 }, slot := t, glive := gl, plive := pl, vlive := vl, win := s.windowRegs c th.kvwin, target := target }
  let s := s.endThread c t
  s.setCore c { s.core c with absent := (s.core c).absent ++ [a] }

/-! ## A context in bytes (R356, R357) -/

/-- The core of a context, in a slot or saved: absent from its core or in a halt area. -/
def State.coreOf (s : State) (uid : Nat) : Option Nat :=
  match s.findUid uid with
  | some (c, _) => some c
  | none =>
    (s.cores.flatMap (fun x => x.2.absent.map (fun a => (x.1, a))) ++ s.halts.flatMap (fun h => h.contexts)).findSome?
      (fun p => if p.2.thr.uid == uid then some p.1 else none)
/-- The core of the leader of a thread's gang (R356). -/
def State.leadCore (s : State) (t : Thread) : Nat :=
  match t.gang with
  | some g => (s.coreOf g.lead).getD 0
  | none => 0
/-- The 192 bytes in which a context travels and with which its record begins (R356): `lead` is the core of its gang's leader, `oc` and
`os` the core and slot it leaves. -/
def Thread.contextBytes (t : Thread) (lead oc os : Nat) : List Byte :=
  let f := fun (w : Word) (n k : Nat) => w.toNat % 2 ^ n * 2 ^ k
  (List.range 15).flatMap (fun i => leBytes 8 (t.reg (i + 1)).toNat) ++ leBytes 8 t.pc.toNat ++
  leBytes 8 (f t.kfmtA 4 0 + f t.kfmtB 4 4 + f t.kfmtC 4 8 + f t.kround 3 12 + f t.krole 2 16 + f t.kmig 4 20 + f t.kstage 4 24 +
    f t.kenv 1 28 + f t.kflags 6 32 + t.pend.toNat * 2 ^ 40 + t.safeCount % 2 ^ 16 * 2 ^ 48) ++
  leBytes 8 t.ksclA.toNat ++ leBytes 8 t.ksclB.toNat ++ leBytes 8 t.kseq.toNat ++
  leBytes 8 (f t.kstep 32 0 + f t.ktol 32 32) ++ leBytes 8 (f t.ktrap 32 0 + f t.kvwin 14 32) ++
  leBytes 8 (launchWord t.launch + t.sendCtr % 2 ^ 12 * 2 ^ 32 + (match t.gang with
    | some g => lead % 2 ^ 12 * 2 ^ 48 + Nat.log2 g.n * 2 ^ 60
    | none => 0)) ++
  leBytes 8 (oc % 2 ^ 12 + os % 8 * 2 ^ 12)
/-- The record of a saved context (R357), of the core it left: registers, predicates and window registers that are not live are zero. -/
def Absent.record (a : Absent) (lead c : Nat) : List Byte :=
  let t := { a.thr with g := Vector.ofFn (fun i => if a.glive.getLsbD i.val then a.thr.g[i] else 0) }
  t.contextBytes lead c a.slot ++
  (List.range 8).flatMap (fun i => leBytes 16 (if a.plive.getLsbD i then (a.thr.p.toList.getD i 0).toNat else 0)) ++
  leBytes 8 (a.glive.toNat / 2 * 2 ^ 10 + a.plive.toNat * 2 ^ 2 + a.vlive.toNat * 2 ^ 32) ++ List.replicate 56 0 ++
  (List.range 32).flatMap (fun j => leBytes 128 (if a.vlive.getLsbD j then (a.win.getD j 0).toNat else 0))
/-- The context record of a slot in a core's overflow store (R357, R390). -/
def State.contextRecord (s : State) (c t : Nat) : Option (List Byte) :=
  ((s.core c).absent.find? (fun a => a.slot == t)).map (fun a => a.record (s.leadCore a.thr) c)

/-- Scalar registers at resume: those not marked live hold free values (R48). -/
def resumeG (n : Nat) (g : Vector Word 16) (live : BitVec 16) : Vector Word 16 :=
  Vector.ofFn (fun i => if i.val == 0 then 0 else if live.getLsbD i.val then g[i] else Config.freeWord (n + i.val))
/-- Predicates at resume (R48). -/
def resumeP (n : Nat) (p : Vector Pred 8) (live : BitVec 8) : Vector Pred 8 :=
  Vector.ofFn (fun i => if live.getLsbD i.val then p[i] else Config.freePred (n + 16 + i.val))
/-- Window registers at resume (R48). -/
def resumeV (n j : Nat) (w : List VReg) (live : BitVec 32) : List VReg :=
  match w with
  | [] => []
  | v :: rest => (if live.getLsbD j then v else Config.freeVReg (n + 24 + j)) :: resumeV n (j + 1) rest live
/-- No other thread of a core has a window that overlaps (R20). -/
def Core.windowFits (x : Core) (kv : Word) (me : Option Nat) : Bool :=
  let b := winBase kv
  let n := winCnt kv
  x.threads.all (fun t => !t.2.live || some t.1 == me || n == 0 || winCnt t.2.kvwin == 0 ||
    decide (b + n ≤ winBase t.2.kvwin) || decide (winBase t.2.kvwin + winCnt t.2.kvwin ≤ b))

end Sys2Proof.Machine
end

