-- ==== Sys2Proof/Machine/LoadStore.lean ====
section
/-! DEFINITION. Loads, stores, versioned forms, atomics, vector loads and stores, fences and prefetches (R166, R228 to R246).
A plain access is performed at its issue, or later when the schedule says so (R271, assumption 3); acquire, release and versioned forms
are performed at their issue. -/

namespace Sys2Proof.Machine

/-! ## Automatic migration (R21, R128) -/

/-- The cluster that owns the memory of an address for migration: the vault's, or the attachment cluster of the stack that
holds the line; none for an address that maps to nothing or to other memory. What the page allows does not count (R21, R147). -/
def State.ownerCluster (s : State) (c h ea : Nat) : Option Nat :=
  if ea < 2 ^ 32 then some (ea / 2 ^ 25)
  else
    match s.resolve c h ea with
    | some p => (hbmFrame p.2).map (fun f => hubCluster f.1)
    | none => none
/-- The walk for an address is held (R368). -/
def State.walkHeld (s : State) (c h ea : Nat) : Bool :=
  decide (2 ^ 32 ≤ ea) && (match (s.lookup c h ea false).2 with
    | .error n => n == 0
    | .ok _ => false)
/-- A thread is migratory: no window, no predicate set (R21); not in a Drupe (R296). -/
def Thread.migratory (t : Thread) : Bool := winCnt t.kvwin == 0 && t.p.toList.all (fun p => p == 0) && t.drupe.isNone
/-- The core of lowest number in a cluster with a free slot (R21). -/
def State.roomIn (s : State) (k : Nat) : Option Nat :=
  (clusterCores k).find? (fun c => (s.freeSlot c).isSome)
/-- A thread may leave its core now: its writes have landed, its Lathe has completed, its outbox is empty (R356). -/
def State.mayLeave (s : State) (c t : Nat) : Bool :=
  (s.thr c t).outs.isEmpty && !(s.core c).envPend.any (fun e => e.uid == (s.thr c t).uid) && s.mayHalt c t
/-- The flits a context travels in (R356). -/
def contextFlits (t : Thread) (c k : Nat) : List (BitVec 512) :=
  let b := t.contextBytes 0 c k
  (List.range 3).map (fun i => lineOf ((b.drop (64 * i)).take 64))
/-- Send the executing thread's context to another core (R356): it goes on at `pc` there; `d` receives the core's number. The
slot keeps its place until the acknowledgement. -/
def State.leaveTo (s : State) (target : Nat) (pc : Word) (d : Nat) : State :=
  let t := { s.me.carried with pc := pc, gang := none }
  let s := s.sysMsg 6 s.cur.core target 2 (.context t s.cur.core s.cur.slot d) (contextFlits t s.cur.core s.cur.slot)
  s.modMe (fun t => { t with blk := .leaving })
/-- The core to which a load's thread migrates by itself (R21, R27, R128, R331). -/
def State.autoTarget (s : State) (ea : Nat) : Option Nat :=
  let t := s.me
  let k := s.src.kmig.toNat
  if k % 2 == 1 && t.migratory && t.gang.isNone && decide (s.here.fwd.length < 16) then
    match s.ownerCluster s.cur.core t.cont ea with
    | none => none
    | some cl =>
      -- every vault access of an optimiser core is a cross-die access (R12)
      let far := if isOpt s.cur.core && decide (ea < 2 ^ 32) then 7 else migDistance s.cur.core cl
      if k / 2 % 8 < far then s.roomIn cl else none
  else none

/-- A load whose thread migrates by itself is issued again on the new core (R21, R356): pending writes land first. -/
def State.orMigrate (s : State) (ea : Nat) (go : State) : State :=
  match s.autoTarget ea with
  | some c =>
    let u := s.closeWindows s.cur.core s.cur.slot
    if u.mayLeave s.cur.core s.cur.slot then
      let u := u.leaveTo c s.cur.addr 0
      { u with cur := { u.cur with stop := true } }
    else u.waits
  | none => go

/-! ## Loads and stores -/

/-- Destination registers of a G6 operand, `g0` included. -/
def gDest (o : GOp) : List Reg := regsFrom .g o.n.val o.w.val
/-- A load (R229): range, alignment, then automatic migration with the load issued again on the new core, then the access; `relaxed`,
it may be performed later (R271). -/
def State.doLoad (s : State) (t : GOp) (ea : Word) (sz look : Nat) (relaxed : Bool) : State :=
  if badRange ea then s.fault cADDRRNG 1 ea.toNat 0
  else if ea.toNat % szBytes sz ≠ 0 then s.fault cALIGN 1 ea.toNat 0
  else s.orMigrate ea.toNat (s.access (.load ea.toNat sz (gDest t) look) relaxed)
/-- A store (R229): the data registers are read at issue; one that releases waits for every earlier access (R230). -/
def State.doStore (s : State) (t : GOp) (ea : Word) (sz : Nat) (rel : Bool) : State :=
  if badRange ea then s.fault cADDRRNG 1 ea.toNat 0
  else if ea.toNat % szBytes sz ≠ 0 then s.fault cALIGN 1 ea.toNat 0
  else if rel && s.me.unsettled then s.waits
  else s.accessStore (.store ea.toNat sz (s.rdG t)) rel
/-- The effective address of the short form: off6 in units of the access (R97). -/
def State.eaShort (s : State) (base : R) (sz : Fin 8) (off : Fin 64) : Word :=
  s.rd base.val + BitVec.ofNat 64 (off.val * szBytes sz.val)
/-- The effective address of the long form (R97). -/
def State.eaLong (s : State) (base : R) (off : BitVec 32) : Word := s.rd base.val + off.signExtend 64

/-- `ld` (R229). -/
def execLd (t : GOp) (base : R) (look : Look) (sz : Fin 8) (off : Fin 64) (s : State) : Res :=
  .next (s.doLoad t (s.eaShort base sz off) sz.val look.val true)
/-- `ld.acq` (R230). -/
def execLdAcq (t : GOp) (base : R) (look : Look) (sz : Fin 8) (off : Fin 64) (s : State) : Res :=
  .next (s.doLoad t (s.eaShort base sz off) sz.val look.val false)
/-- `st` (R229). -/
def execSt (t : GOp) (base : R) (sz : Fin 8) (off : Fin 64) (s : State) : Res :=
  .next (s.doStore t (s.eaShort base sz off) sz.val false)
/-- `st.rel` (R230). -/
def execStRel (t : GOp) (base : R) (sz : Fin 8) (off : Fin 64) (s : State) : Res :=
  .next (s.doStore t (s.eaShort base sz off) sz.val true)
/-- `ld` with a long offset, plain or acquire (R228). -/
def execLdLong (t : GOp) (base : R) (look : Look) (sz : Fin 8) (acq : Bool) (off : BitVec 32) (s : State) : Res :=
  .next (s.doLoad t (s.eaLong base off) sz.val look.val (!acq))
/-- `st` with a long offset, plain or release (R228). -/
def execStLong (t : GOp) (base : R) (sz : Fin 8) (rel : Bool) (off : BitVec 32) (s : State) : Res :=
  .next (s.doStore t (s.eaLong base off) sz.val rel)

/-! ## Versioned forms -/

/-- `ldx` of version g_b[31:0] (R232). -/
def execLdx (d : GOp) (a b : R) (look : Look) (s : State) : Res :=
  let ea := s.rd a.val
  .next (if badRange ea then s.fault cADDRRNG 1 ea.toNat 0
    else if ea.toNat % (8 * 2 ^ d.w.val) ≠ 0 then s.fault cALIGN 1 ea.toNat 0
    else s.orMigrate ea.toNat (s.access (.ldx ea.toNat (s.rdN b.val % 2 ^ 32) (gDest d) look.val)))
/-- `stx` of an octet as version g_b[31:0] (R233). -/
def execStx (d : GOct) (a b : R) (s : State) : Res :=
  let ea := s.rd a.val
  .next (if badRange ea then s.fault cADDRRNG 1 ea.toNat 0
    else if ea.toNat % 64 ≠ 0 then s.fault cALIGN 1 ea.toNat 0
    else if s.me.unsettled then s.waits
    else (s.released s.me.uid).access (.stx ea.toNat (lineOfWords (s.rdG ⟨3, ⟨8 * d.val, by omega⟩⟩)) (s.rdN b.val % 2 ^ 32)))
/-- `vrcl` over g_b[63:32] lines to version g_b[31:0] (R235). -/
def execVrcl (a b : R) (s : State) : Res :=
  let ea := s.rd a.val
  let n := s.rdN b.val / 2 ^ 32
  .next (if badRange ea then s.fault cADDRRNG 1 ea.toNat 0
    else if ea.toNat % 64 ≠ 0 then s.fault cALIGN 1 ea.toNat 0
    else if 2 ^ 20 < n then s.fault cADDRRNG 2 0 0
    else s.access (.vrcl ea.toNat (s.rdN b.val % 2 ^ 32) n))
/-- `vqry`: C and F of the line that contains the address (R236). -/
def execVqry (d a : R) (look : Look) (s : State) : Res :=
  let ea := s.rd a.val
  .next (if badRange ea then s.fault cADDRRNG 1 ea.toNat 0 else s.access (.vqry ea.toNat [.g d.val] look.val) true)

/-! ## Atomics -/

/-- An atomic of R240 on the word at g_a. -/
def State.doAtomic (s : State) (op : Nat) (d a b : R) (look : Look) : State :=
  let ea := s.rd a.val
  if badRange ea then s.fault cADDRRNG 1 ea.toNat 0
  else if ea.toNat % 8 ≠ 0 then s.fault cALIGN 1 ea.toNat 0
  else s.access (.atomic op ea.toNat (s.rd b.val) 0 [.g d.val] look.val) true
/-- `aadd` (R240). -/
def execAadd (d a b : R) (look : Look) (s : State) : Res := .next (s.doAtomic 0 d a b look)
/-- `afadd` (R241). -/
def execAfadd (d a b : R) (look : Look) (s : State) : Res := .next (s.doAtomic 1 d a b look)
/-- `amin` (R240). -/
def execAmin (d a b : R) (look : Look) (s : State) : Res := .next (s.doAtomic 2 d a b look)
/-- `amax` (R240). -/
def execAmax (d a b : R) (look : Look) (s : State) : Res := .next (s.doAtomic 3 d a b look)
/-- `aand` (R240). -/
def execAand (d a b : R) (look : Look) (s : State) : Res := .next (s.doAtomic 4 d a b look)
/-- `aor` (R240). -/
def execAor (d a b : R) (look : Look) (s : State) : Res := .next (s.doAtomic 5 d a b look)
/-- `axor` (R240). -/
def execAxor (d a b : R) (look : Look) (s : State) : Res := .next (s.doAtomic 6 d a b look)
/-- `axch` (R240). -/
def execAxch (d a b : R) (look : Look) (s : State) : Res := .next (s.doAtomic 7 d a b look)
/-- `acas`: compares with g_d and writes g_(d+1); only g_d is written (R242). -/
def execAcas (d : GPair) (a : R) (look : Look) (s : State) : Res :=
  let ea := s.rd a.val
  .next (if badRange ea then s.fault cADDRRNG 1 ea.toNat 0
    else if ea.toNat % 8 ≠ 0 then s.fault cALIGN 1 ea.toNat 0
    else s.access (.atomic 8 ea.toNat (s.rd (2 * d.val)) (s.rd (2 * d.val + 1)) [.g (2 * d.val)] look.val) true)

/-! ## Vector loads and stores -/

/-- A vector load or store (R158, R162, R166, R167): window, record address, sequence number, the accesses; they may be left for later. -/
def State.doVec (s : State) (i : Instr) (v : VOp) (p : GPair) (look : Nat) (load adv : Bool) : State :=
  let ra := s.rd (2 * p.val)
  let pos := s.rdN (2 * p.val + 1)
  let reg := if adv then some (2 * p.val + 1) else none
  let acc := fun (q : Nat) => if load then Access.ldv ra.toNat pos v.w.val (s.vcore v) q look reg
    else Access.stv ra.toNat pos v.w.val q (s.vcore v) (s.rdVs v) reg
  if s.vin v = false then s.fault cVWINOUT 4 0 0
  else if badRange ra then s.fault cADDRRNG 2 ra.toNat 0
  else if s.accessWaits (acc 0) (s.mayDefer (acc 0) true) then s.waits
  else
    let (u, q) := s.dispatch i
    if load then u.access (acc q) true else u.accessStore (acc q) false
/-- `ldv` (R166). -/
def execLdv (v : VOp) (p : GPair) (look : Look) (s : State) : Res := .next (s.doVec (.ldv v p look) v p look.val true false)
/-- `stv` (R166). -/
def execStv (v : VOp) (p : GPair) (s : State) : Res := .next (s.doVec (.stv v p) v p 0 false false)
/-- `ldv.adv` (R166). -/
def execLdvAdv (v : VOp) (p : GPair) (look : Look) (s : State) : Res :=
  .next (s.doVec (.ldvAdv v p look) v p look.val true true)
/-- `stv.adv` (R166). -/
def execStvAdv (v : VOp) (p : GPair) (s : State) : Res := .next (s.doVec (.stvAdv v p) v p 0 false true)

/-! ## Fences and prefetches -/

/-- A store of the context still awaits its acknowledgement (R245). -/
def State.unacked (s : State) (uid : Nat) : Bool := s.acks.any (fun a => a.1 == uid)
/-- Core `c` is in a scope of a thread on core `a` (R268): 1 core, 2 cluster (for an optimiser core the eight of its hub), 3 die, wider
scopes hold every core of the device. -/
def inScope (scope a c : Nat) : Bool :=
  match scope with
  | 0 => false
  | 1 => a == c
  | 2 => isOpt a == isOpt c && (if isOpt a then hubOf a == hubOf c else clusterOf a == clusterOf c)
  | 3 => dieOf a == dieOf c
  | _ => true
/-- The stores of a fence's thread, and what happens before them, are visible to the members of its scope (R245, R269), before whose own
releases they happen, as after an acquire of what follows the fence (R273). -/
def State.showScope (s : State) (scope : Nat) : State :=
  if s.hidden.isEmpty then s
  else if 4 ≤ scope then s.released s.me.uid
  else
    let seen := (s.threads.filter (fun x => inScope scope s.cur.core x.1)).map (fun x => x.2.2.uid) ++ s.away.map (fun t => t.uid)
    { s with hidden := s.hidden.map (fun x =>
      if x.knows.contains s.me.uid then
        { x with
          knows := x.knows ++ seen.filter (fun u => !x.knows.contains u)
          blind := x.blind.filter (fun u => match s.findUid u with
            | some m => !inScope scope s.cur.core m.1
            | none => false) } else x) }
/-- A fence (R245, R268, R269): `acq` waits for the thread's earlier loads and atomics, a fence that covers stores for every earlier
access and for the acknowledgements of the stores, which its scope then sees. Scope thread covers nothing. -/
def State.doFence (s : State) (stores : Bool) (scope : Fin 6) : State :=
  let l := s.me.deferred
  if scope.val = 0 then s
  else if s.me.accessBusy || l.any (fun d => d.rd) then s.waits
  else if stores = false then s
  else if s.unacked s.me.uid || !l.isEmpty then s.waits
  else (s.showScope scope.val).modMe (fun t => { t with fenced := true })
/-- `fence full` (R245). -/
def execFenceFull (scope : Fin 6) (s : State) : Res := .next (s.doFence true scope)
/-- `fence acq` (R245). -/
def execFenceAcq (scope : Fin 6) (s : State) : Res := .next (s.doFence false scope)
/-- `fence rel` (R245). -/
def execFenceRel (scope : Fin 6) (s : State) : Res := .next (s.doFence true scope)

/-- A dropped prefetch (R246). -/
def State.dropPrefetch (s : State) : State := s.modHere (fun x => { x with dropPf := sat32 x.dropPf })
/-- The peer piece of a page that has one of the remote-cache modes, not yet held by its hub: hub, rank, owner hub, frame. -/
def State.prefetchPiece (s : State) (e : TlbEntry) (ea : Nat) : Option (Nat × Nat × Nat × Nat) :=
  let g := cacheHub s.cur.core (ea / 2 ^ 16)
  if (s.hub g).pcsz == 0 then none
  else
    match peerFrame (e.target + (ea - e.vbase * 2 ^ 16)) with
    | some (r, h, f) => if s.reachable r then some (g, r, h, f) else none
    | none => none
/-- `pfetch.tlb` fills the TLBs; an address at which a load would fault is dropped (R246, R320). -/
def execPfetchTlb (a : R) (s : State) : Res :=
  let ea := s.rd a.val
  .next (if badRange ea ∨ ea.toNat < 2 ^ 32 then s.dropPrefetch
    else match s.lookup s.cur.core s.me.cont ea.toNat false with
      | (u, .ok e) => if e.rd then u else s.dropPrefetch
      | (_, .error _) => s.dropPrefetch)
/-- Start a fill for a prefetch whose page has an accepted mode (R246). -/
def State.prefetchFill (s : State) (ea : Word) (own : Bool) : State :=
  if badRange ea ∨ ea.toNat < 2 ^ 32 then s.dropPrefetch
  else
    match s.lookup s.cur.core s.me.cont ea.toNat false with
    | (_, .error _) => s.dropPrefetch
    | (u, .ok e) =>
      let rcm := e.mattr / 8 % 4
      if !e.rd || rcm == 0 || (own && rcm != 2) then s.dropPrefetch
      else
        match u.prefetchPiece e ea.toNat with
        | none => s.dropPrefetch
        | some (g, r, h, f) =>
          let p := ea.toNat / 2 ^ 16
          if u.fills.any (fun x => x.1 == g && x.2.1 == p) then u
          else { u with fills := u.fills ++ [(g, p, r, h, f, rcm == 2)] }
/-- `pfetch.pc` starts a page-cache fill when the page has rcm 1 or 2 (R246). -/
def execPfetchPc (a : R) (s : State) : Res := .next (s.prefetchFill (s.rd a.val) false)
/-- `pfetch.own` requests the lease when the page has rcm 2 (R246). -/
def execPfetchOwn (a : R) (s : State) : Res := .next (s.prefetchFill (s.rd a.val) true)

end Sys2Proof.Machine
end

