-- ==== Sys2Proof/Machine/Control.lean ====
section
/-! DEFINITION. Control registers (R126 to R133), waiting and yielding, traps, gangs, migration, safe points, retirement
(R25 to R28, R142 to R151). -/

namespace Sys2Proof.Machine

/-! ## Control registers -/

/-- A control register as `kget` reads it (R126). -/
def State.kread (s : State) (kn : Nat) : Word :=
  let t := s.src
  match kn with
  | 0x00 => t.kfmtA
  | 0x01 => t.kfmtB
  | 0x02 => t.kfmtC
  | 0x03 => t.ksclA
  | 0x04 => t.ksclB
  | 0x05 => t.kround
  | 0x06 => t.kflags
  | 0x07 => t.kvwin
  | 0x08 => t.krole
  | 0x09 => t.kmig
  | 0x0A => t.kstep
  | 0x0B => t.kstage
  | 0x0C => t.kseq
  | 0x0D => t.ktol
  | 0x0E => t.kenv
  | 0x0F => t.ktrap
  | 0x10 => coordOf s.cur.core
  | 0x18 => s.here.kage
  | 0x19 => s.here.kpre
  | _ => s.here.kvwait
/-- A thread with a control register written. -/
def Thread.kwrite (t : Thread) (kn : Nat) (v : Word) : Thread :=
  match kn with
  | 0x00 => { t with kfmtA := v }
  | 0x01 => { t with kfmtB := v }
  | 0x02 => { t with kfmtC := v }
  | 0x03 => { t with ksclA := v }
  | 0x04 => { t with ksclB := v }
  | 0x05 => { t with kround := v }
  | 0x06 => { t with kflags := v }
  | 0x07 => { t with kvwin := v }
  | 0x08 => { t with krole := v }
  | 0x09 => { t with kmig := v }
  | 0x0A => { t with kstep := v }
  | 0x0B => { t with kstage := v }
  | 0x0C => { t with kseq := v }
  | 0x0D => { t with ktol := v }
  | 0x0E => { t with kenv := v }
  | _ => { t with ktrap := v }
/-- Reserved bits and field ranges of a value (R127, R79, R81, R82, R131); `role` is the current `krole`. -/
def kvalOk (kn : Nat) (v role : Word) : Bool :=
  let n := v.toNat
  match kn with
  | 0x00 | 0x01 | 0x02 => decide (n < 16) && n != 7
  | 0x03 | 0x04 => decide (n < 2 ^ 52) && n % 4 == 0
  | 0x05 => decide (n ≤ 4)
  | 0x06 => decide (n < 64)
  | 0x07 => decide (n < 2 ^ 14) && n / 32 % 8 == 0 && n % 4 == 0 && winCnt v % 4 == 0 && decide (winBase v ≤ 28) &&
      decide (winCnt v ≤ 32)
  | 0x08 => decide (n < 8) && n / 4 == role.toNat / 4 % 2
  | 0x09 | 0x0B => decide (n < 16)
  | 0x0A => decide (n < 2 ^ 32)
  | 0x0C => true
  | 0x0D => decide (n < 0x7F800000)
  | 0x0E => decide (n < 2)
  | 0x0F => decide (n < 2 ^ 32) && n % 64 == 0
  | 0x18 => decide (8 ≤ n) && decide (n ≤ 4095)
  | 0x19 => decide (16 ≤ n) && decide (n ≤ 65535)
  | _ => decide (n < 2 ^ 32)
/-- Commands of a core's matrix unit that are not complete: queued, running, or with rows not yet released (R204). -/
def Core.mopen (x : Core) : List MCmd := x.mq ++ x.mrun.toList ++ x.mrows
/-- A drain that rounds under SR, and advances its thread's counter when it completes (R80). -/
def MCmd.sr (m : MCmd) : Bool :=
  match m.ins with
  | .mdrain _ _ _ _ _ => m.s.kround == 4 && m.s.kfmtC == 4
  | _ => false
/-- The thread's `eld` is held: its envelope is still to be made (R218). -/
def Thread.loadsEnv (t : Thread) : Bool :=
  match t.held with
  | some (.eld _ _ _ _) => true
  | _ => false
/-- Vector, matrix and Rind instructions of a context are still running (R133). -/
def Core.unitsBusy (x : Core) (uid : Nat) : Bool :=
  x.mopen.any (fun m => m.uid == uid) || x.rq.any (fun r => r.uid == uid) || x.vxq.any (fun v => v.uid == uid) ||
  x.threads.any (fun t => t.2.live && t.2.uid == uid && t.2.loadsEnv) ||
  (match x.lathe with
   | some l => l.uid == uid
   | none => false)
/-- Units of some core still run instructions of a context: it may have moved since (R82, R133). -/
def State.unitsBusy (s : State) (uid : Nat) : Bool := s.cores.any (fun x => x.2.unitsBusy uid)
/-- A vector result (R185). -/
def Out.isVec (o : Out) : Bool := o.regs.any (fun r => match r with
  | .v _ => true
  | _ => false)
/-- A vector instruction of a slot's thread, or its Lathe, has not completed and written (R185). -/
def State.vecBusy (s : State) (c t : Nat) : Bool :=
  let th := s.thr c t
  th.outs.any Out.isVec || !s.latheIdle c t || (s.core c).vxq.any (fun v => v.uid == th.uid) ||
  (match th.held with
   | some (.ldv _ _ _ _ _ _ _) | some (.stv _ _ _ _ _ _ _) => true
   | _ => false)
/-- `kget`: `kflags` and `kseq` wait for the thread's units (R130, R133). -/
def execKget (d : R) (kn : Fin 64) (s : State) : Res :=
  .next (if (kn.val == 0x06 || kn.val == 0x0C) && s.unitsBusy s.me.uid then s.waits else s.wr d.val (s.kread kn.val))
/-- Write `kvwin` (R129, R131, R185): earlier vector results land, then the value is checked, and registers that leave the window read
zero; `code` names the field that supplied the value. -/
def State.setWindow (s : State) (v : Word) (code : Nat) : State :=
  let u := s.landOuts s.cur.core s.cur.slot Out.isVec
  if u.vecBusy s.cur.core s.cur.slot then s.waits
  else if kvalOk 0x07 v u.src.krole = false then u.illenc 0 code
  else if 32 < winBase v + winCnt v ∨ u.here.windowFits v (some u.cur.slot) = false then u.faultSelf cVWINOVL
  else
    let old := u.me.kvwin
    let gone := ((List.range (winCnt old)).map (fun j => winBase old + j)).filter
      (fun n => decide (n < winBase v) || decide (winBase v + winCnt v ≤ n))
    (u.modHere (fun x => gone.foldl (fun x n => x.setV n 0) x)).modMe (fun t => t.kwrite 0x07 v)
/-- Write a control register other than `kvwin` whose value has passed its checks. -/
def State.kset (s : State) (kn : Nat) (v : Word) : State :=
  match kn with
  | 0x18 => s.modHere (fun x => { x with kage := v })
  | 0x19 => s.modHere (fun x => { x with kpre := v })
  | 0x1A => s.modHere (fun x => { x with kvwait := v })
  | _ => s.modMe (fun t => t.kwrite kn v)
/-- `kset`: the right to write, then reserved bits and ranges, then the window, then the right to role 3 (R131); one of `kvwin` waits
before its checks (R185). -/
def execKset (a : R) (kn v6 : Fin 64) (s : State) : Res :=
  let v := if a.val = 0 then BitVec.ofNat 64 v6.val else s.rd a.val
  let code := if a.val = 0 then 8 else 4
  .next (if 0x18 ≤ kn.val ∧ s.service = false then s.faultSelf cKPRIV
    else if kn.val = 0x07 then s.setWindow v code
    else if kvalOk kn.val v s.src.krole = false then s.illenc 0 code
    else if kn.val = 0x08 ∧ v.toNat % 4 = 3 ∧ (isOpt s.cur.core || s.svcCore s.cur.core) = false then s.faultSelf cKPRIV
    else if (kn.val == 0x06 || kn.val == 0x0C) && s.unitsBusy s.me.uid then s.waits
    else s.kset kn.val v)

/-! ## Waiting -/

/-- `wait` (R142): takes the pending events of the mask, or blocks with its timer armed. One with only bit 4 set and b = 0 completes where
bit 4 is still pending (assumption 121). -/
def execWait (d a b : R) (s : State) : Res :=
  let m := (s.rd a.val).truncate 6
  let hit := s.me.pend &&& m
  .next (if hit ≠ 0 then
      (s.wr d.val (hit.zeroExtend 64)).modMe (fun t => { t with pend := t.pend &&& ~~~m, timer := none })
    else
      s.waits.modMe (fun t => { t with
        timer := if t.timer.isSome || s.rd b.val == 0 then t.timer else some (s.cycle + s.rdN b.val) }))
/-- `yield`: the thread counts as ready from the next cycle; nothing in a gang (R143). -/
def execYield (s : State) : Res :=
  .next (if s.me.gang.isSome then s else s.modMe (fun t => { t with readyAt := s.cycle + 1 }))
/-- `lwait` blocks until the thread's Lathe completes (R154). -/
def execLwait (s : State) : Res :=
  .next (match s.here.lathe with
  | some l => if l.uid == s.me.uid then s.waits else s
  | none => s)

/-! ## Traps and retirement -/

/-- `trap` (R148): the return address is the next group. -/
def execTrap (code : BitVec 12) (s : State) : Res := .next (s.trapEnter 2 code.toNat s.nextPc)
/-- `eret` (R149). -/
def execEret (s : State) : Res := .next s.trapReturn
/-- `halt` (R150); in a Drupe it acts as `hdone` (R297), in a gang every member retires (R146). -/
def execHalt (s : State) : Res := .next s.retire
/-- `hdone` frees the Drupe's slots and retires; outside a Drupe it is DRUPEOP (R297). -/
def execHdone (s : State) : Res := .next (if s.me.drupe.isSome then s.retire else s.faultSelf cDRUPEOP)

/-! ## Gangs -/

/-- The block `gang` fuses: R25 for a compute core, the aligned optimiser cores of the hub for an optimiser core. -/
def gangCores (c n : Nat) : List Nat :=
  if isOpt c then
    if n ≤ 8 then (List.range 8).filterMap (fun i => if i / n == ocoreIdx c / n then some (ocore (hubOf c) i) else none) else []
  else gangBlock c n
/-- A member core accepts the leader: a free slot, and the window without overlap (R25). -/
def State.accepts (s : State) (m : Nat) (kv : Word) : Bool := (s.freeSlot m).isSome && (s.core m).windowFits kv none
/-- The context a follower receives (R25): what survives a switch, with a send counter and pending events of its own. The leader's
results that are still outstanding are not the follower's: they land on the leader alone, the follower's registers keep the values
copied, and R25 does not say so (DESIGN CHOICE, assumption 99). -/
def Thread.follower (t : Thread) (g : GangRec) : Thread :=
  { t.carried with nextOut := 0, pend := 0, sendCtr := 0, replica := none, gang := some g }
/-- Form the gang: every member core but the leader's starts a follower in its lowest free slot (R25). -/
def State.formGang (s : State) (c t : Nat) (g : GangRec) (l : List (Nat × Nat)) : State :=
  match l with
  | [] => s
  | (m, j) :: rest =>
    if m = c then (s.setThr c t { s.thr c t with gang := some { g with j := j } }).formGang c t g rest
    else
      match s.freeSlot m with
      | some k => (s.startThread m k ((s.thr c t).follower { g with j := j })).formGang c t g rest
      | none => s.formGang c t g rest
/-- `gang` (R25, R144): 0 and the gang forms, or the mask of the members that refuse. -/
def execGang (d : R) (n : Fin 17) (s : State) : Res :=
  let c := s.cur.core
  let ms := gangCores c n.val
  let idx := ms.zip (List.range ms.length)
  let no := if ms.isEmpty then 2 ^ n.val - 1 else
    (idx.filter (fun m => m.1 != c && !s.accepts m.1 s.src.kvwin)).foldl (fun k m => k + 2 ^ m.2) 0
  .next (if s.me.drupe.isSome then s.faultSelf cDRUPEOP
    else if s.me.gang.isSome then s.faultSelf cGANGOP
    else if no ≠ 0 then s.wrN d.val no
    else
      let s := s.wr d.val 0
      s.formGang c s.cur.slot ⟨s.me.uid, n.val, 0⟩ idx)
/-- `g13` of a slot's thread as its group read it (R28, R99). -/
def State.headOf (s : State) (c t : Nat) : Word :=
  let hs : List (Nat × Nat × Word) := match s.cur.latch with
    | some l => l.heads
    | none => []
  match hs.find? (fun h => h.1 == c && h.2.1 == t) with
  | some h => h.2.2
  | none => (s.thr c t).reg 13
/-- A follower after `split` (R28, R145): it goes to its own `g13`; 0 retires it, a misaligned target is BADPC at the group. -/
def State.splitOff (s : State) (c t : Nat) : State :=
  let a := s.headOf c t
  let s := s.setThr c t { s.thr c t with gang := none }
  if a = 0 then
    if s.canRetire c t then s.retired c t else s.setThr c t { s.thr c t with after := .retire }
  else if a.toNat % 8 ≠ 0 then
    let u := ({ s with cur := { s.cur with core := c, slot := t, latch := none } }).fault cBADPC 6 a.toNat 0
    { u with cur := s.cur }
  else s.setThr c t { s.thr c t with pc := a }
/-- `split` (R28, R145); a follower leaves it to its leader. -/
def execSplit (s : State) : Res :=
  .next (if s.cur.follows then s
    else
      match s.me.gang with
      | none => s.faultSelf cGANGOP
      | some _ =>
        if s.me.leads = false then s.faultSelf cGANGOP
        else
          let fs := (s.members s.cur.core s.cur.slot).filter (fun m => !(m.1 == s.cur.core && m.2 == s.cur.slot))
          fs.foldl (fun s m => s.splitOff m.1 m.2) (s.modMe (fun t => { t with gang := none })))

/-! ## Migration and safe points -/

/-- Move the executing thread to cluster `k` (R21, R147, R356, R357): `pc` is where it goes on, `d` receives the number of the core it
goes on on. A migratory thread travels; one that is not is saved as at a `safe` and placed by the scheduler, and when it cannot be
saved the request stays pending. None while it has to wait: for pending writes, its Lathe, its partner and its outbox. -/
def State.doMigr (s : State) (k d : Nat) (pc : Word) : Option State :=
  let c := s.cur.core
  let t := s.cur.slot
  if s.me.migratory then
    if !isOpt c && clusterOf c == k then some (s.wrN d c)
    else
      match s.roomIn k with
      | none => some (s.wrN d c)
      | some m =>
        let u := s.closeWindows c t
        if u.mayLeave c t = false ∨ 16 ≤ s.here.fwd.length then none else some (u.leaveTo m pc d)
  else
    let u := s.closeWindows c t
    if u.pendingOf c t || !s.latheIdle c t || !s.here.partnerDone s.me then none
    else if s.savable c t then
      some (u.saveContext c t pc (BitVec.allOnes 16) (BitVec.allOnes 8) (BitVec.allOnes 32) (some (k, d)))
    else some ((u.modMe (fun th => { th.event 5 with safeCount := 0, migReq := some k })).wrN d c)
/-- `migr` (R21, R27, R147): the thread moves to the core chosen for the address, now or when it may; an address that maps to nothing
moves nothing. -/
def execMigr (d a : R) (s : State) : Res :=
  let ea := s.rd a.val
  .next (if s.me.drupe.isSome then s.faultSelf cDRUPEOP
    else if s.me.gang.isSome then s.faultSelf cGANGOP
    else if !badRange ea && s.walkHeld s.cur.core s.me.cont ea.toNat then s.waits
    else
      match if badRange ea then none else s.ownerCluster s.cur.core s.me.cont ea.toNat with
      | none => s.wrN d.val s.cur.core
      | some k =>
        match s.doMigr k d.val s.nextPc with
        | some u => u
        | none => s.modMe (fun t => { t with after := .migr k d.val }))
/-- What the latest group of a slot's thread still does is done, if it can be now (R101, R147, R150). -/
def State.finishAfter (s : State) (c t : Nat) : State :=
  let th := s.thr c t
  if (s.members c t).any (fun m => (s.thr m.1 m.2).blk != .none && (s.thr m.1 m.2).blk != .retry) then s
  else
    match th.after with
    | .none => s
    | .retire => if s.canRetire c t then s.retired c t else s
    | .migr k d =>
      let u : State := { s.setThr c t { th with after := .none } with cur := { core := c, slot := t } }
      match u.doMigr k d th.pc with
      | some v => { v with cur := s.cur }
      | none => s
/-- `safe` (R103, R151): pending writes land, the Lathe has completed, the count restarts, and with a request pending the
context is saved and the slot freed, once its accesses are performed (R279); a gang goes together (R27). -/
def execSafe (glive : BitVec 15) (plive : BitVec 8) (vlive : BitVec 32) (s : State) : Res :=
  let ms := s.members s.cur.core s.cur.slot
  let u := ms.foldl (fun s m => s.closeWindows m.1 m.2) s
  let goes := ms.any (fun m => u.switchDue m.1 m.2) && ms.all (fun m => u.savable m.1 m.2)
  .next (if s.me.drupe.isSome then s.faultSelf cDRUPEOP
    else if s.cur.follows then s
    else if ms.any (fun m => u.writesDue m.1 m.2 || !u.latheIdle m.1 m.2 || (goes && !u.accessesDone (u.thr m.1 m.2))) then u.waits
    else
      let u := ms.foldl (fun s m => s.setThr m.1 m.2 { s.thr m.1 m.2 with safeCount := 0 }) u
      if goes then
        ms.foldl (fun s m => s.saveContext m.1 m.2 s.nextPc (glive.zeroExtend 16 <<< 1) plive vlive
          ((s.thr m.1 m.2).migReq.map (fun k => (k, 0)))) u
      else u)
/-- The timer of a `wait` elapses: bit 4 (R142). -/
def execWaitTimeout (s : State) : Res :=
  let th := s.thr s.ev.q s.ev.t
  .next (match th.timer with
  | some k =>
    if th.live && decide (k ≤ s.cycle) then s.setThr s.ev.q s.ev.t { th.event 4 with timer := none } else s
  | none => s)
/-- A thread of a core is promoted when it is ready and its age has reached `kage` − 7 (R23). -/
def Core.promote (x : Core) : Core :=
  { x with threads := fvals x.threads (fun t => { t with
      promoted := t.live && t.blk == .none && decide (x.kage.toNat ≤ t.age + 7) }) }
/-- Age promotion on a core (R23). -/
def execAgePromotion (s : State) : Res := .next (s.setCore s.ev.q (s.core s.ev.q).promote)

end Sys2Proof.Machine
end

