-- ==== Sys2Proof/Machine/Net.lean ====
section
/-! DEFINITION. Where messages and results end up (R285, R291, R299, R331, R356, R358, R390): delivered, forwarded, parked for an
absent context, spilled, refused, dropped or held. -/

namespace Sys2Proof.Machine

/-! ## Looking up -/

/-- The forwarding entry a core holds for a key; it serves up to the cycle it expires in (R331, R332). -/
def State.fwdFor (s : State) (c : Nat) (thread : Bool) (key : Nat) : Option Forward :=
  (s.core c).fwd.find? (fun f => f.thread == thread && f.key == key && decide (s.cycle ≤ f.expires))
/-- Install a forwarding entry (R331); an entry of the same key goes. -/
def State.addFwd (s : State) (c : Nat) (f : Forward) : State :=
  let x := s.core c
  s.setCore c { x with fwd := x.fwd.filter (fun g => !(g.thread == f.thread && g.key == f.key)) ++ [f] }
/-- The forwarding table of a core is full (R331). -/
def State.fwdFull (s : State) (c : Nat) : Bool := decide (16 ≤ (s.core c).fwd.length)
/-- The absent context that messages to a slot are parked for (R358). -/
def Core.absentAt (x : Core) (t : Nat) : Option Absent := x.absent.find? (fun a => a.slot == t && !a.lost)
/-- The core that keeps an absent context. -/
def State.absentOf (s : State) (uid : Nat) : Option (Nat × Absent) :=
  s.cores.findSome? (fun x => match x.2.absent.find? (fun a => a.thr.uid == uid) with
    | some a => some (x.1, a)
    | none => none)
/-- The context is travelling to another core (R356). -/
def State.travelling (s : State) (uid : Nat) : Bool := s.travellers.any (fun t => t.uid == uid)

/-- Items parked for a context wait to be delivered before what comes later (R358). -/
def State.hasParked (s : State) (uid : Nat) : Bool := s.cores.any (fun x => x.2.parked.any (fun p => p.uid == uid))

/-! ## Parking (R291, R299, R358) -/

/-- Post the SCHED record of an absent context, once (R358). -/
def State.postSched (s : State) (c : Nat) (a : Absent) : State :=
  if a.posted then s
  else
    let r : FaultRec := { cls := cSCHED, core := c, slot := a.slot, stage := a.thr.kstage.toNat % 16, lnch := launchWord a.thr.launch,
                          aux := a.slot }
    let s := s.setCore c { s.core c with absent := (s.core c).absent.map (fun (b : Absent) =>
      if b.thr.uid == a.thr.uid then { b with posted := true } else b) }
    (s.postFault (svcIndex c) r a.thr.uid a.thr.launch (.sched a.thr.uid)).1
/-- Park an item for an absent context. -/
def State.parkItem (s : State) (c : Nat) (a : Absent) (p : Parked) : State :=
  (s.setCore c { s.core c with parked := (s.core c).parked ++ [p] }).postSched c a
/-- A message for an absent context: parked, or refused with PARKFULL; a refusal is dropped then (R291). -/
def State.parkMsg (s : State) (c : Nat) (a : Absent) (m : Msg) : State :=
  if s.parkRoom c m.stored then s.parkItem c a { uid := a.thr.uid, msg := some m, res := none }
  else s.refuse m c 7

/-- The context in a halt area that messages to a slot are kept for (R360). -/
def State.haltAt (s : State) (c t : Nat) : Option Absent :=
  s.halts.findSome? (fun h => (h.contexts.find? (fun a => a.1 == c && a.2.slot == t && !a.2.lost)).map (fun a => a.2))
/-- The core of a context in a halt area. -/
def State.haltOf (s : State) (uid : Nat) : Option Nat :=
  s.halts.findSome? (fun h => (h.contexts.find? (fun a => a.2.thr.uid == uid)).map (fun a => a.1))
/-- Park an item with a context in a halt area (R360). -/
def State.haltPark (s : State) (c : Nat) (p : Parked) : State :=
  { s with halts := s.halts.map (fun h =>
      if h.contexts.any (fun a => a.2.thr.uid == p.uid) then { h with parked := h.parked ++ [(c, p)] } else h) }

/-! ## Messages to threads (R285, R291, R292) -/

/-- The message as it arrives; one that is `back` keeps its place in the order of arrival (R295). -/
def State.arrived (s : State) (m : Msg) (back : Bool) : Msg := if back then m else { m with arr := s.cycle }
/-- A message of `vn.rep` or `vn.sys` that finds no room is spilled (R285); none when the share is full, or it is there already. -/
def State.spillMsg (s : State) (c : Nat) (m : Msg) (back : Bool) : Option State :=
  if (m.vn == 1 || m.vn == 3) && !back && s.spillRoom c m.stored then
    some (s.setCore c { s.core c with spill := (s.core c).spill ++ [s.arrived m back] })
  else none
/-- A message of `vn.sys` that cannot arrive for want of room is spilled, or waits at its target's router (R285). -/
def State.turnedAway (s : State) : State :=
  match s.net[s.ev.k]? with
  | some m =>
    if m.vn == 3 && s.nextAtDoor m && !(s.core m.dst).admits m m.back then
      ((s.unNet m.uid).spillMsg m.dst m m.back).getD (s.atDoor m)
    else s
  | none => s
/-- A message enters the inbox and becomes visible, or is spilled; none while it has to wait (R17, R285).
`back` marks a message that returns from the overflow store. -/
def State.enter (s : State) (c : Nat) (m : Msg) (back : Bool) : Option State :=
  if (s.core c).admits m back then some ((s.setCore c ((s.core c).takeIn (s.arrived m back) false)).signalMsg c m.dslot)
  else s.spillMsg c m back
/-- A message that the hardware itself consumes takes its inbox slots while `act` does so (R285); none while it has to wait. -/
def State.consume (s : State) (m : Msg) (back : Bool) (act : State → State) : Option State :=
  if (s.core m.dst).admits m (back || m.back) then some (act s) else s.spillMsg m.dst m back
/-- A data message or refusal at its target core: to a thread of the slot it names, which may be on its way (R356), after a context that
moved, parked for one
that is absent, refused where there is none (R291, R358); none while it has to wait. -/
def State.deliver (s : State) (c : Nat) (m : Msg) (back : Bool) : Option State :=
  if m.dslot == 15 then s.enter c m back
  else if (s.thr c m.dslot).live then
    if s.hasParked (s.thr c m.dslot).uid then none else s.enter c m back
  else
    match s.fwdFor c true m.dslot with
    | some f => some (s.toNet { m with dst := f.core, dslot := f.slot })
    | none =>
      match (s.core c).absentAt m.dslot, s.haltAt c m.dslot with
      | some a, _ => some (s.parkMsg c a m)
      | none, some a => some (s.haltPark c { uid := a.thr.uid, msg := some m, res := none })
      | none, none => some (s.refuse m c 6)
/-- What arriving makes of network message m: `u` when it has entered, else it waits in its network (R17, R285). -/
def State.orWait (s : State) (m : Msg) (u : Option State) : State :=
  match u with
  | some u => u
  | none => if (s.core m.dst).admits m false || s.spillRoom m.dst m.stored then s else s.atDoor m

/-! ## Engine results (R299) -/

/-- Depth of the FIFOs of an engine (R298). -/
def fifoDepth (f : Nat) : Nat :=
  match f with
  | 0 => 32
  | 1 => 16
  | _ => 8
/-- A result header with its slot field rewritten (R108, R299). -/
def hdrSlot (h : Word) (t : Nat) : Word :=
  BitVec.ofNat 64 (h.toNat / 2 ^ 41 * 2 ^ 41 + t % 8 * 2 ^ 38 + h.toNat % 2 ^ 38)
/-- A result at a core whose slot holds its thread: into the output FIFO, or spilled; none while it has to wait. -/
def State.enterResult (s : State) (c t f : Nat) (e : QoEntry) (back : Bool) : Option State :=
  let e := { e with slot := t, hdr := hdrSlot e.hdr t }
  let x := s.core c
  let q := fget [] x.qo f
  if q.length < fifoDepth f && (back || !x.spillRes.any (fun r => r.1 == f)) then
    some ((s.setCore c { x with qo := fset x.qo f (q ++ [e]) }).signal c t 1)
  else if !back && s.spillRoom c e.stored then some (s.setCore c { x with spillRes := x.spillRes ++ [(f, e)] })
  else none
/-- A complete result goes to its context wherever it is (R299); none while the engine holds it. -/
def State.deliverResult (s : State) (f : Nat) (e : QoEntry) (back : Bool) : Option State :=
  match s.findUid e.uid with
  | some (c, t) => if s.hasParked e.uid then none else s.enterResult c t f e back
  | none =>
    match s.absentOf e.uid with
    | some (c, a) =>
      if s.parkRoom c e.stored then some (s.parkItem c a { uid := e.uid, msg := none, res := some (f, e) }) else none
    | none =>
      match s.haltOf e.uid with
      | some c => some (s.haltPark c { uid := e.uid, msg := none, res := some (f, e) })
      | none => if s.travelling e.uid then none else some s

end Sys2Proof.Machine
end

