-- ==== Sys2Proof/Machine/Directory.lean ====
section
/-! DEFINITION. The expert directory at work (R52 to R70, R326 to R331, R376, R377, R391, R392): caches and routing, tokens at
their cores, load and creation, replica copies, draining, joins and steps, and the directory instructions. Home requests of an
instruction are handled in the instruction's own step. -/

namespace Sys2Proof.Machine

/-! ## Caches (R53) -/

/-- The core that stands for a cluster in the network: its lowest. -/
def clusterCore (k : Nat) : Nat := coreAt k 0
/-- The line a cluster's cache holds for a name. -/
def Cluster.dirLine (x : Cluster) (name : Nat) : Option DirLine := x.dcache.find? (fun l => l.name == name)
/-- Put a line in front of a cache; the least recently used of more than 64 leaves with a message to its home (R53). -/
def State.cacheLine (s : State) (k : Nat) (l : DirLine) : State :=
  let x := s.cluster k
  let d := l :: x.dcache.filter (fun m => m.name != l.name)
  let s := s.setCluster k { x with dcache := d.take 64 }
  match d.drop 64 with
  | o :: _ => s.toHome o.name (clusterCore k) (.evict k o.name)
  | [] => s

/-- How a cache routes a token of a step (R62): a slot, or a refusal's reason. -/
def DirEntry.route (e : DirEntry) (t : Nat) : Except Nat Nat :=
  if !e.v then .error 4
  else
    let cand := (List.range 8).filter (fun j => (e.slot j).state == 2 && (e.slot j).wver == t)
    match cand with
    | [] => .error (if t < e.fver then 2 else 3)
    | j :: rest => .ok (rest.foldl (fun b j => if (e.slot j).depth < (e.slot b).depth then j else b) j)
/-- The cache's decision reaches the token in its outbox and the index register (R62, R289). -/
def State.cacheDecides (s : State) (c : Nat) (o : OutboxEntry) (e : DirEntry) : State :=
  let r := e.route o.msg.step
  let m := match r with
    | .ok j => { o.msg with rix := j, dst := (e.slot j).core, ddev := s.rank, reason := 0 }
    | .error k => { o.msg with reason := k }
  let x := s.core c
  let s := s.setCore c { x with outbox := x.outbox.map (fun p => if p.msg.uid == m.uid then { p with msg := m, routing := false } else p) }
  let v : Word := match r with
    | .ok j => BitVec.ofNat 64 j
    | .error _ => 15
  let s := match s.findUid m.suid with
    | some (k, t) =>
      let th := s.thr k t
      s.setThr k t { th with outs := th.outs.map (fun q => if q.wait == .route m.uid then { q with wait := .ready, val := .words [v] } else q) }
    | none => s
  match r with
  | .ok _ => s.toHome m.tag c (.meter m.tag)
  | .error _ => s
/-- Tokens of a name that wait in the outboxes of a cluster's cores for the cache: core and entry. -/
def State.routing (s : State) (k name : Nat) : List (Nat × OutboxEntry) :=
  (s.cores.filter (fun x => clusterOf x.1 == k)).flatMap (fun x =>
    (x.2.outbox.filter (fun o => o.routing && o.msg.kind == 2 && o.msg.tag == name)).map (fun o => (x.1, o)))
/-- Route a token just put into its outbox: at once with a copy of the entry, else when the home has answered (R53, R62). -/
def State.routeToken (s : State) (c : Nat) (o : OutboxEntry) : State :=
  let k := clusterOf c
  match (s.cluster k).dirLine o.msg.tag with
  | some l => (s.cacheLine k l).cacheDecides c o l.e
  | none =>
    let x := s.cluster k
    if x.fetching.contains o.msg.tag then s else s.setCluster k { x with fetching := x.fetching ++ [o.msg.tag] }
/-- A change for a cluster and name is on its way. -/
def Msg.changes (m : Msg) (k name : Nat) : Bool :=
  match m.sys with
  | .change l n _ => l == k && n == name
  | _ => false
/-- The message is the first of those in the network that satisfy a test. -/
def State.isFirst (s : State) (m : Msg) (p : Msg → Bool) : Bool :=
  match s.net.find? p with
  | some o => o.uid == m.uid
  | none => false
/-- DIRECTORY_FETCH_REPLY in cluster f for name k (R53): the entry as the home holds it fills the cache, the sharer bit is set,
waiting tokens are routed. An invalid entry is not kept. -/
def execDirectoryFetchReply (s : State) : Res :=
  let k := s.ev.f
  let name := s.ev.k
  let x := s.cluster k
  .next (if x.fetching.contains name && !s.messages.any (fun m => m.changes k name) then
      let s := (s.setCluster k { x with fetching := x.fetching.erase name }).atHome name
      let h := s.home name
      let e := { h.e with shr := h.e.shr ||| 2 ^ k }
      let s := if h.e.v then (s.setHome name { h with e := e }).cacheLine k ⟨name, e⟩ else s
      (s.routing k name).foldl (fun s o => s.cacheDecides o.1 o.2 (if h.e.v then e else {})) s
    else s)
/-- EVICTION_MESSAGE at the home (R53). -/
def execEvictionMessage (s : State) : Res :=
  .next (match s.arriving with
  | some m =>
    match m.sys with
    | .evict k name =>
      let s := (s.unNet m.uid).atHome name
      let h := s.home name
      let gone := ((s.cluster k).dirLine name).isNone
      if fget? s.dir name == none || !gone then s
      else s.setHome name { h with e := { h.e with shr := if h.e.shr.testBit k then h.e.shr - 2 ^ k else h.e.shr } }
    | _ => s
  | none => s.turnedAway)

/-! ## Tokens at their cores (R62 to R65, R330) -/

/-- Change an inbox entry by its message. -/
def Core.modEntry (x : Core) (uid : Nat) (f : InboxEntry → InboxEntry) : Core :=
  { x with inbox := x.inbox.map (fun e => if e.msg.uid == uid then f e else e) }
/-- Take a message out of an inbox. -/
def Core.dropEntry (x : Core) (uid : Nat) : Core := { x with inbox := x.inbox.filter (fun e => e.msg.uid != uid) }
/-- Give a unit of capacity back (R63, R65). -/
def Core.giveBack (x : Core) (name : Nat) : Core :=
  match fget? x.cap name with
  | some n => { x with cap := fset x.cap name (n + 1) }
  | none => x
/-- What R62 makes of a token at a core. -/
inductive TokenCase where
  | park
  | refuse (reason : Nat)
  /-- accepted: it takes a unit of capacity; whether it asks the home, and whether it waits for the answer (R65) -/
  | take (ask wait : Bool)
deriving DecidableEq, Repr
/-- Judge a token by the core's copies (R62, R392). -/
def Core.judge (x : Core) (m : Msg) : TokenCase :=
  match fget? x.acts m.tag with
  | none => .park
  | some a =>
    if a.j ≠ m.slotOf then .park
    else if m.step ≠ a.wver then .refuse (if m.step < a.wver then 2 else 3)
    else if a.state = 1 then .park
    else if a.fin || a.served == 3 then .refuse 2
    else if fget? x.cap m.tag = some 0 then .refuse 1
    else .take (a.served == 0) (a.served != 2)
/-- The bookkeeping of an accepted token (R62): the unit of capacity, and the first served request of the step. -/
def State.takeToken (s : State) (c : Nat) (m : Msg) (ask : Bool) : State :=
  let x := s.core c
  let x := match fget? x.cap m.tag with
    | some n => { x with cap := fset x.cap m.tag (n - 1) }
    | none => x
  if ask then
    let x := match fget? x.acts m.tag with
      | some a => { x with acts := fset x.acts m.tag { a with served := 1 } }
      | none => x
    (s.setCore c x).toNet { kind := 7, vn := 3, step := m.step, sdev := s.rank, src := c, ddev := s.rank,
                            dst := homeCore m.tag, dslot := 15, sys := .served m.tag m.slotOf c }
  else s.setCore c x
/-- A token that has just arrived (R62); none while the inbox has no room for it. -/
def State.arriveToken (s : State) (c : Nat) (m : Msg) : Option State :=
  match (s.core c).judge m with
  | .refuse r => some (s.refuse m c r)
  | .park => if (s.core c).room m then some (s.setCore c ((s.core c).takeIn (s.arrived m false) true)) else none
  | .take ask wait =>
    if (s.core c).room m then
      let s := s.takeToken c m ask
      let s := s.setCore c ((s.core c).takeIn (s.arrived m false) wait)
      some (if wait then s.setCore c ((s.core c).modEntry m.uid (fun e => { e with waitServed := true })) else s.signalMsg c 15)
    else none
/-- Re-check the parked tokens of a list, in order of arrival (R62). -/
def State.recheck (s : State) (c : Nat) (es : List InboxEntry) : State :=
  match es with
  | [] => s
  | e :: rest =>
    let u := match (s.core c).judge e.msg with
      | .park => s
      | .refuse r => (s.setCore c ((s.core c).dropEntry e.msg.uid)).refuse e.msg c r
      | .take ask wait =>
        let s := s.takeToken c e.msg ask
        let s := s.setCore c ((s.core c).modEntry e.msg.uid (fun e => { e with parked := wait, waitServed := wait }))
        if wait then s else s.signalMsg c 15
    u.recheck c rest
/-- Tokens of a slot in an inbox that wait for an activation. -/
def Core.parkedTokens (x : Core) (name j : Nat) : List InboxEntry :=
  x.inbox.filter (fun e => e.msg.kind == 2 && e.msg.tag == name && e.msg.slotOf == j && e.parked && !e.waitServed)
/-- Refuse tokens in an inbox with STEPOLD, giving back the units they took (R63, R65, R69). -/
def State.turnAway (s : State) (c : Nat) (es : List InboxEntry) : State :=
  match es with
  | [] => s
  | e :: rest =>
    let x := (s.core c).dropEntry e.msg.uid
    let x := if e.parked && !e.waitServed then x else x.giveBack e.msg.tag
    ((s.setCore c x).refuse e.msg c 2).turnAway c rest
/-- A core holds a claim or an activation for an expert; a RETIRED slot's serves no token (R70, R330). -/
def Core.knows (x : Core) (name : Nat) : Bool :=
  (fget? x.claims name).isSome || (match fget? x.acts name with
    | some a => a.state != 4
    | none => false)
/-- TOKEN_ARRIVAL (R62, R330): forwarded, judged, or refused where the core knows nothing of the expert. The header of a token that is
forwarded keeps its rix (R291); it is handled as slot 0's (R61). -/
def execTokenArrival (s : State) : Res :=
  .next (match s.arriving with
  | some m =>
    let c := m.dst
    if m.kind != 2 then s
    else
      match s.fwdFor c false m.tag with
      | some f => (s.unNet m.uid).toNet { m with dst := f.core, fwd := true }
      | none =>
        if (s.core c).knows m.tag then s.orWait m ((s.unNet m.uid).arriveToken c m)
        else (s.unNet m.uid).refuse m c 2
  | none => s.turnedAway)
/-- SERVED_REQUEST at the home (R65). -/
def execServedRequest (s : State) : Res :=
  .next (match s.arriving with
  | some m =>
    match m.sys with
    | .served name j c =>
      let s := (s.unNet m.uid).atHome name
      let h := s.home name
      let yes := h.e.v && m.step == h.e.fver && (!h.e.frz || h.e.served.testBit j)
      let s := if yes then s.setHome name { h with e := { h.e with served := h.e.served ||| 2 ^ j } } else s
      s.toNet { kind := 7, vn := 3, step := m.step, sdev := s.rank, src := homeCore name, ddev := s.rank, dst := c, dslot := 15,
                sys := .servedAnswer name j yes }
    | _ => s
  | none => s.turnedAway)
/-- SERVED_ANSWER at the replica core (R65): the waiting tokens become visible or are refused. -/
def execServedAnswer (s : State) : Res :=
  .next (match s.arriving with
  | some m =>
    match m.sys with
    | .servedAnswer name j yes =>
      let c := m.dst
      let s := s.unNet m.uid
      match fget? (s.core c).acts name with
      | some a =>
        if a.j == j && a.wver == m.step && a.served == 1 then
          let s := s.setCore c { s.core c with acts := fset (s.core c).acts name { a with served := if yes then 2 else 3 } }
          let es := (s.core c).inbox.filter (fun e => e.msg.kind == 2 && e.msg.tag == name && e.msg.slotOf == j && e.waitServed)
          if yes then
            es.foldl (fun s e => (s.setCore c ((s.core c).modEntry e.msg.uid (fun e => { e with parked := false, waitServed := false }))).signalMsg c 15) s
          else s.turnAway c es
        else s
      | none => s
    | _ => s
  | none => s.turnedAway)

/-! ## What a home tells a core (R59, R392) -/

/-- A message of a home to a replica core about a name. -/
def Msg.tells (m : Msg) (c name : Nat) : Bool :=
  match m.sys with
  | .activation n _ _ _ _ _ _ | .slotChange n _ _ _ _ | .claim n _ => n == name && m.dst == c
  | _ => false
/-- A context's `dirset` is answered, wherever it waits (R377). -/
def State.answerUid (s : State) (uid v : Nat) : State :=
  match s.findUid uid with
  | some (k, t) =>
    match (s.thr k t).blk with
    | .answer d => s.setThr k t { (s.thr k t).setReg d (BitVec.ofNat 64 v) with blk := .none, readyAt := s.cycle }
    | _ => s
  | none => s
/-- ACTIVATION (R59, R377, R392): the core keeps its copies, its own final push of the step among them, and re-checks the parked tokens;
the owner's is acknowledged to the `dirset` that created the entry. -/
def execActivation (s : State) : Res :=
  .next (match s.arriving with
  | some m =>
    match m.sys with
    | .activation name j wver fin ostack gfmt asker =>
      let c := m.dst
      if !s.isFirst m (fun o => o.tells c name) then s
      else
        let s := s.unNet m.uid
        let x := s.core c
        let pushed := match fget? x.acts name with
          | some a => a.j == j && a.wver == wver && a.fin
          | none => false
        let a : Activation := { j := j, wver := wver, fin := fin || pushed, ostack := ostack, gfmt := gfmt }
        let s := s.setCore c { x with acts := fset x.acts name a, claims := ferase x.claims name }
        let s := s.recheck c ((s.core c).parkedTokens name j)
        match asker with
        | some u => s.answerUid u 0
        | none => s
    | _ => s
  | none => s.turnedAway)
/-- The core applies a change of its slot (R69, R392). The activation stands until the slot is FREE (R314). A final push the core has
judged closes the step there, whatever a change sent before the home knew of it says (R314). -/
def State.applySlot (s : State) (c name j state wver : Nat) (fin : Bool) : State :=
  let x := s.core c
  let mine := x.inbox.filter (fun e => e.msg.kind == 2 && e.msg.tag == name && e.msg.slotOf == j)
  let x := if state == 0 then { x with claims := ferase x.claims name } else x
  match fget? x.acts name with
  | none => if state == 0 || state == 4 then (s.setCore c x).turnAway c (mine.filter (fun e => e.parked)) else s.setCore c x
  | some a =>
    if a.j ≠ j then s.setCore c x
    else if state == 0 then
      (s.setCore c { x with acts := ferase x.acts name }).turnAway c (mine.filter (fun e => e.parked || j != 0))
    else
      let same := wver == a.wver
      let a' := { a with state := state, wver := wver, fin := fin || (same && a.fin), served := if same then a.served else 0 }
      let s := s.setCore c { x with acts := fset x.acts name a' }
      s.turnAway c (mine.filter (fun e => (state == 4 || decide (e.msg.step < wver)) && (e.parked || j != 0)))
/-- DIRECTORY_CHANGE (R53, R392): a sharer applies the change and acknowledges it; a replica core applies its slot's. -/
def execDirectoryChange (s : State) : Res :=
  .next (match s.arriving with
  | some m =>
    match m.sys with
    | .change k name e =>
      if !s.isFirst m (fun o => o.changes k name) then s
      else
        let s := s.unNet m.uid
        let x := s.cluster k
        let d := if e.v then x.dcache.map (fun l => if l.name == name then { l with e := e } else l)
                 else x.dcache.filter (fun l => l.name != name)
        (s.setCluster k { x with dcache := d }).toHome name (clusterCore k) (.changeAck k name)
    | .slotChange name j state wver fin =>
      if !s.isFirst m (fun o => o.tells m.dst name) then s
      else (s.unNet m.uid).applySlot m.dst name j state wver fin
    | _ => s
  | none => s.turnedAway)
/-- CHANGE_ACK at the home (R53, R61). -/
def execChangeAck (s : State) : Res :=
  .next (match s.arriving with
  | some m =>
    match m.sys with
    | .changeAck k name =>
      let s := (s.unNet m.uid).atHome name
      match fget? s.dir name with
      | none => s
      | some h => s.setHome name { h with unacked := fset h.unacked k (fget 0 h.unacked k - 1)
                                          drainWait := fvals h.drainWait (fun l => l.erase k) }
    | _ => s
  | none => s.turnedAway)

/-! ## Load and creation (R57, R58) -/

/-- The lowest slot that is FREE and held by no claim. -/
def Home.freeSlot (h : Home) : Option Nat :=
  (List.range' 1 7).find? (fun j => (h.e.slot j).state == 0 && !h.claims.any (fun c => c.j == j))
/-- Candidate cores of a creation event (R58). -/
def State.candidates (s : State) (e : DirEntry) : List Nat :=
  ((List.range 2048).filter (fun c => e.shr.testBit (clusterOf c))).filter (fun c =>
    !s.reserved c && !(List.range 8).any (fun j => (e.slot j).state != 0 && (e.slot j).core == c))
/-- Write the answer for a thread blocked on one from elsewhere (R323, R338). -/
def State.answer (s : State) (who : Option (Nat × Nat)) (v : Nat) : State :=
  match who with
  | some (c, t) =>
    match (s.thr c t).blk with
    | .answer d => s.setThr c t { (s.thr c t).setReg d (BitVec.ofNat 64 v) with blk := .none, readyAt := s.cycle }
    | _ => s
  | none => s
/-- Claim a thread slot at the next candidate, or drop the event (R58). What makes a core a candidate is tested again when its turn comes,
and no core is tried for two slots of one entry at once (assumption 96). -/
def State.claimNext (s : State) (name : Nat) (cl : Claim) : State :=
  let h := s.home name
  let others := h.claims.filter (fun c => c.j != cl.j)
  let now := s.candidates h.e
  match if cl.refused < 8 then cl.rest.filter (fun c => now.contains c && !others.any (fun o => o.core == c)) else [] with
  | c :: rest => (s.setHome name { h with claims := others ++ [{ cl with core := c, rest := rest }] }).homeMsg name c (.claim name cl.j)
  | [] => ((s.setHome name { h with claims := others }).addStat name 3).answer cl.asker 14
/-- A creation event on slot `j` (R57, R58). -/
def State.createReplica (s : State) (name j : Nat) (asker : Option (Nat × Nat)) : State :=
  s.claimNext name { j := j, core := 0, refused := 0, rest := s.candidates (s.home name).e, asker := asker }
/-- METER_MESSAGE at the home (R57). A meter that stands at 65,535, its largest value, counts each further message as an increment that
makes it equal (assumption 97). -/
def execMeterMessage (s : State) : Res :=
  .next (match s.arriving with
  | some m =>
    match m.sys with
    | .meter name =>
      let s := (s.unNet m.uid).atHome name
      let h := s.home name
      if !h.e.v then s
      else
        let n := min (h.e.meter + 1) 65535
        let s := s.setHome name { h with e := { h.e with meter := n } }
        let u := h.inUse
        match h.freeSlot with
        | some j => if n == h.e.threp * u && h.e.threp != 0 && u < h.e.maxrep + 1 then s.createReplica name j none else s
        | none => s
    | _ => s
  | none => s.turnedAway)
/-- The copy address of a replica at a core (R58). -/
def copyAddr (e : DirEntry) (c : Nat) : Nat := clusterOf c * 2 ^ 25 + e.rvoff + posInCluster c * e.wlines * 64
/-- CLAIM_REQUEST at a candidate core (R58): with a free slot it accepts and starts the replica thread. -/
def execClaimRequest (s : State) : Res :=
  .next (match s.arriving with
  | some m =>
    match m.sys with
    | .claim name j =>
      let c := m.dst
      if !s.isFirst m (fun o => o.tells c name) then s else
      let s := s.unNet m.uid
      let h := s.home name
      match if h.e.v && !s.haltingOf h.launch && !s.containedOf h.launch then s.freeSlot c else none with
      | some t =>
        let th : Thread := { pc := BitVec.ofNat 64 h.e.hpc, krole := 1, kstep := BitVec.ofNat 64 h.e.fver, replica := some (name, j),
                             launch := h.launch, cont := h.cont }
        let th := ((th.setReg 8 (BitVec.ofNat 64 name)).setReg 9 (BitVec.ofNat 64 j)).setReg 10 (BitVec.ofNat 64 (copyAddr h.e c))
        let uid := s.nextUid
        let s := s.startThread c t th
        let s := s.setCore c { s.core c with claims := fset (s.core c).claims name j }
        s.toHome name c (.claimReply name j c uid true)
      | none => s.toHome name c (.claimReply name j c 0 false)
    | _ => s
  | none => s.turnedAway)
/-- Start, or start again, the copy of a replica's weights (R56, R58). -/
def State.startCopy (s : State) (name j : Nat) : State :=
  let x := (s.home name).e.slot j
  s.setCore x.core { s.core x.core with copies := fset (s.core x.core).copies name (j, x.wver, s.cycle) }
/-- Where a context is reached: its slot, the one it is leaving among them, or the slot it left, at its core or into a halt area. -/
def State.reachUid (s : State) (uid : Nat) : Option (Nat × Nat) :=
  ((s.threads.filter (fun x => x.2.2.uid == uid)).map (fun x => (x.1, x.2.1)) ++
    s.cores.flatMap (fun x => (x.2.absent.filter (fun a => a.thr.uid == uid)).map (fun a => (x.1, a.slot))) ++
    s.halts.flatMap (fun h => (h.contexts.filter (fun a => a.2.thr.uid == uid)).map (fun a => (a.1, a.2.slot)))).head?
/-- The retire message of slot `j` goes to a context (R61). R61 does not say what becomes of it when the thread has already gone: none is
made (DESIGN CHOICE, assumption 111). -/
def State.tellRetire (s : State) (name j uid : Nat) : State :=
  let h := s.home name
  let f := lineOfWords [BitVec.ofNat 64 name, BitVec.ofNat 64 j, BitVec.ofNat 64 h.e.fver]
  let m : Msg := { kind := 0, vn := 1, tag := 0xF00000 + name, step := h.e.fver, sdev := s.rank, src := homeCore name, ddev := s.rank,
                   flits := [f] }
  match s.reachUid uid with
  | some (c, t) => s.toNet { m with dst := c, dslot := t }
  | none => s
/-- The replica thread of a slot is sent its retire message (R61). -/
def State.retireMessage (s : State) (name j : Nat) : State :=
  match fget? (s.home name).reps j with
  | some u => s.tellRetire name j u
  | none => s
/-- CLAIM_REPLY at the home (R56, R58, R328): accepted, the slot is PENDING and its copy starts; refused, the next candidate. -/
def execClaimReply (s : State) : Res :=
  .next (match s.arriving with
  | some m =>
    match m.sys with
    | .claimReply name j c uid ok =>
      let s := (s.unNet m.uid).atHome name
      let h := s.home name
      match h.claims.find? (fun cl => cl.j == j && cl.core == c) with
      | none =>
        -- the claim ended with its entry (assumption 95): the replica thread is told to retire
        if ok then (s.tellRetire name j uid).homeMsg name c (.slotChange name j 0 h.e.fver false) else s
      | some cl =>
        if ok then
          let s := s.setHome name { h with claims := h.claims.filter (fun k => k.j != j), reps := fset h.reps j uid }
          let s := s.changeSlot name j { (h.e.slot j) with core := c, state := 1, wver := h.e.fver, depth := 0 }
          ((s.addStat name 0).startCopy name j).answer cl.asker j
        else s.claimNext name { cl with refused := cl.refused + 1 }
    | _ => s
  | none => s.turnedAway)

/-! ## Copies (R56, R58, R59) -/

/-- How far a copy gets. -/
inductive CopyEnd where
  | done | abort | waits
deriving DecidableEq, Repr
/-- Copy the lines of a replica from line `i` on, `n` of them at most (R58). -/
def State.copyLines (s : State) (c cont : Nat) (e : DirEntry) (ver i n : Nat) : State × CopyEnd :=
  match n with
  | 0 => (s, .done)
  | n + 1 =>
    let d := copyAddr e c + 64 * i
    match s.ldxAt ⟨c, cont, 0⟩ (e.wbase + 64 * i) ver 8 with
    | (s, .words ws) =>
      if (s.line d).c == ver then s.copyLines c cont e ver (i + 1) n
      else if ver < (s.line d).c then (s, .abort)
      else
        match s.stxAt ⟨c, cont, 0⟩ d ver (lineOfWords ws) true with
        | (u, .words _) => { u with acks := s.acks }.copyLines c cont e ver (i + 1) n
        | (_, .stalls _) => (s, .waits)
        | (_, _) => (s, .abort)
    | (_, .fault _ _) => (s, .abort)
    | (_, _) => (s, .waits)
/-- The copy of name `k` at core `q`: what it writes and how it ends; a wait longer than `kvwait` is a fault (R232, R234). -/
def State.runCopy (s : State) (c name : Nat) : State × CopyEnd :=
  match fget? (s.core c).copies name with
  | none => (s, .waits)
  | some (_, ver, since) =>
    let h := s.home name
    match s.copyLines c h.cont h.e ver 0 h.e.wlines with
    | (u, .waits) =>
      let w := (s.core c).kvwait.toNat
      if w ≠ 0 ∧ since + w ≤ s.cycle then (u, .abort) else (s, .waits)
    | r => r
/-- COPY_COMPLETE at core q for name k (R56, R59): ACTIVE with the activation sent, or the copy starts again at the new step. -/
def execCopyComplete (s : State) : Res :=
  let c := s.ev.q
  let name := s.ev.k
  .next (match fget? (s.core c).copies name, s.runCopy c name with
  | some (j, ver, _), (u, .done) =>
    let u := (u.setCore c { u.core c with copies := ferase (u.core c).copies name }).beforeCopy name
    let h := u.home name
    if (h.e.slot j).state != 1 then u
    else if ver == h.e.fver then
      let u := u.changeShared name j { (h.e.slot j) with state := 2, wver := ver }
      u.homeMsg name c (.activation name j ver (h.e.slot j).fin h.e.ostack h.e.gfmt none)
    else (u.changeSlot name j { (h.e.slot j) with wver := h.e.fver }).startCopy name j
  | _, _ => s)
/-- COPY_ABORT at core q for name k (R56, R58, R342). -/
def execCopyAbort (s : State) : Res :=
  let c := s.ev.q
  let name := s.ev.k
  .next (match fget? (s.core c).copies name, s.runCopy c name with
  | some (j, _, _), (u, .abort) =>
    let u := u.setCore c { u.core c with copies := ferase (u.core c).copies name, claims := ferase (u.core c).claims name }
    let u := u.beforeCopy name
    let h := u.home name
    if (h.e.slot j).state != 1 then u
    else ((u.addStat name 2).retireMessage name j).changeSlot name j { (h.e.slot j) with state := 0, depth := 0 }
  | _, _ => s)

/-! ## Retirement (R57, R60, R61) -/

/-- WINDOW_END for name k (R57). -/
def execWindowEnd (s : State) : Res := .next (s.atHome s.ev.k)
/-- A slot becomes RETIRED (R56, R61): its thread is told, its forwarding entry installed or due. -/
def State.retireSlot (s : State) (name j : Nat) : State :=
  let h := s.home name
  let x := h.e.slot j
  let s := (s.addStat name 1).retireMessage name j
  let s := s.changeSlot name j { x with state := 4 }
  if s.fwdFull x.core then
    s.setHome name { s.home name with fwdDue := (s.home name).fwdDue ++ [j] }
  else s.addFwd x.core { thread := false, key := name, core := (h.e.slot 0).core, slot := 15,
                         expires := s.cycle + (s.core x.core).fwExp * 256, launch := h.launch }
/-- A core's inbox holds a token of an expert. -/
def Core.hasToken (x : Core) (name : Nat) : Bool := x.inbox.any (fun e => e.msg.kind == 2 && e.msg.tag == name)
/-- DRAIN_COMPLETE for name k, slot t (R61); a full forwarding table holds it back (R331). -/
def execDrainComplete (s : State) : Res :=
  let name := s.ev.k
  let j := s.ev.t
  let h := s.home name
  let x := h.e.slot j
  .next (if h.e.v && j < 8 && x.state == 3 && (fget [] h.drainWait j).isEmpty && !(s.core x.core).hasToken name &&
      (!h.e.served.testBit j || x.fin) && !s.fwdFull x.core
    then (s.setHome name { h with drainWait := ferase h.drainWait j }).retireSlot name j
    else s)

/-! ## Joins and steps (R66, R67, R69) -/

/-- End elements to the eight optimiser cores of the owner stack (R67, R315). -/
def State.endElements (s : State) (name : Nat) (e : DirEntry) (is : List Nat) : State :=
  match is with
  | [] => s
  | i :: rest =>
    (s.toNet { kind := 0, vn := 2, sdev := s.rank, src := homeCore name, ddev := s.rank, dst := ocore e.ostack i, dslot := 15,
               flits := [0], sys := .gradient name e.fver 0 false 0 e.gfmt true }).endElements name e rest
/-- The join of a home's current step is complete (R67). -/
def Home.joinDone (h : Home) : Bool :=
  h.e.frz && (List.range 8).all (fun j => !h.e.served.testBit j || (h.e.slot j).fin)
/-- FINAL_PUSH_NOTICE at the home (R66, R67, R315). -/
def execFinalPushNotice (s : State) : Res :=
  .next (match s.arriving with
  | some m =>
    match m.sys with
    | .finalPush name j step =>
      let s := (s.unNet m.uid).atHome name
      let h := s.home name
      if !h.e.v || step != h.e.fver then s
      else
        let s := s.setHome name { h with e := { h.e.setSlot j { h.e.slot j with fin := true } with frz := true } }
        let s := s.tellCore name j
        let h := s.home name
        if h.joinDone && !h.joined then (s.setHome name { h with joined := true }).endElements name h.e (List.range 8) else s
    | _ => s
  | none => s.turnedAway)
/-- A slot from 1 on when `fver` advances, its `fin` being cleared (R56, R69, R392). -/
def State.stepSlot (s : State) (name j : Nat) (fin : Bool) : State :=
  let h := s.home name
  let x := h.e.slot j
  match x.state with
  | 1 => s.changeSlot name j { x with wver := h.e.fver }
  | 2 => (s.changeSlot name j { x with state := 1, wver := h.e.fver }).startCopy name j
  | 3 => (s.setHome name { h with drainWait := ferase h.drainWait j }).retireSlot name j
  | 4 => if fin then s.tellCore name j else s
  | _ => s
/-- STEP takes effect (R69), in one event of the home. -/
def State.stepEntry (s : State) (name v : Nat) : State :=
  let h := s.home name
  let slots := h.e.slots.map (fun x => { x with fin := false })
  let e := { h.e with fver := v, served := 0, frz := false, slots := slots }
  let s := s.setHome name { h with e := e.setSlot 0 { e.slot 0 with wver := v }, joined := false }
  let s := (s.tellCore name 0).tellChange name
  (List.range' 1 7).foldl (fun s j => s.stepSlot name j (h.e.slot j).fin) s

/-! ## Depth (R376) -/

/-- Tokens of an expert in an inbox. -/
def Core.tokens (x : Core) (name : Nat) : Nat := (x.inbox.filter (fun e => e.msg.kind == 2 && e.msg.tag == name)).length
/-- Report the experts of a list whose number of tokens has changed. -/
def State.report (s : State) (c : Nat) (l : List (Nat × Activation)) : State :=
  match l with
  | [] => s
  | (name, a) :: rest =>
    let n := (s.core c).tokens name
    (if fget 0 (s.core c).lastDepth name == n then s
     else (s.setCore c { s.core c with lastDepth := fset (s.core c).lastDepth name n }).toHome name c (.depth name a.j n)).report c rest
/-- Every core compares and reports (R376). -/
def State.compareDepths (s : State) : State := s.cores.foldl (fun u x => u.report x.1 x.2.acts) s
/-- DEPTH_REPORT (R376), in a cycle whose number is a multiple of 256: every core compares and reports. -/
def execDepthReport (s : State) : Res := .next (if s.cycle % 256 = 0 then s.compareDepths else s)
/-- DEPTH_UPDATE at the home (R376). -/
def execDepthUpdate (s : State) : Res :=
  .next (match s.arriving with
  | some m =>
    match m.sys with
    | .depth name j n =>
      let s := (s.unNet m.uid).atHome name
      let h := s.home name
      let x := h.e.slot j
      if h.e.v && x.state != 0 && x.core == m.src && x.depth != min n 255 then
        (s.setHome name { h with e := h.e.setSlot j { x with depth := min n 255 } }).tellChange name
      else s
    | _ => s
  | none => s.turnedAway)

/-! ## Forwarding (R331, R332) -/

/-- Install the forwarding entries of RETIRED slots at a core that are due, while there is room (R56). -/
def State.installDue (s : State) (c : Nat) (l : List (Nat × Nat)) : State :=
  match l with
  | [] => s
  | (name, j) :: rest =>
    let h := s.home name
    (if s.fwdFull c || (h.e.slot j).core != c then s
     else (s.setHome name { h with fwdDue := h.fwdDue.erase j }).addFwd c
       { thread := false, key := name, core := (h.e.slot 0).core, slot := 15, expires := s.cycle + (s.core c).fwExp * 256, launch := h.launch }).installDue c rest
/-- FORWARD_EXPIRY at core q (R331, R332, R56): expired entries free, entries that are due move in, RETIRED slots whose entry has
gone become FREE. -/
def execForwardExpiry (s : State) : Res :=
  let c := s.ev.q
  let x := s.core c
  let gone := (x.fwd.filter (fun f => decide (f.expires < s.cycle) && !f.thread)).map (fun f => f.key)
  let due := s.dir.flatMap (fun h => h.2.fwdDue.map (fun j => (h.1, j)))
  let u := if x.fwd.any (fun f => decide (f.expires < s.cycle)) then
      s.setCore c { x with fwd := x.fwd.filter (fun f => decide (s.cycle ≤ f.expires)) } else s
  let u := if due.isEmpty then u else u.installDue c due
  .next (gone.foldl (fun u name => (List.range' 1 7).foldl (fun u j =>
    if ((u.home name).e.slot j).core == c then u.freeRetired name j else u) u) u)

end Sys2Proof.Machine
end

