-- ==== Sys2Proof/Machine/Messages.lean ====
section
/-! DEFINITION. Messages (R283 to R297, R29 to R31, R356): sending and receiving, arrivals and refusals, Drupes, spawns, contexts
on their way. -/

namespace Sys2Proof.Machine

/-! ## Sending (R286 to R290) -/

/-- Flit 0 of a register payload (R288). -/
def State.regFlit (s : State) (a : GOp) : BitVec 512 := lineOfWords (s.rdG a)
/-- The 64-byte flits of bytes. -/
def flitsOf (n : Nat) (l : List Byte) : List (BitVec 512) := (List.range n).map (fun k => lineOf ((l.drop (64 * k)).take 64))
/-- Give an outbox message its payload. -/
def Core.setPayload (x : Core) (uid : Nat) (fs : List (BitVec 512)) : Core :=
  { x with outbox := x.outbox.map (fun o => if o.msg.uid == uid then { o with msg := { o.msg with flits := fs }, ready := true } else o) }
/-- Put a message whose payload stands in memory into the outbox and read it (R247, R288). -/
def State.postFrom (s : State) (m : Msg) (ea n : Nat) (routing : Bool) : State :=
  let uid := s.nextUid
  let s := s.post m false routing
  match s.tryAccess s.who (.payload uid ea n) with
  | (u, .bytes l) => u.modHere (fun x => x.setPayload uid (flitsOf n l))
  | (u, _) => u.hold (.payload uid ea n)
/-- Checks of a payload, then the send (R286, R288): a register payload, or flits at an address. `d` receives the send counter
unless the message is a token. -/
def State.sendWith (s : State) (m : Msg) (a : GOp) (nf : Nat) (d : Option R) : State :=
  let ea := s.rd a.n.val
  let flit := s.regFlit a
  let put := fun (s : State) =>
    let (s, mid) := (s.released s.me.uid).nextMid
    let m := { m with mid := mid, nf := nf }
    let s := match d with
      | some r => s.wrN r.val mid
      | none => s
    if a.w.val = 0 then s.postFrom m ea.toNat (nf + 1) (m.kind == 2)
    else s.post { m with flits := [flit] } true (m.kind == 2)
  if a.w.val = 0 ∧ badRange ea then s.fault cADDRRNG 1 ea.toNat 0
  else if a.w.val = 0 ∧ ea.toNat % 64 ≠ 0 then s.fault cALIGN 1 ea.toNat 0
  else if s.outFull then s.sqfull m.vn
  else if s.me.unsettled then s.waits
  else put s
/-- `send` (R288). -/
def execSend (d : R) (a : GOp) (b : R) (vn : Fin 2) (nf : Fin 4) (tag : BitVec 24) (s : State) : Res :=
  let t := s.target (s.rd b.val)
  .next (s.sendWith { kind := 0, vn := vn.val, tag := tag.toNat, ddev := t.dev, dslot := t.slot, dst := t.core } a nf.val (some d))
/-- `sendd` (R296): the image of a Drupe. -/
def execSendd (d a b : R) (nf : Fin 4) (tag : BitVec 24) (s : State) : Res :=
  let t := s.target (s.rd b.val)
  .next (s.sendWith { kind := 1, vn := 0, tag := tag.toNat, ddev := t.dev, dslot := t.slot, dst := t.core,
                      sys := .drupe s.me.launch s.me.cont } ⟨0, a⟩ nf.val (some d))
/-- `sendx` (R62, R289): the cache routes the token; `d` receives the index at its decision. -/
def execSendx (d : R) (a : GOp) (b : R) (nf : Fin 4) (look : Look) (s : State) : Res :=
  let uid := s.nextUid
  let u := s.sendWith { kind := 2, vn := 2, tag := s.rdN b.val % 2 ^ 20, ddev := s.rank, dslot := 15 } a nf.val none
  .next (if u.cur.stop then u
    else
      let u := if d.val = 0 then u else u.addOut [.g d.val] look.val (.route uid) (.words [])
      match u.here.outbox.find? (fun o => o.msg.uid == uid) with
      | some o => u.routeToken u.cur.core o
      | none => u)
/-- `spawn` (R29, R290): the request goes to the outbox and the thread blocks until its reply. -/
def execSpawn (d : Fin 8) (a b : R) (s : State) : Res :=
  let t := s.target (s.rd b.val)
  let x := s.src
  let body : SysMsg := .spawn (s.rd a.val) (s.rdG ⟨3, 8⟩) x.krole x.kround x.kstep x.kstage s.me.launch s.me.cont
  .next (if s.outFull then s.sqfull 0
    else if s.me.unsettled then s.waits
    else
      let (s, mid) := (s.released s.me.uid).nextMid
      let s := s.post { kind := 4, vn := 0, nf := 1, mid := mid, ddev := t.dev, dslot := t.slot, dst := t.core, sys := body } true false
      s.modMe (fun t => { t with blk := .spawnReply d.val (s.rd a.val) }))

/-! ## Leaving the outbox (R284, R286, R313) -/

/-- A target core and slot number exist (R284). -/
def slotExists (t : Nat) : Bool := decide (t < 8) || t == 15
/-- A message has a target that exists and is reached; a spawn stays on the device (R284, R367). -/
def State.sendable (s : State) (m : Msg) : Bool :=
  coreExists m.dst && slotExists m.dslot && s.rankExists m.ddev && s.reachable m.ddev && (m.kind != 4 || m.ddev == s.rank)
/-- An earlier gradient push of the context for the name and step has not been settled (R313). -/
def State.unsettledPush (s : State) (m : Msg) : Bool :=
  match m.sys with
  | .gradient name step _ true _ _ _ =>
    s.pushes.contains (m.suid, name, step) ||
    s.cores.any (fun x => x.2.outbox.any (fun o => o.msg.suid == m.suid && decide (o.msg.uid < m.uid) && o.msg.reason == 0 && (match o.msg.sys with
      | .gradient n t _ _ _ _ _ => n == name && t == step
      | _ => false)))
  | _ => false
/-- OUTBOX_ENTRY_FREE for entry k of core q (R286): the message enters the router; a cache's refusal, and one for a target that
does not exist, is made there (R284, R291). A last gradient push waits for its predecessors, and tells the home (R313, R314). -/
def execOutboxEntryFree (s : State) : Res :=
  let c := s.ev.q
  let x := s.core c
  .next (match x.outbox[s.ev.k]? with
  | none => s
  | some o =>
    if !o.ready || o.routing || s.unsettledPush o.msg then s
    else
      let m := o.msg
      let s := s.setCore c { x with outbox := dropAt x.outbox s.ev.k }
      if m.reason ≠ 0 then s.refuse { m with reason := 0 } c m.reason
      else if s.sendable m then
        let s := s.toNet m
        match m.sys with
        | .gradient name step _ last j _ _ =>
          if last then s.toHome name c (.finalPush name j step)
          else { s with pushes := s.pushes ++ [(m.suid, name, step)] }
        | _ => s
      else if m.kind = 4 then
        s.toNet { kind := 5, vn := 1, sdev := s.rank, src := c, ddev := s.rank, dst := c, dslot := m.sslot, sys := .spawnReply false }
      else s.refuse m c 6)
/-- DEADLOCK_ESCAPE of message k in a router of core q (R293): its latency alone changes; the router's counter rises. -/
def execDeadlockEscape (s : State) : Res :=
  let c := s.ev.q
  let dl := (s.die (dieOf c)).dlto
  .next (match s.net[s.ev.k]? with
  | some m =>
    if dl != 0 && !m.escaped && m.since + dl ≤ s.cycle && coreExists c then
      let s := { s with net := s.net.set s.ev.k { m with escaped := true } }
      (s.setCore c { s.core c with deadlock := sat32 (s.core c).deadlock }).lifeAdd 0 c 2
    else s
  | none => s)

/-! ## Receiving (R292, R294, R295) -/

/-- Class of a message in a selector's mask (R294). -/
def Msg.cls (m : Msg) : Nat :=
  match m.kind, m.vn with
  | 2, _ => 2
  | 3, _ => 3
  | _, 0 => 0
  | _, _ => 1
/-- A selector matches a message (R294). -/
def selects (sel : Word) (m : Msg) : Bool :=
  let n := sel.toNat
  let mask := bitsN n 47 24
  let cm := bitsN n 51 48
  (m.tag &&& mask) == (bitsN n 23 0 &&& mask) && (cm == 0 || cm.testBit m.cls)
/-- The message `recv` would take (R295): the visible, matching one that arrived first. -/
def State.nextMsg (s : State) (b : R) : Option InboxEntry :=
  s.here.inbox.find? (fun e => e.visible s.cur.slot && selects (s.rd b.val) e.msg)
/-- Header pair of `recvt` and `peek` when there is no message (R295). -/
def noHeader : List Word := [0, BitVec.allOnes 64]
/-- Take a message: payload to memory or registers, then the header (R295). -/
def State.takeMsg (s : State) (d : GPair) (a : GOp) (look : Nat) (e : InboxEntry) : State :=
  let m := e.msg
  let hd := [m.lo, m.hi]
  let hr := [.g (2 * d.val), .g (2 * d.val + 1)]
  let free := fun (s : State) => (s.modHere (fun x => x.dropEntry m.uid)).modMe (fun t => { t with rtimer := none, timedOut := false })
  let ea := s.rd a.n.val
  if a.w.val = 3 then
    (free s).addOut (gDest a ++ hr) look .ready (.words ((List.range 8).map (fun k => lineWord (m.flits.headD 0) k) ++ hd))
  else if a.n.val = 0 then (free s).addOut hr look .ready (.words hd)
  else
    let acc : Access := .bytes ea.toNat (m.flits.flatMap lineBytes)
    let s := free s
    match s.tryAccess s.who acc with
    | (u, .words _) => u.addOut hr look .ready (.words hd)
    | (u, _) => (u.hold acc).addOut hr look .held (.words hd)
/-- The address of a payload is in range and aligned (R221, R295). -/
def State.recvAddr (s : State) (a : GOp) (go : State → State) : State :=
  let ea := s.rd a.n.val
  if a.w.val = 0 ∧ a.n.val ≠ 0 ∧ badRange ea then s.fault cADDRRNG 1 ea.toNat 0
  else if a.w.val = 0 ∧ a.n.val ≠ 0 ∧ ea.toNat % 64 ≠ 0 then s.fault cALIGN 1 ea.toNat 0
  else if a.w.val = 0 ∧ a.n.val ≠ 0 ∧ s.me.unsettled then s.waits
  else go s
/-- `recv` (R295). -/
def execRecv (d : GPair) (a : GOp) (b : R) (look : Look) (s : State) : Res :=
  .next (s.recvAddr a (fun s =>
    match s.nextMsg b with
    | some e => s.takeMsg d a look.val e
    | none => s.waits))
/-- `recvt` (R295): the timer starts when the group first finds no message. -/
def execRecvt (d : GPair) (a : GOp) (b : R) (look : Look) (s : State) : Res :=
  let limit := s.rdN b.val / 2 ^ 52 * 256
  .next (s.recvAddr a (fun s =>
    if s.me.timedOut then
      (s.modMe (fun t => { t with timedOut := false })).addOut [.g (2 * d.val), .g (2 * d.val + 1)] look.val .ready (.words noHeader)
    else
      match s.nextMsg b with
      | some e => s.takeMsg d a look.val e
      | none =>
        if limit = 0 then s.addOut [.g (2 * d.val), .g (2 * d.val + 1)] look.val .ready (.words noHeader)
        else s.waits.modMe (fun t => { t with rtimer := if t.rtimer.isSome then t.rtimer else some (s.cycle + limit) })))
/-- RECVT_TIMEOUT at slot t of core q (R295): the `recvt` that waits completes with the timeout header. -/
def execRecvtTimeout (s : State) : Res :=
  let th := s.thr s.ev.q s.ev.t
  .next (match th.rtimer with
  | some k => if th.live && decide (k ≤ s.cycle) then s.setThr s.ev.q s.ev.t { th with rtimer := none, timedOut := true } else s
  | none => s)
/-- `peek` (R295). -/
def execPeek (d : GPair) (b : R) (s : State) : Res :=
  .next (s.wrs (2 * d.val) (match s.nextMsg b with
    | some e => [e.msg.lo, e.msg.hi]
    | none => noHeader))

/-! ## Arrivals (R285, R291, R292) -/

/-- A message from its two header words and its flits (R283). -/
def Msg.ofHeader (hi lo : Nat) (flits : List (BitVec 512)) : Msg :=
  { tag := bitsN hi 63 40, kind := bitsN hi 39 36, vn := bitsN hi 35 34, nf := bitsN hi 33 32, step := bitsN hi 31 0,
    reason := bitsN lo 63 60, rix := bitsN lo 59 57, sdev := bitsN lo 56 44, src := bitsN lo 43 32, sslot := bitsN lo 30 28,
    dslot := bitsN lo 27 24, dst := bitsN lo 23 12, mid := bitsN lo 11 0, flits := flits }
/-- A message of another device comes in from the fabric (R367): header v, w and flit 0 are the sender's, and so are its other flits,
which no one on this device knows. -/
def State.fromFabric (s : State) : State :=
  let m := Msg.ofHeader s.ev.v.toNat s.ev.w.toNat []
  if m.sdev == s.rank || !s.rankExists m.sdev || !coreExists m.dst || decide (3 < m.kind) || (m.kind == 0 && decide (1 < m.vn)) then s
  else
    let rest := (List.range m.nf).map (fun k => lineOfWords ((List.range 8).map (fun i => Config.freeWord (s.free + 8 * k + i))))
    let sys : SysMsg := if m.kind == 1 then .drupe none 0 else .none
    ({ s with free := s.free + 8 * m.nf } : State).toNet { m with ddev := s.rank, flits := s.ev.data :: rest, sys := sys }
/-- MESSAGE_ARRIVAL of network message k, a data message (R285, R291, R292, R358); with `on`, a message of another device comes in
from the fabric. -/
def execMessageArrival (s : State) : Res :=
  .next (if s.ev.on then s.fromFabric
    else
      match s.arriving with
      | some m => if m.kind == 0 && m.vn != 2 then s.orWait m ((s.unNet m.uid).deliver m.dst m false) else s
      | none => s.turnedAway)
/-- REFUSAL_ARRIVAL of network message k (R291). -/
def execRefusalArrival (s : State) : Res :=
  .next (match s.arriving with
  | some m => if m.kind == 3 then s.orWait m ((s.unNet m.uid).deliver m.dst m false) else s
  | none => s.turnedAway)
/-- The fault buffer of a service core (R351). -/
def State.fltBuf (s : State) (c : Nat) : Nat :=
  if isOpt c then clusterOf c * 2 ^ 25 + s.mwFltoff.toNat + 2 ^ 14 * (16 + ocoreIdx c)
  else clusterOf c * 2 ^ 25 + s.mwFltoff.toNat + 2 ^ 14 * posInCluster c
/-- Lowest slot of a fault buffer that holds no record (R351). -/
def State.fltSlot (s : State) (c : Nat) : Option Nat :=
  (List.range 256).find? (fun k => s.mem.nat (s.fltBuf c + 64 * k) 8 / 2 ^ 8 % 2 == 0)
/-- Write a record into a slot of the fault buffer (R351). -/
def State.putRecord (s : State) (c k : Nat) (r : FaultRec) : State :=
  { s with mem := s.mem.setBytes (s.fltBuf c + 64 * k) (lineBytes r.line) }
/-! ## Drupes (R296, R297) -/

/-- The code words of a Drupe: flits 1 onward. -/
def drupeCode (fs : List (BitVec 512)) : List (BitVec 32) :=
  (fs.drop 1).flatMap (fun f => (List.range 16).map (fun k => f.extractLsb' (32 * k) 32))
/-- DRUPE_ARRIVAL of network message k (R296): a thread starts in the lowest free slot, or NOSLOT; not while its launch is halted
(R360). -/
def execDrupeArrival (s : State) : Res :=
  .next (match s.arriving with
  | some m =>
    let c := m.dst
    let (ln, ct) := match m.sys with
      | .drupe l k => (l, k)
      | _ => (none, 0)
    if m.kind != 1 || !(s.core c).room m || s.haltingOf ln then s
    else
      let s := s.unNet m.uid
      match s.freeSlot c with
      | none => s.refuse m c 5
      | some t =>
        let at_ := (s.core c).firstSlot m
        let s := s.setCore c ((s.core c).takeIn (s.arrived m false) false)
        let th : Thread := { g := octetRegs ((List.range 8).map (fun k => lineWord (m.flits.headD 0) k)), krole := 1,
                             kstep := BitVec.ofNat 64 m.step, launch := ln, cont := ct,
                             drupe := some { code := drupeCode m.flits, uid := m.uid, slot := at_ } }
        s.startThread c t th
  | none => s.turnedAway)

/-! ## Spawn (R29 to R31, R46, R290) -/

/-- The sender of a spawn is in a gang that has a member on the core (R27). -/
def State.spawnInGang (s : State) (m : Msg) : Bool :=
  let ms := s.members m.src m.sslot
  decide (1 < ms.length) && ms.any (fun x => x.1 == m.dst)
/-- SPAWN_REQUEST of network message k (R29, R31, R46): accepted with a free slot, else refused, as while its launch is being halted
(R360); it waits for inbox room. -/
def execSpawnRequest (s : State) : Res :=
  .next (match s.arriving with
  | some m =>
    match m.sys with
    | .spawn pc o krole kround kstep kstage ln ct =>
      let c := m.dst
      if !(s.core c).room m then s
      else
        let comm := krole.toNat / 4 % 2 == 1
        let reply := fun (s : State) (ok : Bool) =>
          s.toNet { kind := 5, vn := 1, sdev := s.rank, src := c, ddev := m.sdev, dst := m.src, dslot := m.sslot, sys := .spawnReply ok }
        let no := s.spawnInGang m || (s.reserved c && !comm) || s.haltingOf ln
        let s := s.unNet m.uid
        match if no then none else s.freeSlot c with
        | some t => reply (s.startThread c t { g := octetRegs o, pc := pc, krole := krole, kround := kround, kstep := kstep,
                                               kstage := kstage, launch := ln, cont := ct }) true
        | none => reply s false
    | _ => s
  | none => s.turnedAway)
/-- The reply reaches the sender of a spawn (R30, R290): it goes on, or runs the child inline. Each member of a gang takes its own reply;
where they differ, a refused follower's registers are written and the leader alone decides where the gang goes on (assumption 93). -/
def State.spawnAnswered (s : State) (m : Msg) (ok : Bool) : State :=
  let c := m.dst
  let t := m.dslot
  let th := s.thr c t
  match th.blk with
  | .spawnReply d child =>
    if !th.live then s
    else if ok then s.setThr c t { th.setReg d 0 with blk := .none, readyAt := s.cycle }
    else
      let th' := { (th.setReg d 1).setReg 14 th.pc with blk := .none, readyAt := s.cycle }
      let v := ({ s.setThr c t th' with cur := { core := c, slot := t, addr := th.pc - 8, follows := !th.leads } } : State).jump 1 child
      -- a call that does not take place leaves the registers as they stood (R92)
      if v.cur.stop then v.setThr c t { v.thr c t with g := th.g } else v
  | _ => s
/-- A spawn reply finds room at its core (R285). -/
def State.replyTaken (s : State) (m : Msg) (back : Bool) : Option State :=
  match m.sys with
  | .spawnReply ok => s.consume m back (fun s => s.spawnAnswered m ok)
  | _ => none
/-- SPAWN_REPLY of network message k (R30, R290). -/
def execSpawnReply (s : State) : Res :=
  .next (match s.arriving with
  | some m =>
    match m.sys with
    | .spawnReply _ => s.orWait m ((s.unNet m.uid).replyTaken m false)
    | _ => s
  | none => s.turnedAway)

/-! ## Contexts on their way (R331, R356) -/

/-- The lowest free slot takes a context, and its origin is told (R147, R356). -/
def State.settleContext (s : State) (m : Msg) (t : Nat) : State :=
  match m.sys with
  | .context th oc os d =>
    let s := s.placeThread m.dst t (th.carried.setReg d (BitVec.ofNat 64 m.dst))
    s.toNet { kind := 7, vn := 1, sdev := s.rank, src := m.dst, ddev := s.rank, dst := oc, dslot := 15, sys := .contextAck m.dst t os }
  | _ => s
/-- A migration message finds room at its core (R285): it holds its inbox slots until its context has a thread slot. -/
def State.contextTaken (s : State) (m : Msg) (back : Bool) : Option State :=
  let c := m.dst
  s.consume m back (fun s =>
    match if (s.core c).inbox.any (fun e => e.msg.kind == 6) then none else s.freeSlot c with
    | some t => s.settleContext m t
    | none => s.setCore c ((s.core c).takeIn (s.arrived m back) false))
/-- MIGRATION_ARRIVAL of network message k (R356, R147, R285): the context takes the lowest free slot and is acknowledged; without one
it waits in its inbox slots. With `on`, the one that waits at core q. -/
def execMigrationArrival (s : State) : Res :=
  .next (if s.ev.on then
      match (s.core s.ev.q).inbox.find? (fun e => e.msg.kind == 6), s.freeSlot s.ev.q with
      | some e, some t => (s.setCore s.ev.q ((s.core s.ev.q).dropEntry e.msg.uid)).settleContext e.msg t
      | _, _ => s
    else
      match s.arriving with
      | some m =>
        match m.sys with
        | .context _ _ _ _ => s.orWait m ((s.unNet m.uid).contextTaken m false)
        | _ => s
      | none => s.turnedAway)
/-- Forward what a vacated slot's thread had waiting (R331, R356): unread messages, and results in the output FIFOs. -/
def State.forwardMsgs (s : State) (c t : Nat) (es : List InboxEntry) (k : Nat × Nat) : State :=
  match es with
  | [] => s
  | e :: rest => ((s.setCore c ((s.core c).dropEntry e.msg.uid)).toNet { e.msg with dst := k.1, dslot := k.2 }).forwardMsgs c t rest k
/-- A result in a core's output FIFO whose context is in a slot of another core. -/
def State.strays (s : State) (c : Nat) (e : QoEntry) : Bool :=
  match s.findUid e.uid with
  | some (k, _) => k != c
  | none => false
/-- The first result of an output FIFO that has been left behind goes after its context (R299, R356); it keeps its entry while it has to
wait. -/
def State.forwardResult (s : State) (c f : Nat) : Option State :=
  let x := s.core c
  let q := fget [] x.qo f
  match q.find? (s.strays c) with
  | some e => (s.setCore c { x with qo := fset x.qo f (q.erase e) }).deliverResult f e false
  | none => none
/-- Forward results of the output FIFOs named, one for each time a FIFO is named (R356). -/
def State.forwardResults (s : State) (c : Nat) (fs : List Nat) : State :=
  match fs with
  | [] => s
  | f :: rest => ((s.forwardResult c f).getD s).forwardResults c rest
/-- The acknowledgement at the vacated core (R331, R356): the slot is free, the forwarding entry is installed, and what was held goes
after the context. -/
def State.vacate (s : State) (c nc nt os : Nat) : State :=
  let x := s.core c
  let th := x.thr os
  if !(th.live && th.blk == .leaving) then s
  else
    let es := x.inbox.filter (fun e => e.msg.dslot == os && (e.msg.kind == 0 || e.msg.kind == 3))
    let s := s.setCore c { x with threads := ferase x.threads os }
    let s := s.freedSlot c os
    let s := s.addFwd c { thread := true, key := os, core := nc, slot := nt, expires := s.cycle + x.fwMig * 256, launch := th.launch }
    (s.forwardMsgs c os es (nc, nt)).forwardResults c (x.qo.flatMap (fun q => q.2.map (fun _ => q.1)))
/-- An acknowledgement finds room at the vacated core (R285); it waits while the forwarding table is full. -/
def State.ackTaken (s : State) (m : Msg) (back : Bool) : Option State :=
  match m.sys with
  | .contextAck nc nt os => if s.fwdFull m.dst then none else s.consume m back (fun s => s.vacate m.dst nc nt os)
  | _ => none
/-- MIGRATION_ACK of network message k at the vacated core (R331, R356). -/
def execMigrationAck (s : State) : Res :=
  .next (match s.arriving with
  | some m =>
    match m.sys with
    | .contextAck _ _ _ => s.orWait m ((s.unNet m.uid).ackTaken m false)
    | _ => s
  | none => s.turnedAway)

/-! ## Back from the overflow store -/

/-- The oldest spilled message of a network goes on once it finds room (R285); one that the hardware consumes arrives again. -/
def State.messageBack (s : State) (c vn : Nat) : State :=
  let x := s.core c
  match x.spill.find? (fun m => m.vn == vn) with
  | none => s
  | some m =>
    let u := s.setCore c { x with spill := x.spill.erase m }
    if vn == 3 && m.kind != 6 then
      if s.net.any (fun o => o.back && o.dst == c) || !x.room m then s else { u with net := { m with atRouter := true, back := true } :: u.net }
    else
    (match m.sys with
     | .spawnReply _ => u.replyTaken m true
     | .contextAck _ _ _ => u.ackTaken m true
     | .context _ _ _ _ => u.contextTaken m true
     | _ => u.deliver c m true).getD s
/-- SPILL_RETURN at core q (R285, R299, R351): f = 0 the oldest spilled message of `vn.rep`, 1 to 4 the oldest result of an engine, 5
the oldest fault record, 6 the oldest spilled message of `vn.sys`, as room frees. -/
def execSpillReturn (s : State) : Res :=
  let c := s.ev.q
  let x := s.core c
  .next (match s.ev.f with
  | 0 => s.messageBack c 1
  | 6 => s.messageBack c 3
  | 5 => match x.spillFlt, s.fltSlot c with
    | r :: rest, some k => (s.setCore c { x with spillFlt := rest }).putRecord c k r
    | _, _ => s
  | f => match s.forwardResult c (f - 1), x.spillRes.find? (fun r => r.1 + 1 == f) with
    | some u, _ => u
    | none, some r => ((s.setCore c { x with spillRes := x.spillRes.erase r }).deliverResult r.1 r.2 true).getD s
    | none, none => s)

end Sys2Proof.Machine
end

