-- ==== Sys2Proof/Machine/Collectives.lean ====
section
/-! DEFINITION. Collectives (R311, R312, R86): the spanning tree of a group, contributions, rounds, results. -/

namespace Sys2Proof.Machine

/-! ## Operators (R311) -/

/-- The operator's identity (R86, R241, R312). -/
def grpId (op : Nat) : Word :=
  match op with
  | 2 => 0x7FFFFFFFFFFFFFFF
  | 3 => 0x8000000000000000
  | 4 => BitVec.allOnes 64
  | 7 => 0x8000000080000000
  | 8 => 0xFF800000FF800000
  | _ => 0
/-- Two FP32 maxima under the rules of R83. -/
def fmaxWord (a b : Word) : Word :=
  let lo := (fminmax fp32 false false (a.toNat % 2 ^ 32) (b.toNat % 2 ^ 32)).1
  let hi := (fminmax fp32 false false (a.toNat / 2 ^ 32) (b.toNat / 2 ^ 32)).1
  BitVec.ofNat 64 (hi * 2 ^ 32 + lo)
/-- Combine two values (R311). -/
def grpOp (op : Nat) (a b : Word) : Word :=
  match op with
  | 0 => a + b
  | 1 => BitVec.ofNat 64 (putInt 64 false true (a.toInt + b.toInt)).1
  | 2 => if b.slt a then b else a
  | 3 => if a.slt b then b else a
  | 4 => a &&& b
  | 5 => a ||| b
  | 6 => a ^^^ b
  | 7 => afaddWord a b
  | _ => fmaxWord a b

/-! ## Trees (R333) -/

/-- A core's spanning-tree entry for a group; not valid when never set. -/
def State.treeOf (s : State) (c n : Nat) : Nat := (fget 0 (s.core c).tree n).toNat
/-- Entry valid. -/
def treeV (e : Nat) : Bool := e.testBit 31
/-- The core is a member. -/
def treeMb (e : Nat) : Bool := e.testBit 30
/-- Parent direction. -/
def treePar (e : Nat) : Nat := bitsN e 29 27
/-- A direction is in the child mask. -/
def treeCh (e k : Nat) : Bool := e.testBit (21 + k)
/-- Operator code. -/
def treeOp (e : Nat) : Nat := bitsN e 20 17
/-- The core reached by a direction (R333): none off the mesh, to its own die, or across the fabric. -/
def treeStep (c e k : Nat) : Option Nat :=
  match k with
  | 0 => if rowOf c = 0 then none else some (c - 16)
  | 1 => if colOf c = 15 then none else some (c + 1)
  | 2 => if rowOf c = 15 then none else some (c + 16)
  | 3 => if colOf c = 0 then none else some (c - 1)
  | 4 => if bitsN e 16 14 = dieOf c then none else some (bitsN e 16 14 * 256 + c % 256)
  | _ => none
/-- The router's own value in the round (R312): a member's contribution, the identity of a router that is no member. -/
def State.ownValue (s : State) (c n : Nat) : Option Word :=
  let e := s.treeOf c n
  if treeMb e then
    match fget? (s.core c).groups n with
    | some g => if g.result.isNone then some g.contrib else none
    | none => none
  else some (grpId (treeOp e))
/-- A router names another as its parent that does not have it as a child (R333). -/
def State.strayChild (s : State) (g c : Nat) : Bool :=
  let e := s.treeOf c g
  s.cores.any (fun x =>
    let f := s.treeOf x.1 g
    treeV f && treeStep x.1 f (treePar f) == some c && !(List.range 5).any (fun k => treeCh e k && treeStep c e k == some x.1))
/-- What a router passes up (R86, R312): its own value combined with its children's in ascending direction; none while a
contribution is missing, or where a child does not have it as its parent or has it as its parent and is no child of it (R333). `far` is what the fabric has brought for direction 5. `n` bounds the depth. -/
def State.treeUp (s : State) (far : Option Word) (g c n : Nat) : Option Word :=
  match n with
  | 0 => none
  | n + 1 =>
    let e := s.treeOf c g
    if !treeV e || s.strayChild g c then none
    else
      (List.range 6).foldl (fun acc k =>
        match acc with
        | none => none
        | some a =>
          if !treeCh e k then some a
          else if k = 5 then
            match far with
            | some v => some (grpOp (treeOp e) a v)
            | none => none
          else
            match treeStep c e k with
            | none => none
            | some d =>
              if treeStep d (s.treeOf d g) (treePar (s.treeOf d g)) = some c then
                match s.treeUp far g d n with
                | some v => some (grpOp (treeOp e) a v)
                | none => none
              else none) (s.ownValue c g)
/-- The root of a core's tree, `n` bounding the depth. -/
def State.treeRoot (s : State) (g c n : Nat) : Option Nat :=
  match n with
  | 0 => none
  | n + 1 =>
    let e := s.treeOf c g
    if !treeV e then none
    else if treePar e = 7 || treePar e = 5 then some c
    else
      match treeStep c e (treePar e) with
      | some p => s.treeRoot g p n
      | none => none
/-- The routers of the tree below a router, itself first; `n` bounds the depth. -/
def State.treeBelow (s : State) (g c n : Nat) : List Nat :=
  match n with
  | 0 => []
  | n + 1 =>
    let e := s.treeOf c g
    c :: (List.range 5).flatMap (fun k =>
      if treeCh e k then
        match treeStep c e k with
        | some d => s.treeBelow g d n
        | none => []
      else [])
/-- The depth no tree exceeds: one more than the routers of the device. -/
def treeDepth : Nat := 2049
/-- The value the root sends down (R312): its own accumulation, or what the fabric brings when its parent is on another device. -/
def State.roundValue (s : State) (far : Option Word) (g root : Nat) : Option Word :=
  if treePar (s.treeOf root g) = 5 then
    match s.treeUp none g root treeDepth, far with
    | some _, some v => some v
    | _, _ => none
  else s.treeUp far g root treeDepth
/-- A router holds a round of a group (R333): a member below it, or itself, has contributed and the result has not been taken. -/
def State.holdsRound (s : State) (g c : Nat) : Bool :=
  if treeV (s.treeOf c g) then (s.treeBelow g c treeDepth).any (fun d => (fget? (s.core d).groups g).isSome)
  else (fget? (s.core c).groups g).isSome

/-! ## Contributing and taking (R312) -/

/-- The group has no tree here, or the core is no member. -/
def State.noMember (s : State) (n : Nat) : Bool :=
  let e := s.treeOf s.cur.core n
  !(treeV e && treeMb e)
/-- Contribute a value to the group's round. -/
def State.contribute (s : State) (n : Nat) (v : Word) (bar : Bool) : State :=
  (s.released s.me.uid).modHere (fun x => { x with groups := fset x.groups n { contrib := v, uid := s.me.uid, bar := bar } })
/-- End the group's round at the core. -/
def State.endRound (s : State) (n : Nat) : State := s.modHere (fun x => { x with groups := ferase x.groups n })
/-- `bar` (R312): contributes the identity once and waits for the result. -/
def execBar (n : Fin 32) (s : State) : Res :=
  .next (if s.noMember n.val then s.faultSelf cGRPSEQ
    else
      match fget? s.here.groups n.val with
      | none =>
        if s.me.unsettled then s.waits
        else (s.contribute n.val (grpId (treeOp (s.treeOf s.cur.core n.val))) true).waits
      | some g =>
        if !g.bar then s.faultSelf cGRPSEQ
        else if g.uid == s.me.uid && g.result.isSome then s.endRound n.val
        else s.waits)
/-- `grpst` (R312): a second contribution waits until the round's result has been taken. -/
def execGrpst (n : Fin 32) (a : R) (s : State) : Res :=
  .next (if s.noMember n.val then s.faultSelf cGRPSEQ
    else if (fget? s.here.groups n.val).isSome || s.me.unsettled then s.waits
    else s.contribute n.val (s.rd a.val) false)
/-- `grpld` (R312): claims the round's result, which may be still to come. -/
def execGrpld (d : R) (n : Fin 32) (look : Look) (s : State) : Res :=
  .next (if s.noMember n.val then s.faultSelf cGRPSEQ
    else
      match fget? s.here.groups n.val with
      | none => s.faultSelf cGRPSEQ
      | some g =>
        if g.claimed then s.faultSelf cGRPSEQ
        else
          match g.result with
          | some v =>
            (if g.bar then s.modHere (fun x => { x with groups := fset x.groups n.val { g with claimed := true } })
             else s.endRound n.val).longG d.val look.val v
          | none =>
            let s := s.modHere (fun x => { x with groups := fset x.groups n.val { g with claimed := true } })
            if d.val = 0 then s else s.addOut [.g d.val] look.val (.grpld n.val) (.words []))
/-- A result reaches a member core (R142, R312): a `grpld` that claimed it has its value, else it is kept until it is taken. -/
def State.roundAt (s : State) (n : Nat) (v : Word) (c : Nat) : State :=
  match fget? (s.core c).groups n with
  | none => s
  | some g =>
    let x := s.core c
    let x := { x with
      groups := if if g.bar then g.gone else g.claimed then ferase x.groups n else fset x.groups n { g with result := some v }
      threads := fvals x.threads (fun t => { t with
        outs := t.outs.map (fun o => if o.wait == .grpld n then { o with wait := .ready, val := .words [v] } else o) }) }
    let s := s.setCore c x
    match s.findUid g.uid with
    | some (k, t) => s.signal k t 3
    | none => s
/-- GROUP_ROUND_RESULT for group k of core q (R312): when every member of its tree has contributed, the root's value reaches every
member. With `on`, the fabric has brought `v` for a tree that spans devices. -/
def execGroupRoundResult (s : State) : Res :=
  let n := s.ev.k
  let far := if s.ev.on then some s.ev.v else none
  .next (match if (fget? (s.core s.ev.q).groups n).isSome then s.treeRoot n s.ev.q treeDepth else none with
  | none => s
  | some r =>
    match s.roundValue far n r with
    | none => s
    | some v => (s.treeBelow n r treeDepth).foldl (fun s c => if treeMb (s.treeOf c n) then s.roundAt n v c else s) s)

end Sys2Proof.Machine
end

