-- ==== Sys2Proof/Machine/Rings.lean ====
section
/-! DEFINITION. Rings in vaults (R308 to R310). -/

namespace Sys2Proof.Machine

/-- The ring of a handle that belongs to a launch (R308). -/
def State.ringOf (s : State) (h : Nat) (l : Option (Nat × Nat)) : Option Ring :=
  if h < 8192 then
    match fget? (s.cluster (h / 64)).rings (h % 64) with
    | some r => if r.launch == l then some r else none
    | none => none
  else none
/-- Replace the ring of a handle. -/
def State.setRing (s : State) (h : Nat) (r : Ring) : State :=
  let k := s.cluster (h / 64)
  s.setCluster (h / 64) { k with rings := fset k.rings (h % 64) r }
/-- Address of the slot a position names (R309). -/
def Ring.slotAddr (r : Ring) (x : Nat) : Nat := r.base + x % r.slots * r.bytes
/-- The next position; positions are 32-bit (R337). -/
def nextPos (x : Nat) : Nat := (x + 1) % 2 ^ 32
/-- Distance between two positions. -/
def posDiff (x y : Nat) : Nat := (x + 2 ^ 32 - y) % 2 ^ 32
/-- A slot can be acquired (R310). -/
def Ring.hasRoom (r : Ring) : Bool := decide (posDiff r.a r.f < r.slots)
/-- A published slot can be consumed (R310). -/
def Ring.hasSlot (r : Ring) : Bool := r.c != r.p
/-- Move P over published slots, `n` of them at most (R310). -/
def Ring.movePub (r : Ring) (n : Nat) : Ring :=
  match n with
  | 0 => r
  | n + 1 =>
    if r.pubs.contains (r.p % r.slots) then
      ({ r with pubs := r.pubs.erase (r.p % r.slots), p := nextPos r.p } : Ring).movePub n else r
/-- Publish the slot of a position (R310). -/
def Ring.publish (r : Ring) (x : Nat) : Ring := ({ r with pubs := r.pubs ++ [x % r.slots] } : Ring).movePub r.slots
/-- Move F over freed slots, `n` of them at most (R310). -/
def Ring.moveFree (r : Ring) (n : Nat) : Ring :=
  match n with
  | 0 => r
  | n + 1 =>
    if r.freed.contains (r.f % r.slots) then
      ({ r with freed := r.freed.erase (r.f % r.slots), f := nextPos r.f } : Ring).moveFree n else r
/-- Free the slot of a position (R310). -/
def Ring.release (r : Ring) (x : Nat) : Ring := ({ r with freed := r.freed ++ [x % r.slots] } : Ring).moveFree r.slots

/-- `cbinit` (R309): the checks, then the lowest free entry of the base's vault; all ones when its table is full. -/
def execCbinit (d a b : R) (s : State) : Res :=
  let base := s.rdN a.val
  let g := s.rdN b.val
  let slots := g % 2 ^ 13
  let bytes := (g / 2 ^ 16 % 4 + 1) * 64
  let ok := base < 2 ^ 32 ∧ base % 64 = 0 ∧ 1 ≤ slots ∧ slots ≤ 4096 ∧ g = slots + g / 2 ^ 16 % 4 * 2 ^ 16 ∧
    base % 2 ^ 25 + slots * bytes ≤ 2 ^ 25
  .next (if ¬ok then s.fault cADDRRNG 2 base 0
    else
      let k := base / 2 ^ 25
      match (List.range 64).find? (fun i => (fget? (s.cluster k).rings i).isNone) with
      | none => s.wr d.val (BitVec.allOnes 64)
      | some i =>
        (s.setRing (64 * k + i) { base := base, slots := slots, bytes := bytes, launch := s.me.launch }).wrN d.val (64 * k + i))
/-- A thread may go on at a ring: it is not behind another waiting thread (R310). -/
def turn (q : List Nat) (u : Nat) : Bool :=
  match q with
  | [] => true
  | v :: _ => v == u
/-- The waiting threads with one more. -/
def queueUp (q : List Nat) (u : Nat) : List Nat := if q.contains u then q else q ++ [u]
/-- `cbacq` (R310). -/
def execCbacq (d a : R) (look : Look) (s : State) : Res :=
  let h := s.rdN a.val
  let u := s.me.uid
  .next (match s.ringOf h s.me.launch with
  | none => s.fault cRINGH 1 0 0
  | some r =>
    if r.hasRoom && turn r.waitA u then
      let s := s.setRing h { r with a := nextPos r.a, waitA := r.waitA.erase u }
      (s.modMe (fun t => { t with acquired := t.acquired ++ [(h, r.a)] })).longG d.val look.val (BitVec.ofNat 64 (r.slotAddr r.a))
    else (s.setRing h { r with waitA := queueUp r.waitA u }).waits)
/-- `cbwait` (R310); it acquires the published slot (assumption 3). -/
def execCbwait (d a : R) (look : Look) (s : State) : Res :=
  let h := s.rdN a.val
  let u := s.me.uid
  .next (match s.ringOf h s.me.launch with
  | none => s.fault cRINGH 1 0 0
  | some r =>
    if r.hasSlot && turn r.waitC u then
      let s := s.setRing h { r with c := nextPos r.c, waitC := r.waitC.erase u }
      (s.modMe (fun t => { t with consumed := t.consumed ++ [(h, r.c)] })).longG d.val look.val (BitVec.ofNat 64 (r.slotAddr r.c))
    else (s.setRing h { r with waitC := queueUp r.waitC u }).waits)
/-- `cbrel` (R310): publish after a release fence, itself a release (R273), or free; RINGH without a slot of the right kind. -/
def execCbrel (a b : R) (s : State) : Res :=
  let h := s.rdN a.val
  let free := s.rdN b.val % 2 == 1
  .next (match s.ringOf h s.me.launch with
  | none => s.fault cRINGH 1 0 0
  | some r =>
    let own := if free then s.me.consumed else s.me.acquired
    match own.find? (fun x => x.1 == h) with
    | none => s.fault cRINGH 1 0 0
    | some x =>
      if s.me.unsettled then s.waits
      else if free then (s.setRing h (r.release x.2)).modMe (fun t => { t with consumed := t.consumed.erase x })
      else if s.unacked s.me.uid then s.waits
      else ((s.released s.me.uid).setRing h (r.publish x.2)).modMe (fun t => { t with acquired := t.acquired.erase x, fenced := false }))

end Sys2Proof.Machine
end

