-- ==== Sys2Proof/Machine/Counters.lean ====
section
/-! DEFINITION. The counter instructions (R337 to R347, R353). A counter reads as the changes of earlier cycles left it: the
value is read before the group that asks, or its gang, changes anything (R338). -/

namespace Sys2Proof.Machine

/-- A counter selector (R339). -/
structure CtrSel where
  id : Nat
  sub : Nat
  inst : Nat
  given : Bool
deriving DecidableEq, Repr
/-- The fields of a selector word; without an instance it is the issuing core's, or die's, own. Nothing stands for a ring or FIFO that
is not named. -/
def State.ctrSel (s : State) (w : Nat) : CtrSel :=
  let id := w % 2 ^ 8
  let given := w / 2 ^ 25 % 2 == 1
  let c := s.cur.core
  { id := id, sub := w / 2 ^ 8 % 16, given := given,
    inst := if given then w / 2 ^ 12 % 2 ^ 13
            else if id = 9 then dieOf c
            else if id = 10 then (if isOpt c then c - 2048 else 192)
            else if id = 7 ∨ id = 8 then 2 ^ 13
            else c }
/-- Limits of the sub-index and of the instance for an id (R339); none for an id that is not listed. -/
def ctrLimits (id : Nat) : Option (Nat × Nat) :=
  match id with
  | 0x00 | 0x01 | 0x06 | 0x0B | 0x0C | 0x0D | 0x0E => some (1, 2240)
  | 0x02 => some (8, 2240)
  | 0x03 | 0x04 => some (1, 2 ^ 13)
  | 0x05 => some (4, 2240)
  | 0x07 => some (4, 8192)
  | 0x08 => some (2, 16)
  | 0x09 => some (1, 8)
  | 0x0A => some (1, 192)
  | _ => none
/-- A selector fails (R340). -/
def CtrSel.bad (k : CtrSel) : Bool :=
  match ctrLimits k.id with
  | none => true
  | some (n, m) => decide (n ≤ k.sub) || decide (m ≤ k.inst) || ((k.id == 3 || k.id == 4) && k.given)
/-- Ids `ctrclr` accepts (R339). -/
def clearable (id : Nat) : Bool := id == 0x01 || id == 0x0B || id == 0x0C || id == 0x0D || id == 0x0E
/-- A counter of the thread, the core, or a ring of the launch: any thread may read it (R340). -/
def State.ownCounter (s : State) (k : CtrSel) : Bool :=
  k.id == 3 || k.id == 4 || k.id == 0x0A || k.id == 7 || (k.id != 8 && k.id != 9 && k.inst == s.cur.core)
/-- The ring a selector names, as the thread may read it (R308, R340). -/
def State.ctrRing (s : State) (k : CtrSel) : Option Ring :=
  if s.service then fget? (s.cluster (k.inst / 64)).rings (k.inst % 64) else s.ringOf k.inst s.me.launch
/-- The executing group, or its gang, has advanced the issue counter of a core in this cycle. -/
def State.issuing (s : State) (c : Nat) : Nat := if (s.members s.cur.core s.cur.slot).any (fun m => m.1 == c) then 1 else 0
/-- The value of a counter (R337, R339). -/
def State.ctrValue (s : State) (k : CtrSel) (r : Option Ring) : Nat :=
  let x := s.core k.inst
  match k.id with
  | 0x00 => s.cycle
  | 0x01 => x.issued
  | 0x02 => (x.thr k.sub).age
  | 0x03 => s.me.safeCount
  | 0x04 => s.me.sendCtr
  | 0x05 => fget 0 x.pushSeq k.sub
  | 0x06 => x.dispSeq
  | 0x07 => match r, k.sub with
    | some r, 0 => r.a
    | some r, 1 => r.p
    | some r, 2 => r.c
    | some r, _ => r.f
    | none, _ => 0
  | 0x08 => if k.sub = 0 then (s.fifo k.inst).pushed else (s.fifo k.inst).done
  | 0x09 => (s.die k.inst).n
  | 0x0A => fget 64 s.me.credits (2048 + k.inst)
  | 0x0B => x.dropPf
  | 0x0C => x.deadlock
  | 0x0D => x.refault
  | _ => x.discarded
/-- The value a `ctrget` of the executing thread reads: the one read before its group changed anything, if the group has (R338). -/
def State.countOf (s : State) (k : CtrSel) : Word :=
  match s.cur.latch with
  | some { count := some v, .. } => v
  | _ => BitVec.ofNat 64 (s.ctrValue k (s.ctrRing k))
/-- `ctrget` (R338 to R340). -/
def execCtrget (d a : R) (s : State) : Res :=
  let k := s.ctrSel (s.rdN a.val)
  let r := s.ctrRing k
  .next (if k.bad then s.fault cCTRSEL 1 0 0
    else if s.service = false ∧ s.ownCounter k = false then s.faultSelf cKPRIV
    else if k.id = 7 ∧ r = none then s.fault cRINGH 1 0 0
    else s.wr d.val (s.countOf k))
/-- A core with a counter at 0; `own` is what the clearing group itself has counted, which comes later (R338). -/
def Core.clearCtr (x : Core) (id own : Nat) : Core :=
  match id with
  | 0x01 => { x with issued := own }
  | 0x0B => { x with dropPf := 0 }
  | 0x0C => { x with deadlock := 0 }
  | 0x0D => { x with refault := 0 }
  | 0x0E => { x with discarded := 0 }
  | _ => x
/-- `ctrclr` (R339, R340). -/
def execCtrclr (a : R) (s : State) : Res :=
  let k := s.ctrSel (s.rdN a.val)
  .next (if k.bad || !clearable k.id then s.fault cCTRSEL 1 0 0
    else if s.service = false then s.faultSelf cKPRIV
    else s.setCore k.inst ((s.core k.inst).clearCtr k.id (s.issuing k.inst)))
/-- The value of an item of a directory entry (R341). -/
def Home.item (h : Home) (k : Nat) : Nat :=
  let fins := (List.range 8).foldl (fun n j => if (h.e.slot j).fin then n + 2 ^ j else n) 0
  match k with
  | 0 => h.e.meter
  | 1 => h.e.fver
  | 2 => h.e.served % 2 ^ 8 + (if h.e.frz then 2 ^ 8 else 0) + fins * 2 ^ 16
  | 7 => 2 ^ 64 - 1
  | k => h.stats.getD (k - 3) 0
/-- `meter` (R341): one event of the home; a window end of the same cycle comes first. -/
def execMeter (d a b : R) (s : State) : Res :=
  let name := s.rdN a.val % 2 ^ 20
  let w := s.rdN b.val
  let k := w % 8
  .next (if s.service = false ∧ s.taskCap s.cur.core = false then s.faultSelf cKPRIV
    else
      let s := s.atHome name
      let h := s.home name
      if !h.e.v then s.wr d.val (BitVec.allOnes 64)
      else
        let u := if w / 2 ^ 8 % 2 = 1 ∧ 3 ≤ k ∧ k ≤ 6 then s.setHome name { h with stats := h.stats.set (k - 3) 0 } else s
        u.wrN d.val (h.item k))
/-- Flush one slot of a fault buffer (R353): a reply goes to the poster, the slot is empty. -/
def State.flushSlot (s : State) (c gen k : Nat) : State :=
  let a := s.fltBuf c + 64 * k
  let w := s.mem.nat a 64
  if w.testBit 8 then
    let r := recOf (BitVec.ofNat 512 w)
    let s := if w % 256 = 0 then s else s.sysMsg 9 c r.core 0 (.faultReply r.rid r.unit (w % 256) gen c)
    { s with mem := s.mem.setBytes a (List.replicate 64 0) }
  else s
/-- The reply bytes of the core's fault buffer are read as loads of the executing thread (R353): not while its accesses are held (R247), nor
before a store of its own to the buffer is performed (R270). -/
def State.flushWaits (s : State) : Bool :=
  s.me.accessBusy || s.mustFollow s.who s.me.deferred true false [⟨0, s.fltBuf s.cur.core, 16384⟩]
/-- `genget` (R343, R353). -/
def execGenget (d b : R) (s : State) : Res :=
  let c := s.cur.core
  let g := (s.here.gen + 1) % 65536
  .next (if s.svcCore c = false then s.faultSelf cKPRIV
    else if s.rdN b.val % 2 = 0 then s.wrN d.val s.here.gen
    else if s.flushWaits then s.waits
    else
      let s := s.modHere (fun x => { x with gen := g })
      ((List.range 256).foldl (fun s k => s.flushSlot c g k) s).wrN d.val g)
/-- The item of the lifetime record applies to the kind (R345). -/
def lifeApplies (kind item : Nat) : Bool :=
  match item with
  | 0 | 1 => true
  | 2 | 3 => kind == 0
  | 4 => kind == 0 || kind == 2
  | 5 => kind == 1
  | 7 => true
  | _ => false
/-- `lifeget` (R345, R346). -/
def execLifeget (d a b : R) (s : State) : Res :=
  let o := s.rdN a.val
  let w := s.rdN b.val
  let kind := o % 4
  let idx := o / 2 ^ 4 % 2 ^ 12
  let item := w % 8
  let bin := w / 2 ^ 7 % 2 == 1
  let lim := match kind with
    | 0 => 2240
    | 1 => 12
    | 2 => 24
    | _ => 0
  .next (if s.service = false then s.faultSelf cKPRIV
    else if lim ≤ idx ∨ lifeApplies kind item = false ∨ (item = 7 ∧ bin = true) then s.wr d.val (BitVec.allOnes 64)
    else if item = 7 then s.wrN d.val s.hours
    else s.wrN d.val (fget 0 s.life (lifeKey kind idx item (if bin then w / 2 ^ 4 % 8 else 15))))

end Sys2Proof.Machine
end

