-- ==== Sys2Proof/Decode.lean ====
section
/-! DEFINITION. The decoder (R92 to R111), total on any words, naming the field of a word that is no instruction, and
the encoder, both from the encoding tables of R97 to R107 and the entries' minor codes. -/

namespace Sys2Proof

/-- What an ILLENC record names: the word and the field code (R110). -/
structure IllEnc where
  word : Nat
  code : Nat
deriving DecidableEq, Repr

/-- A decoded group (R93). -/
inductive Group where
  | pair (c a : Instr)
  | lone (i : Instr)
deriving DecidableEq, Repr

/-- Bits lo + n − 1 to lo of a word. -/
def fld (w lo n : Nat) : Nat := w / 2 ^ lo % 2 ^ n

/-- A field check: its failure names the code (R110). -/
def need (c : Bool) (code : Nat) : Except Nat Unit := if c then .ok () else .error code

/-- Checks in order; the first that fails decides (R111). -/
def runChecks (cs : List (Bool × Nat)) : Except Nat Unit :=
  match cs with
  | [] => .ok ()
  | (b, code) :: rest => if b then runChecks rest else .error code

/-- An unused field (R96). -/
def rz (w lo n code : Nat) : Except Nat Unit := need (fld w lo n == 0) code

/-- A G6 field that accepts single width only. -/
def rg (w lo code : Nat) : Except Nat R :=
  if h : fld w lo 6 < 16 then .ok ⟨fld w lo 6, h⟩ else .error code

/-- A G6 field that accepts pairs only. -/
def rpair (w lo code : Nat) : Except Nat GPair :=
  if fld w (lo + 4) 2 == 1 && fld w lo 1 == 0 then .ok ⟨fld w (lo + 1) 3, Nat.mod_lt _ (by decide)⟩ else .error code

/-- A G6 field that accepts octets only. -/
def roct (w lo code : Nat) : Except Nat GOct :=
  if fld w (lo + 4) 2 == 3 && fld w lo 3 == 0 then .ok ⟨fld w (lo + 3) 1, Nat.mod_lt _ (by decide)⟩ else .error code

/-- A G6 field as it stands. -/
def rawG (w lo : Nat) : GOp :=
  ⟨⟨fld w (lo + 4) 2, Nat.mod_lt _ (by decide)⟩, ⟨fld w lo 4, Nat.mod_lt _ (by decide)⟩⟩

/-- A G6 field of the listed widths. -/
def rgop (w lo : Nat) (ws : List Nat) (code : Nat) : Except Nat GOp :=
  if (rawG w lo).ok ws then .ok (rawG w lo) else .error code

/-- A V7 field as it stands. -/
def rawV (w lo : Nat) : VOp :=
  ⟨⟨fld w (lo + 5) 2, Nat.mod_lt _ (by decide)⟩, ⟨fld w lo 5, Nat.mod_lt _ (by decide)⟩⟩

/-- A single predicate or accumulator field (P5, A5). -/
def rp (w lo code : Nat) : Except Nat (Fin 8) :=
  if h : fld w lo 5 < 8 then .ok ⟨fld w lo 5, h⟩ else .error code

/-- A single envelope field (E4). -/
def re (w lo code : Nat) : Except Nat (Fin 4) :=
  if h : fld w lo 4 < 4 then .ok ⟨fld w lo 4, h⟩ else .error code

/-- An n-bit field as a number below 2 ^ n. -/
def fin (w lo n : Nat) : Fin (2 ^ n) := ⟨fld w lo n, Nat.mod_lt _ (Nat.two_pow_pos n)⟩

/-- An n-bit field as a bit vector. -/
def bits (w lo n : Nat) : BitVec n := BitVec.ofNat n (fld w lo n)

/-! ## Field layouts shared by several instructions -/

/-- SR and SE fields d, a, b single. -/
def decR3 (w : Nat) (k : R → R → R → Instr) : Except Nat Instr := do
  let d ← rg w 19 3
  let a ← rg w 13 4
  let b ← rg w 7 5
  .ok (k d a b)

/-- SR fields d, a single, b zero. -/
def decR2 (w : Nat) (k : R → R → Instr) : Except Nat Instr := do
  let d ← rg w 19 3
  let a ← rg w 13 4
  rz w 7 6 5
  .ok (k d a)

/-- d, a single, b an immediate. -/
def decR2i (w : Nat) (k : R → R → Fin 64 → Instr) : Except Nat Instr := do
  let d ← rg w 19 3
  let a ← rg w 13 4
  .ok (k d a (fin w 7 6))

/-- SL fields d, a, b single, look. -/
def decL3 (w : Nat) (k : R → R → R → Look → Instr) : Except Nat Instr := do
  let d ← rg w 19 3
  let a ← rg w 13 4
  let b ← rg w 7 5
  .ok (k d a b (fin w 3 4))

/-- SL fields d, a single, b zero, look. -/
def decL2 (w : Nat) (k : R → R → Look → Instr) : Except Nat Instr := do
  let d ← rg w 19 3
  let a ← rg w 13 4
  rz w 7 6 5
  .ok (k d a (fin w 3 4))

/-- SL fields d, a, b single, look zero. -/
def decQ3 (w : Nat) (k : R → R → R → Instr) : Except Nat Instr := do
  let d ← rg w 19 3
  let a ← rg w 13 4
  let b ← rg w 7 5
  rz w 3 4 7
  .ok (k d a b)

/-- SL fields d, a single, b and look zero. -/
def decQ2 (w : Nat) (k : R → R → Instr) : Except Nat Instr := do
  let d ← rg w 19 3
  let a ← rg w 13 4
  rz w 7 6 5
  rz w 3 4 7
  .ok (k d a)

/-- SR or SL: d zero, a and b single. -/
def decAB (w : Nat) (k : R → R → Instr) : Except Nat Instr := do
  rz w 19 6 3
  let a ← rg w 13 4
  let b ← rg w 7 5
  .ok (k a b)

/-- d zero, a single, b zero. -/
def decA (w : Nat) (k : R → Instr) : Except Nat Instr := do
  rz w 19 6 3
  let a ← rg w 13 4
  rz w 7 6 5
  .ok (k a)

/-- d, a and b zero. -/
def decZ (w : Nat) (i : Instr) : Except Nat Instr := do
  rz w 19 6 3
  rz w 13 6 4
  rz w 7 6 5
  .ok i

/-- SI fields d, a single, imm13. -/
def decI (w : Nat) (k : R → R → BitVec 13 → Instr) : Except Nat Instr := do
  let d ← rg w 19 3
  let a ← rg w 13 4
  .ok (k d a (bits w 0 13))

/-- SM fields of a load. -/
def decLd (w : Nat) (k : GOp → R → Look → Fin 8 → Fin 64 → Instr) : Except Nat Instr := do
  let t ← rgop w 19 (szWidths (fld w 6 3)) 3
  let b ← rg w 13 4
  need (szLoad (fin w 6 3)) 9
  .ok (k t b (fin w 9 4) (fin w 6 3) (fin w 0 6))

/-- SM fields of a store. -/
def decSt (w : Nat) (k : GOp → R → Fin 8 → Fin 64 → Instr) : Except Nat Instr := do
  let t ← rgop w 19 (szWidths (fld w 6 3)) 3
  let b ← rg w 13 4
  rz w 9 4 7
  need (szStore (fin w 6 3)) 9
  .ok (k t b (fin w 6 3) (fin w 0 6))

/-- CV fields of a load; the op is decoded before (R166). -/
def decCvLd (w : Nat) (k : VOp → GPair → Look → Instr) : Except Nat Instr := do
  need ((rawV w 18).ok 64) 3
  let s ← rpair w 12 5
  rz w 0 5 12
  .ok (k (rawV w 18) s (fin w 8 4))

/-- CV fields of a store. -/
def decCvSt (w : Nat) (k : VOp → GPair → Instr) : Except Nat Instr := do
  need ((rawV w 18).ok 64) 3
  let s ← rpair w 12 5
  rz w 8 4 7
  rz w 0 5 12
  .ok (k (rawV w 18) s)

/-- SE fields. -/
def decSe (w : Nat) (k : R → GOp → GOp → Instr) : Except Nat Instr := do
  let d ← rg w 19 3
  let a ← rgop w 13 [0, 1, 2, 3] 4
  let b ← rgop w 7 [0, 1, 2, 3] 5
  .ok (k d a b)

/-- A vector instruction whose operands stand as raw fields: its checks in the order of R111. -/
def decV (i : Instr) : Except Nat Instr := do
  runChecks (vecChecks i)
  .ok i

/-- ER fields d, a, b with look; g zero. -/
def decE3 (w : Nat) (k : Fin 4 → Fin 4 → Fin 4 → Look → Instr) : Except Nat Instr := do
  let d ← re w 21 3
  let a ← re w 17 4
  let b ← re w 13 5
  rz w 7 6 6
  .ok (k d a b (fin w 3 4))

/-- ER fields d, a with look; b and g zero. -/
def decE2 (w : Nat) (k : Fin 4 → Fin 4 → Look → Instr) : Except Nat Instr := do
  let d ← re w 21 3
  let a ← re w 17 4
  rz w 13 4 5
  rz w 7 6 6
  .ok (k d a (fin w 3 4))

/-- ER fields a, g pair with look; d and b zero. -/
def decEg (w : Nat) (k : Fin 4 → GPair → Look → Instr) : Except Nat Instr := do
  rz w 21 4 3
  let a ← re w 17 4
  rz w 13 4 5
  let g ← rpair w 7 6
  .ok (k a g (fin w 3 4))

/-- LI fields d, a single. -/
def decLi (w0 w1 : Nat) (k : R → R → BitVec 32 → Instr) : Except Nat Instr := do
  let d ← rg w0 19 3
  let a ← rg w0 13 4
  rz w0 4 9 12
  .ok (k d a (bits w1 0 32))

/-- LI fields d, a zero. -/
def decLiD (w0 w1 : Nat) (k : R → BitVec 32 → Instr) : Except Nat Instr := do
  let d ← rg w0 19 3
  rz w0 13 6 4
  rz w0 4 9 12
  .ok (k d (bits w1 0 32))

/-- LI fields d and a zero. -/
def decLiJ (w0 w1 : Nat) (k : BitVec 32 → Instr) : Except Nat Instr := do
  rz w0 19 6 3
  rz w0 13 6 4
  rz w0 4 9 12
  .ok (k (bits w1 0 32))

/-! ## The C map (R104) -/

/-- A C-slot word; the error is a field code (R110, R111). -/
def decC (w : Nat) : Except Nat Instr :=
  match fld w 25 6 with
  | 0x00 => do
    rz w 0 25 12
    .ok .nopC
  | 0x01 => do
    rz w 19 6 4
    .ok (.br (bits w 0 19))
  | 0x02 => do
    let a ← rg w 19 4
    .ok (.bz a (bits w 0 19))
  | 0x03 => do
    let a ← rg w 19 4
    .ok (.bnz a (bits w 0 19))
  | 0x04 => do
    let a ← rg w 19 4
    need (a.val != 0) 4
    .ok (.brdec a (bits w 0 19))
  | 0x05 => do
    rz w 19 6 4
    .ok (.call (bits w 0 19))
  | 0x06 =>
    match fld w 0 7 with
    | 0 => decR2 w .jr
    | 1 => decZ w .ret
    | _ => .error 2
  | 0x07 => decLd w .ld
  | 0x08 => decLd w .ldAcq
  | 0x09 => decSt w .st
  | 0x0A => decSt w .stRel
  | 0x0B =>
    match fld w 0 3 with
    | 0 => do
      let d ← rgop w 19 [0, 1, 2, 3] 3
      let a ← rg w 13 4
      let b ← rg w 7 5
      .ok (.ldx d a b (fin w 3 4))
    | 1 => do
      let d ← roct w 19 3
      let a ← rg w 13 4
      let b ← rg w 7 5
      rz w 3 4 7
      .ok (.stx d a b)
    | 2 => do
      rz w 19 6 3
      let a ← rg w 13 4
      let b ← rg w 7 5
      rz w 3 4 7
      .ok (.vrcl a b)
    | 3 => decL2 w .vqry
    | _ => .error 2
  | 0x0C =>
    match fld w 0 3 with
    | 0 => decL3 w .aadd
    | 1 => decL3 w .afadd
    | 2 => decL3 w .amin
    | 3 => decL3 w .amax
    | 4 => decL3 w .aand
    | 5 => decL3 w .aor
    | 6 => decL3 w .axor
    | _ => decL3 w .axch
  | 0x0D =>
    match fld w 0 3 with
    | 0 => do
      let d ← rpair w 19 3
      let a ← rg w 13 4
      rz w 7 6 5
      .ok (.acas d a (fin w 3 4))
    | _ => .error 2
  | 0x0E =>
    match fld w 5 3 with
    | 0 => decCvLd w .ldv
    | 1 => decCvSt w .stv
    | 2 => decCvLd w .ldvAdv
    | 3 => decCvSt w .stvAdv
    | _ => .error 2
  | 0x0F => decFence w
  | 0x10 =>
    if fld w 12 1 == 0 then do
      let d ← rg w 19 3
      rz w 13 6 4
      need (knExists (fld w 6 6) && fld w 0 6 == 0) 8
      .ok (.kget d (fin w 6 6))
    else do
      rz w 19 6 3
      let a ← rg w 13 4
      need (knExists (fld w 6 6) && fld w 6 6 != 0x10 && (a.val == 0 || fld w 0 6 == 0)) 8
      .ok (.kset a (fin w 6 6) (fin w 0 6))
  | 0x11 =>
    match fld w 0 7 with
    | 0 => decR3 w .wait
    | 1 => decZ w .yield
    | 2 => decZ w .split
    | 3 => decZ w .lwait
    | 4 => decR2 w .migr
    | 5 => do
      rz w 7 6 5
      .ok (.trap (bits w 13 12))
    | 6 => decZ w .eret
    | 7 => decZ w .halt
    | _ => .error 2
  | 0x12 => do
    let d ← rg w 19 3
    rz w 13 6 4
    match fld w 0 13 with
    | 2 => .ok (.gang d 2)
    | 4 => .ok (.gang d 4)
    | 8 => .ok (.gang d 8)
    | 16 => .ok (.gang d 16)
    | _ => .error 8
  | 0x13 =>
    match fld w 0 3 with
    | 0 => decRecv w .recv
    | 1 => decRecv w .recvt
    | 2 => do
      let d ← rpair w 19 3
      rz w 13 6 4
      let b ← rg w 7 5
      rz w 3 4 7
      .ok (.peek d b)
    | 3 => do
      rz w 19 6 3
      rz w 13 6 4
      rz w 7 6 5
      rz w 3 4 7
      .ok .hdone
    | _ => .error 2
  | 0x14 =>
    match fld w 0 3 with
    | 0 => do
      let d ← rg w 19 3
      let a ← rgop w 13 [0, 1, 2, 3] 4
      let b ← rg w 7 5
      rz w 3 4 7
      .ok (.qpush d a b)
    | 1 => do
      let d ← rgop w 19 [2, 3] 3
      let a ← rg w 13 4
      rz w 7 6 5
      .ok (.qpop d a (fin w 3 4))
    | 2 => decQ2 w .qstat
    | _ => .error 2
  | 0x15 =>
    match fld w 0 3 with
    | 0 => decQ3 w .cbinit
    | 1 => decL2 w .cbwait
    | 2 => decL2 w .cbacq
    | 3 => do
      rz w 19 6 3
      let a ← rg w 13 4
      let b ← rg w 7 5
      rz w 3 4 7
      .ok (.cbrel a b)
    | _ => .error 2
  | 0x16 =>
    match fld w 0 3 with
    | 0 => do
      rz w 19 6 3
      rz w 13 6 4
      rz w 12 1 5
      rz w 3 4 7
      .ok (.bar (fin w 7 5))
    | 1 => do
      rz w 19 6 3
      let a ← rg w 13 4
      rz w 12 1 5
      rz w 3 4 7
      .ok (.grpst (fin w 7 5) a)
    | 2 => do
      let d ← rg w 19 3
      rz w 13 6 4
      rz w 12 1 5
      .ok (.grpld d (fin w 7 5) (fin w 3 4))
    | _ => .error 2
  | 0x17 =>
    match fld w 0 3 with
    | 0 => do
      rz w 19 6 3
      let a ← rgop w 13 [0, 3] 4
      let b ← rpair w 7 5
      rz w 3 4 7
      .ok (.gqpush a b)
    | 1 => do
      let d ← roct w 19 3
      let a ← rg w 13 4
      let b ← rg w 7 5
      .ok (.gqpop d a b (fin w 3 4))
    | _ => .error 2
  | 0x18 =>
    match fld w 0 3 with
    | 0 => do
      let d ← rg w 19 3
      rz w 13 6 4
      rz w 7 6 5
      rz w 3 4 7
      .ok (.tqtake d)
    | 1 => do
      rz w 19 6 3
      let a ← rgop w 13 [0, 3] 4
      let b ← rg w 7 5
      -- with an octet there is no count (R316)
      if a.w.val ≠ 0 ∧ b.val ≠ 0 then .error 5
      rz w 3 4 7
      .ok (.postc a b)
    | _ => .error 2
  | 0x19 => decEngine w
  | 0x1A =>
    match fld w 0 7 with
    | 0 => decAB w .tlbinv
    | 1 => do
      rz w 19 6 3
      rz w 13 6 4
      let b ← rg w 7 5
      .ok (.tlbinva b)
    | 2 => decR3 w .dirset
    | 3 => decR2 w .repnew
    | 4 => decR3 w .repret
    | 5 => decR3 w .capset
    | 6 => decR3 w .treeset
    | 7 => decR3 w .fwdset
    | 8 => decR3 w .sptset
    | 9 => decAB w .svcset
    | 10 => decR3 w .placeq
    | _ => .error 2
  | 0x1B =>
    match fld w 0 3 with
    | 0 => decQ2 w .ctrget
    | 1 => do
      rz w 19 6 3
      let a ← rg w 13 4
      rz w 7 6 5
      rz w 3 4 7
      .ok (.ctrclr a)
    | 2 => decQ3 w .meter
    | 3 => do
      let d ← rg w 19 3
      rz w 13 6 4
      let b ← rg w 7 5
      rz w 3 4 7
      .ok (.genget d b)
    | 4 => decQ3 w .lifeget
    | _ => .error 2
  | 0x1C =>
    match fld w 0 3 with
    | 0 => do
      let d ← reg6 w 3
      let a ← rg w 13 4
      rz w 7 6 5
      .ok (.eld d a (fin w 3 4))
    | 1 => do
      let d ← reg6 w 3
      let a ← rg w 13 4
      rz w 7 6 5
      rz w 3 4 7
      .ok (.est d a)
    | _ => .error 2
  | _ => .error 1
where
  /-- d of eld and est: width 0, number 0 to 3 (R218). -/
  reg6 (w code : Nat) : Except Nat (Fin 4) :=
    if h : fld w 19 6 < 4 then .ok ⟨fld w 19 6, h⟩ else .error code
  /-- fence and pfetch (R244). -/
  decFence (w : Nat) : Except Nat Instr :=
    match fld w 0 7 with
    | 0x18 => decA w .pfetchTlb
    | 0x19 => decA w .pfetchPc
    | 0x1A => decA w .pfetchOwn
    | fn =>
      if h : fn % 8 < 6 then
        match fn / 8 with
        | 0 => decZ w (.fenceFull ⟨fn % 8, h⟩)
        | 1 => decZ w (.fenceAcq ⟨fn % 8, h⟩)
        | 2 => decZ w (.fenceRel ⟨fn % 8, h⟩)
        | _ => .error 2
      else .error 2
  /-- recv and recvt (R294). -/
  decRecv (w : Nat) (k : GPair → GOp → R → Look → Instr) : Except Nat Instr := do
    let d ← rpair w 19 3
    let a ← rgop w 13 [0, 3] 4
    let b ← rg w 7 5
    .ok (k d a b (fin w 3 4))
  /-- Engine commands (R107). -/
  decEngine (w : Nat) : Except Nat Instr :=
    match fld w 0 7 with
    | 0x00 => decSe w .cpCopy
    | 0x01 => decSe w .cpGather
    | 0x02 => decSe w .cpScatter
    | 0x03 => decSe w .cpFill
    | 0x04 => decSe w .cpToken
    | 0x20 => decSe w .sgRead
    | 0x40 => decSe w .mremote
    | 0x60 => decSe w .svG1
    | 0x61 => decSe w .svG2
    | 0x62 => decSe w .svG3
    | 0x63 => decSe w .svCg
    | 0x64 => decSe w .svDiag
    | 0x65 => decSe w .svSwapq
    | 0x66 => decSe w .svPerm
    | 0x67 => decSe w .svProb
    | 0x68 => decSe w .svNorm
    | 0x69 => decSe w .svInit
    | 0x6A => decSe w .svSync
    | _ => .error 2

/-! ## The A map (R105) -/

/-- The register forms of R134. -/
def decAlu (w : Nat) : Except Nat Instr :=
  match fld w 0 7 with
  | 0x0 => decR3 w .add
  | 0x1 => decR3 w .sub
  | 0x2 => decR3 w .and
  | 0x3 => decR3 w .or
  | 0x4 => decR3 w .xor
  | 0x5 => decR3 w .shl
  | 0x6 => decR3 w .shr
  | 0x7 => decR3 w .sra
  | 0x8 => decR2i w .shli
  | 0x9 => decR2i w .shri
  | 0xa => decR2i w .srai
  | 0xb => decR3 w .slt
  | 0xc => decR3 w .sltu
  | 0xd => decR3 w .seq
  | 0xe => decR3 w .min
  | 0xf => decR3 w .minu
  | 0x10 => decR3 w .max
  | 0x11 => decR3 w .maxu
  | 0x12 => decR3 w .mul
  | 0x13 => decR3 w .mulh
  | 0x14 => decR3 w .mulhu
  | 0x15 => decR2 w .clz
  | 0x16 => decR2 w .popc
  | 0x17 => decR3 w .bext
  | 0x18 => decR3 w .bdep
  | 0x19 => decR3 w .sel
  | fn =>
    if fn / 4 == 7 then decR3 w (.lea ⟨fn % 4, by omega⟩)
    else if fn / 8 == 4 then decR3 w (.addsat ⟨fn / 2 % 4, by omega⟩ (fn % 2 == 1))
    else if fn / 8 == 5 then decR3 w (.subsat ⟨fn / 2 % 4, by omega⟩ (fn % 2 == 1))
    else .error 2

/-- The vector operation of an A-slot or LV word at majors 0x28 to 0x3B, and vcmp. -/
def decVec (w : Nat) : Except Nat Instr :=
  match fld w 25 6 with
  | 0x28 => decV (.vadd (fin w 0 4) (rawV w 18) (rawV w 11) (rawV w 4))
  | 0x29 => decV (.vsub (fin w 0 4) (rawV w 18) (rawV w 11) (rawV w 4))
  | 0x2a => decV (.vmul (fin w 0 4) (rawV w 18) (rawV w 11) (rawV w 4))
  | 0x2b => decV (.vfma (fin w 0 4) (rawV w 18) (rawV w 11) (rawV w 4))
  | 0x2c => decV (.vmin (fin w 0 4) (rawV w 18) (rawV w 11) (rawV w 4))
  | 0x2d => decV (.vmax (fin w 0 4) (rawV w 18) (rawV w 11) (rawV w 4))
  | 0x2e => decV (.vminp (fin w 0 4) (rawV w 18) (rawV w 11) (rawV w 4))
  | 0x2f => decV (.vmaxp (fin w 0 4) (rawV w 18) (rawV w 11) (rawV w 4))
  | 0x30 =>
    match fld w 0 4 with
    | 0 => decV (.vand (rawV w 18) (rawV w 11) (rawV w 4))
    | 1 => decV (.vor (rawV w 18) (rawV w 11) (rawV w 4))
    | 2 => decV (.vxor (rawV w 18) (rawV w 11) (rawV w 4))
    | 3 => decV (.vandn (rawV w 18) (rawV w 11) (rawV w 4))
    | _ => .error 9
  | 0x31 =>
    match fld w 2 2 with
    | 0 => decV (.vshl (low2 w) (rawV w 18) (rawV w 11) (rawV w 4))
    | 1 => decV (.vshr (low2 w) (rawV w 18) (rawV w 11) (rawV w 4))
    | 2 => decV (.vsra (low2 w) (rawV w 18) (rawV w 11) (rawV w 4))
    | _ => .error 9
  | 0x32 => do
    let cs := vecChecks (.vcvt (fin w 0 4) (fin w 7 4) (rawV w 18) (rawV w 11))
    runChecks (cs.take 2)
    rz w 4 3 5
    runChecks (cs.drop 2)
    .ok (.vcvt (fin w 0 4) (fin w 7 4) (rawV w 18) (rawV w 11))
  | 0x33 =>
    match fld w 4 3 with
    | 0 => decV (.vrcp (fin w 0 4) (fin w 7 4) (rawV w 18) (rawV w 11))
    | 1 => decV (.vrsq (fin w 0 4) (fin w 7 4) (rawV w 18) (rawV w 11))
    | 2 => decV (.vexp2 (fin w 0 4) (fin w 7 4) (rawV w 18) (rawV w 11))
    | 3 => decV (.vlog2 (fin w 0 4) (fin w 7 4) (rawV w 18) (rawV w 11))
    | 4 => decV (.vtanh (fin w 0 4) (fin w 7 4) (rawV w 18) (rawV w 11))
    | 5 => decV (.vsigm (fin w 0 4) (fin w 7 4) (rawV w 18) (rawV w 11))
    | _ => .error 2
  | 0x34 =>
    match fld w 2 2 with
    | 0 => decV (.vperm (low2 w) (rawV w 18) (rawV w 11) (rawV w 4))
    | 1 => decV (.vbcast (low2 w) (rawV w 18) (rawV w 11) (fin w 4 7))
    | 2 => decV (.vshuf (low2 w) (rawV w 18) (rawV w 11) (fin w 4 7))
    | _ => .error 9
  | 0x35 => decRed w (fun d a op => .vred (fin w 0 4) op d a) (fld w 4 3 == 0)
  | 0x36 => decRed w (fun d a op => .vscan (fin w 0 4) op (fld w 4 1 == 1) d a) (fld w 5 2 == 0)
  | 0x37 => decV (.vrng (fin w 0 4) (rawV w 18) (rawV w 11) (rawV w 4))
  | 0x38 =>
    if fld w 4 1 == 0 then decQuant w (.vquant (fin w 0 4) (rawV w 18) (rawV w 11))
    else decQuant w (.vdeq (fin w 0 4) (rawV w 18) (rawV w 11))
  | 0x39 => do
    runChecks (vecChecks (.vcmul (rawV w 18) (rawV w 11) (rawV w 4)))
    need (fld w 0 4 == 15) 9
    .ok (.vcmul (rawV w 18) (rawV w 11) (rawV w 4))
  | 0x3A => decV (.vsel (fin w 0 4) (rawV w 18) (rawV w 11) (rawV w 4))
  | 0x3B => do
    let cs := vecChecks (.vxall (fin w 0 4) (rawV w 18) (rawV w 11))
    runChecks (cs.take 2)
    rz w 4 7 5
    runChecks (cs.drop 2)
    .ok (.vxall (fin w 0 4) (rawV w 18) (rawV w 11))
  | _ => .error 1
where
  /-- The element-size code in ty[1:0]. -/
  low2 (w : Nat) : Fin 4 := ⟨fld w 0 2, Nat.mod_lt _ (by decide)⟩
  /-- vred and vscan: the operator in b bits 10:7, the rest of b zero but for vscan's bit 4 (R177, R178). -/
  decRed (w : Nat) (k : VOp → VOp → Fin 8 → Instr) (zeros : Bool) : Except Nat Instr := do
    let i := k (rawV w 18) (rawV w 11) (fin w 7 3)
    let cs := vecChecks i
    runChecks (cs.take 2)
    need (zeros && fld w 10 1 == 0) 5
    runChecks (cs.drop 2)
    .ok i
  /-- vquant and vdeq: b bits 10:5 zero (R180). -/
  decQuant (w : Nat) (i : Instr) : Except Nat Instr := do
    let cs := vecChecks i
    runChecks (cs.take 2)
    rz w 5 6 5
    runChecks (cs.drop 2)
    .ok i

/-- An A-slot word; the error is a field code. -/
def decA' (w : Nat) : Except Nat Instr :=
  match fld w 25 6 with
  | 0x20 => do
    rz w 0 25 12
    .ok .nopA
  | 0x21 => decAlu w
  | 0x22 =>
    match fld w 0 3 with
    | 0 => decL3 w .div
    | 1 => decL3 w .divu
    | 2 => decL3 w .rem
    | 3 => decL3 w .remu
    | _ => .error 2
  | 0x23 => decI w .addi
  | 0x24 => decI w .andi
  | 0x25 => decI w .ori
  | 0x26 => decI w .xori
  | 0x27 => decI w .slti
  | 0x3C => do
    let pd ← rp w 20 3
    let i : Instr := .vcmp pd (fin w 2 4) ⟨fld w 0 2, by unfold fld; omega⟩ (rawV w 13) (rawV w 6)
    decV i
  | 0x3D => decPred w
  | 0x3E =>
    match fld w 0 3 with
    | 0 => do
      let d ← re w 21 3
      rz w 17 4 4
      rz w 13 4 5
      let g ← rg w 7 6
      rz w 3 4 7
      .ok (.eclr d g)
    | 1 => do
      let d ← re w 21 3
      let a ← re w 17 4
      rz w 13 4 5
      let g ← rpair w 7 6
      .ok (.eline d a g (fin w 3 4))
    | 2 => decE3 w .eadd
    | 3 => decE3 w .emax
    | 4 => decE3 w .einf
    | 5 => decE2 w .econj
    | 6 => decE2 w .esimp
    | _ => do
      rz w 21 4 3
      let a ← re w 17 4
      rz w 13 4 5
      let g ← rg w 7 6
      rz w 3 4 7
      .ok (.ecnt a g)
  | 0x3F =>
    match fld w 0 3 with
    | 0 => decEg w .eeval
    | 1 => decEg w .earg
    | 2 => do
      rz w 21 4 3
      let a ← re w 17 4
      rz w 13 4 5
      let g ← rpair w 7 6
      rz w 3 4 7
      .ok (.eget a g)
    | _ => .error 2
  | _ => decVec w
where
  /-- Predicate operations (R182). -/
  decPred (w : Nat) : Except Nat Instr :=
    match fld w 0 4 with
    | 0 => pp w .pand
    | 1 => pp w .por
    | 2 => do
      let pd ← rp w 20 3
      let pa ← rp w 15 4
      rz w 10 5 5
      rz w 4 6 6
      .ok (.pnot pd pa)
    | 3 => pg w .pcnt
    | 4 => pg w .pfirst
    | 5 => do
      let pd ← rp w 20 3
      rz w 15 5 4
      rz w 10 5 5
      let g ← rg w 4 6
      .ok (.plim pd g)
    | _ => .error 2
  /-- pd, pa, pb; g zero. -/
  pp (w : Nat) (k : Fin 8 → Fin 8 → Fin 8 → Instr) : Except Nat Instr := do
    let pd ← rp w 20 3
    let pa ← rp w 15 4
    let pb ← rp w 10 5
    rz w 4 6 6
    .ok (k pd pa pb)
  /-- pa and g; pd, pb zero. -/
  pg (w : Nat) (k : R → Fin 8 → Instr) : Except Nat Instr := do
    rz w 20 5 3
    let pa ← rp w 15 4
    rz w 10 5 5
    let g ← rg w 4 6
    .ok (k g pa)

/-! ## The lone map (R106) -/

/-- Word 1 of an LV group under the rule of its operation (R98, R159). -/
def decLvx (r : LvRule) (b : Nat) (w1 : Nat) : Except Nat LVX := do
  need (if r.usesC then (rawV w1 25).ok b else (rawV w1 25) == ⟨0, 0⟩) 6
  let pg ← decPg w1
  let c := rawV w1 25
  let rs ← decRsel w1
  let x : LVX := ⟨c, pg, fld w1 19 1 == 1, fld w1 18 1 == 1, rs, fin w1 10 4⟩
  runChecks (lvxChecks r b x)
  rz w1 0 10 12
  .ok x
where
  /-- A single predicate, or the no-guard octet p0–p7 (R159). -/
  decPg (w1 : Nat) : Except Nat (Option (Fin 8)) :=
    if h : fld w1 20 5 < 8 then .ok (some ⟨fld w1 20 5, h⟩)
    else if fld w1 20 5 == 24 then .ok none
    else .error 10
  /-- rsel (R98): 0 none, 8 to 12 a mode; the guard's check comes before. -/
  decRsel (w1 : Nat) : Except Nat (Option (Fin 5)) :=
    if h : fld w1 14 4 - 8 < 5 then
      if fld w1 14 4 == 0 then .ok none
      else if 8 ≤ fld w1 14 4 then .ok (some ⟨fld w1 14 4 - 8, h⟩)
      else .error 11
    else .error 11

/-- Errors of word 0 or word 1 of a lone group. -/
def inWord {α : Type} (k : Nat) (e : Except Nat α) : Except IllEnc α :=
  match e with
  | .ok a => .ok a
  | .error c => .error ⟨k, c⟩

/-- The vector operation of word 0 and its word 1. -/
def decLv (w0 w1 : Nat) : Except IllEnc Instr := do
  let p ← inWord 0 (decVec w0)
  match lvRule p with
  | some r => do
    let x ← inWord 1 (lvCheck r (cBits p) w1)
    match lvOf p x with
    | some i => .ok i
    | none => .error ⟨0, 1⟩
  | none => .error ⟨0, 1⟩
where
  /-- The guard's acceptance comes before rsel (R111: highest bit first). -/
  lvCheck (r : LvRule) (b w1 : Nat) : Except Nat LVX := do
    need (if r.usesC then (rawV w1 25).ok b else (rawV w1 25) == ⟨0, 0⟩) 6
    need (if fld w1 20 5 == 24 then r.noGuard && fld w1 19 1 == 0 else r.single && fld w1 20 5 < 8) 10
    decLvx r b w1

/-- Matrix commands, format LK (R190): word 0's fields, then word 1's. -/
def decMx (w0 w1 : Nat) : Except IllEnc Instr :=
  match fld w0 0 4 with
  | 0 => do
    let (acc, ga, gb) ← inWord 0 (do
      let acc ← rp w0 20 3
      let ga ← rpair w0 14 4
      let gb ← rg w0 8 5
      rz w0 4 4 7
      .ok (acc, ga, gb))
    inWord 1 (do
      need (fld w1 16 16 != 0) 8
      rz w1 0 5 12
      .ok (.mma acc ga gb (bits w1 16 16) (fin w1 10 6) (fin w1 5 5)))
  | 1 => do
    let (acc, ga, gb) ← inWord 0 (do
      let acc ← rp w0 20 3
      let ga ← rpair w0 14 4
      let gb ← rpair w0 8 5
      rz w0 4 4 7
      .ok (acc, ga, gb))
    inWord 1 (do
      need (fld w1 16 16 != 0) 8
      rz w1 1 4 12
      .ok (.mmas acc ga gb (bits w1 16 16) (fin w1 10 6) (fin w1 5 5) (fld w1 0 1 == 1)))
  | 2 => do
    let acc ← inWord 0 (do
      let acc ← rp w0 20 3
      rz w0 14 6 4
      rz w0 8 6 5
      rz w0 4 4 7
      .ok acc)
    inWord 1 (do
      rz w1 5 27 8
      rz w1 1 4 12
      .ok (.mzero acc (fld w1 0 1 == 1)))
  | 3 => do
    let i ← inWord 0 (do
      rz w0 20 5 3
      let ga ← rg w0 14 4
      let gb ← rg w0 8 5
      rz w0 4 4 7
      .ok (Instr.mwb ga gb))
    noWord1 w1 i
  | 4 => do
    let (acc, ga) ← inWord 0 (do
      let acc ← rp w0 20 3
      let ga ← rg w0 14 4
      rz w0 8 6 5
      rz w0 4 4 7
      .ok (acc, ga))
    inWord 1 (do
      rz w1 16 16 8
      rz w1 1 4 12
      .ok (.mdrain acc ga (fin w1 10 6) (fin w1 5 5) (fld w1 0 1 == 1)))
  | 5 => do
    let i ← inWord 0 (do
      let acc ← rp w0 20 3
      let ga ← rg w0 14 4
      let gb ← rg w0 8 5
      rz w0 4 4 7
      .ok (Instr.rowout acc ga gb))
    noWord1 w1 i
  | 6 => do
    let i ← inWord 0 (accA w0 Instr.asave)
    noWord1 w1 i
  | 7 => do
    let i ← inWord 0 (accA w0 Instr.arest)
    noWord1 w1 i
  | 8 => do
    let i ← inWord 0 (do
      let acc ← rp w0 20 3
      let ga ← rg w0 14 4
      rz w0 8 6 5
      .ok (Instr.mstat acc ga (fin w0 4 4)))
    noWord1 w1 i
  | 9 => do
    inWord 0 (do
      rz w0 20 5 3
      rz w0 14 6 4
      rz w0 8 6 5
      rz w0 4 4 7)
    inWord 1 (do
      rz w1 5 27 8
      rz w1 1 4 12
      .ok (.mfence (fld w1 0 1 == 1)))
  | _ => .error ⟨0, 2⟩
where
  /-- acc and ga; gb and look zero. -/
  accA (w0 : Nat) (k : Fin 8 → R → Instr) : Except Nat Instr := do
    let acc ← rp w0 20 3
    let ga ← rg w0 14 4
    rz w0 8 6 5
    rz w0 4 4 7
    .ok (k acc ga)
  /-- A command that uses no field of word 1. -/
  noWord1 (w1 : Nat) (i : Instr) : Except IllEnc Instr := inWord 1 (do
    rz w1 5 27 8
    rz w1 0 5 12
    .ok i)

/-- The sending instructions, format LQ (R287). -/
def decSend (w0 w1 : Nat) : Except IllEnc Instr :=
  match fld w0 25 6, fld w0 0 7 with
  | 0x05, 0 => do
    let (d, a, b) ← inWord 0 (sendW0 w0)
    inWord 1 (do
      need (fld w1 26 2 == 2) 2
      need (a.w.val == 0 || fld w1 24 2 == 0) 8
      rz w1 0 24 8
      .ok (.sendx d a b (fin w1 24 2) (fin w1 28 4)))
  | 0x06, 0 => do
    let (d, a, b) ← inWord 0 (sendW0 w0)
    inWord 1 (do
      need (fld w1 26 2 < 2) 2
      rz w1 28 4 7
      need (a.w.val == 0 || fld w1 24 2 == 0) 8
      .ok (.send d a b ⟨fld w1 26 2 % 2, Nat.mod_lt _ (by decide)⟩ (fin w1 24 2) (bits w1 0 24)))
  | 0x06, 1 => do
    let (d, a, b) ← inWord 0 (do
      let d ← rg w0 19 3
      let a ← rg w0 13 4
      let b ← rg w0 7 5
      .ok (d, a, b))
    inWord 1 (do
      need (fld w1 26 2 == 0) 2
      rz w1 28 4 7
      need (fld w1 24 2 != 0) 8
      .ok (.sendd d a b (fin w1 24 2) (bits w1 0 24)))
  | 0x07, 0 => do
    let (d, a, b) ← inWord 0 (do
      let d ← if h : fld w0 19 6 < 8 then Except.ok (⟨fld w0 19 6, h⟩ : Fin 8) else .error 3
      let a ← rg w0 13 4
      let b ← rg w0 7 5
      .ok (d, a, b))
    inWord 1 (do
      need (fld w1 26 2 == 0) 2
      rz w1 28 4 7
      rz w1 0 26 8
      .ok (.spawn d a b))
  | _, _ => .error ⟨0, 2⟩
where
  /-- d, payload and target of send and sendx. -/
  sendW0 (w0 : Nat) : Except Nat (R × GOp × R) := do
    let d ← rg w0 19 3
    let a ← rgop w0 13 [0, 1, 2, 3] 4
    let b ← rg w0 7 5
    .ok (d, a, b)

/-- A lone group (R93, R106). -/
def decLone (w0 w1 : Nat) : Except IllEnc Instr :=
  match fld w0 25 6 with
  | 0x01 =>
    match fld w0 0 4 with
    | 0 => inWord 0 (decLiD w0 w1 .movi)
    | 1 => inWord 0 (decLiD w0 w1 .movhi)
    | 2 => inWord 0 (decLi w0 w1 .addl)
    | 3 => inWord 0 (decLi w0 w1 .andl)
    | 4 => inWord 0 (decLi w0 w1 .orl)
    | 5 => inWord 0 (decLi w0 w1 .xorl)
    | _ => .error ⟨0, 2⟩
  | 0x03 =>
    match fld w0 0 4 with
    | 0 => inWord 0 (decLiJ w0 w1 .jmp)
    | 1 => inWord 0 (decLiJ w0 w1 .callLong)
    | _ => .error ⟨0, 2⟩
  | 0x04 =>
    match fld w0 0 4 with
    | 0 => inWord 0 (do
      let t ← rgop w0 19 (szWidths (fld w0 6 3)) 3
      let b ← rg w0 13 4
      need (szLoad (fin w0 6 3)) 9
      need (fld w0 4 2 < 2) 10
      .ok (.ldLong t b (fin w0 9 4) (fin w0 6 3) (fld w0 4 2 == 1) (bits w1 0 32)))
    | 1 => inWord 0 (do
      let t ← rgop w0 19 (szWidths (fld w0 6 3)) 3
      let b ← rg w0 13 4
      rz w0 9 4 7
      need (szStore (fin w0 6 3)) 9
      need (fld w0 4 1 == 0) 10
      .ok (.stLong t b (fin w0 6 3) (fld w0 5 1 == 1) (bits w1 0 32)))
    | _ => .error ⟨0, 2⟩
  | 0x05 => decSend w0 w1
  | 0x06 => decSend w0 w1
  | 0x07 => decSend w0 w1
  | 0x08 => inWord 0 (do
      rz w0 0 2 12
      .ok (.safe (bits w0 10 15) (bits w0 2 8) (bits w1 0 32)))
  | 0x09 => do
    let cg ← inWord 0 (do
      let cg ← rg w0 10 6
      rz w0 0 10 12
      .ok cg)
    inWord 1 (do
      need (cg.val == 0 || fld w1 0 32 == 0) 8
      .ok (.lathe (fin w0 21 4) (fin w0 16 5) cg (bits w1 0 32)))
  | 0x0A => decMx w0 w1
  | m => if 0x28 ≤ m && m ≤ 0x3B then decLv w0 w1 else .error ⟨0, 1⟩

/-- The two-writer check (R100): a pair whose instructions share a written register. -/
def twoWriters (c a : Instr) : Bool := c.writes.any (fun r => a.writes.contains r)

/-- A group of two words, word 0 at the lower address (R93, R111). -/
def decodeGroup (w0 w1 : Nat) : Except IllEnc Group :=
  if fld w0 31 1 == 1 then
    match decLone w0 w1 with
    | .ok i => .ok (.lone i)
    | .error e => .error e
  else if fld w1 31 1 == 1 then .error ⟨1, 0⟩
  else
    match decC w0 with
    | .error c => .error ⟨0, c⟩
    | .ok c =>
      match decA' w1 with
      | .error k => .error ⟨1, k⟩
      | .ok a => if twoWriters c a then .error ⟨1, 13⟩ else .ok (.pair c a)

/-- The words in which an opcode-table word stands: a C-slot word with `nop` beside it, an A-slot word with `nop`
beside it, or a lone group, bits 63:32 its word 1. -/
def tableWords (nbits w : Nat) : Nat × Nat :=
  let w0 := w % 2 ^ 32
  if nbits ≤ 32 then
    if fld w0 31 1 == 1 then (w0, 0)
    else if fld w0 25 6 < 0x20 then (w0, 0x40000000)
    else (0, w0)
  else (w0, fld w 32 32)

/-- The instruction the decoder reads from the bits of an opcode-table row: of a pair, the instruction whose slot
the row's major belongs to. -/
def decodeTableWord (nbits w : Nat) : Option Instr :=
  match decodeGroup (tableWords nbits w).1 (tableWords nbits w).2 with
  | .ok (.lone i) => some i
  | .ok (.pair c a) => if (tableWords nbits w).1 == 0 && fld (tableWords nbits w).2 25 6 != 0x20 then some a
                       else if nbits ≤ 32 && fld w 25 6 == 0x20 then some a else some c
  | .error _ => none

/-! ## The encoder -/

/-- Where an instruction's words stand: a C-slot word, an A-slot word, or the two words of a lone group. -/
inductive Encoded where
  | cSlot (w : Nat)
  | aSlot (w : Nat)
  | lone (w0 w1 : Nat)
deriving DecidableEq, Repr

/-- A G6 field of a pair. -/
def encPair (k : GPair) : Nat := 16 + 2 * k.val
/-- A G6 field of an octet. -/
def encOct (k : GOct) : Nat := 48 + 8 * k.val
/-- A G6 field. -/
def encG (o : GOp) : Nat := o.w.val * 16 + o.n.val
/-- A V7 field. -/
def encV (o : VOp) : Nat := o.w.val * 32 + o.n.val
/-- A bit. -/
def encB (b : Bool) : Nat := if b then 1 else 0

/-- SR, SL and SE words: major, d, a, b and bits 6:0. -/
def encR (maj d a b lo : Nat) : Nat := maj * 2 ^ 25 + d * 2 ^ 19 + a * 2 ^ 13 + b * 2 ^ 7 + lo
/-- SI words. -/
def encI (maj d a imm : Nat) : Nat := maj * 2 ^ 25 + d * 2 ^ 19 + a * 2 ^ 13 + imm
/-- SM words. -/
def encM (maj t base look sz off : Nat) : Nat :=
  maj * 2 ^ 25 + t * 2 ^ 19 + base * 2 ^ 13 + look * 2 ^ 9 + sz * 2 ^ 6 + off
/-- SB words. -/
def encBr (maj a disp : Nat) : Nat := maj * 2 ^ 25 + a * 2 ^ 19 + disp
/-- VR words. -/
def encVr (maj d a b ty : Nat) : Nat := maj * 2 ^ 25 + d * 2 ^ 18 + a * 2 ^ 11 + b * 2 ^ 4 + ty
/-- PR words. -/
def encPr (pd pa pb g fn : Nat) : Nat := 0x3D * 2 ^ 25 + pd * 2 ^ 20 + pa * 2 ^ 15 + pb * 2 ^ 10 + g * 2 ^ 4 + fn
/-- ER words. -/
def encE (maj d a b g look fn : Nat) : Nat :=
  maj * 2 ^ 25 + d * 2 ^ 21 + a * 2 ^ 17 + b * 2 ^ 13 + g * 2 ^ 7 + look * 2 ^ 3 + fn
/-- CV words. -/
def encCv (v s look op : Nat) : Nat := 0x0E * 2 ^ 25 + v * 2 ^ 18 + s * 2 ^ 12 + look * 2 ^ 8 + op * 2 ^ 5
/-- Word 0 of an LI group. -/
def encLi (maj d a fn : Nat) : Nat := 2 ^ 31 + maj * 2 ^ 25 + d * 2 ^ 19 + a * 2 ^ 13 + fn
/-- Word 0 of an LK group. -/
def encK0 (acc ga gb look fn : Nat) : Nat :=
  2 ^ 31 + 0x0A * 2 ^ 25 + acc * 2 ^ 20 + ga * 2 ^ 14 + gb * 2 ^ 8 + look * 2 ^ 4 + fn
/-- Word 1 of an LK group. -/
def encK1 (ks rows cols flags : Nat) : Nat := ks * 2 ^ 16 + rows * 2 ^ 10 + cols * 2 ^ 5 + flags
/-- Word 1 of an LQ group. -/
def encQ1 (look vn nf imm : Nat) : Nat := look * 2 ^ 28 + vn * 2 ^ 26 + nf * 2 ^ 24 + imm
/-- Word 1 of an LV group. -/
def encLvx (x : LVX) : Nat :=
  encV x.c * 2 ^ 25 + (match x.pg with
                       | some k => k.val
                       | none => 24) * 2 ^ 20 + encB x.pn * 2 ^ 19 + encB x.sat * 2 ^ 18 +
    (match x.rsel with
     | some m => 8 + m.val
     | none => 0) * 2 ^ 14 + x.mod.val * 2 ^ 10

/-- The word of a pair-form vector operation of majors 0x28 to 0x3B. -/
def encVec (i : Instr) : Option Nat :=
  match i with
  | .vadd ty d a b => some (encVr 0x28 (encV d) (encV a) (encV b) ty)
  | .vsub ty d a b => some (encVr 0x29 (encV d) (encV a) (encV b) ty)
  | .vmul ty d a b => some (encVr 0x2a (encV d) (encV a) (encV b) ty)
  | .vfma ty d a b => some (encVr 0x2b (encV d) (encV a) (encV b) ty)
  | .vmin ty d a b => some (encVr 0x2c (encV d) (encV a) (encV b) ty)
  | .vmax ty d a b => some (encVr 0x2d (encV d) (encV a) (encV b) ty)
  | .vminp ty d a b => some (encVr 0x2e (encV d) (encV a) (encV b) ty)
  | .vmaxp ty d a b => some (encVr 0x2f (encV d) (encV a) (encV b) ty)
  | .vand d a b => some (encVr 0x30 (encV d) (encV a) (encV b) 0)
  | .vor d a b => some (encVr 0x30 (encV d) (encV a) (encV b) 1)
  | .vxor d a b => some (encVr 0x30 (encV d) (encV a) (encV b) 2)
  | .vandn d a b => some (encVr 0x30 (encV d) (encV a) (encV b) 3)
  | .vshl sz d a b => some (encVr 0x31 (encV d) (encV a) (encV b) (0 + sz))
  | .vshr sz d a b => some (encVr 0x31 (encV d) (encV a) (encV b) (4 + sz))
  | .vsra sz d a b => some (encVr 0x31 (encV d) (encV a) (encV b) (8 + sz))
  | .vcvt ty dty d a => some (encVr 0x32 (encV d) (encV a) (dty * 8) ty)
  | .vrcp ty look d a => some (encVr 0x33 (encV d) (encV a) (look * 8 + 0) ty)
  | .vrsq ty look d a => some (encVr 0x33 (encV d) (encV a) (look * 8 + 1) ty)
  | .vexp2 ty look d a => some (encVr 0x33 (encV d) (encV a) (look * 8 + 2) ty)
  | .vlog2 ty look d a => some (encVr 0x33 (encV d) (encV a) (look * 8 + 3) ty)
  | .vtanh ty look d a => some (encVr 0x33 (encV d) (encV a) (look * 8 + 4) ty)
  | .vsigm ty look d a => some (encVr 0x33 (encV d) (encV a) (look * 8 + 5) ty)
  | .vperm sz d a b => some (encVr 0x34 (encV d) (encV a) (encV b) sz)
  | .vbcast sz d a k => some (encVr 0x34 (encV d) (encV a) k (4 + sz))
  | .vshuf sz d a k => some (encVr 0x34 (encV d) (encV a) k (8 + sz))
  | .vred ty op d a => some (encVr 0x35 (encV d) (encV a) (op * 8) ty)
  | .vscan ty op ex d a => some (encVr 0x36 (encV d) (encV a) (op * 8 + encB ex) ty)
  | .vrng ty d a b => some (encVr 0x37 (encV d) (encV a) (encV b) ty)
  | .vquant ty d a => some (encVr 0x38 (encV d) (encV a) 0 ty)
  | .vdeq ty d a => some (encVr 0x38 (encV d) (encV a) 1 ty)
  | .vcmul d a b => some (encVr 0x39 (encV d) (encV a) (encV b) 15)
  | .vsel ty d a b => some (encVr 0x3A (encV d) (encV a) (encV b) ty)
  | .vxall ty d a => some (encVr 0x3B (encV d) (encV a) 0 ty)
  | _ => none

/-- The words of an instruction that is not a vector operation of majors 0x28 to 0x3B; none for an event. -/
def encScalar (i : Instr) : Option Encoded :=
  match i with
  | .nopC => some (.cSlot 0)
  | .nopA => some (.aSlot 0x40000000)
  | .add d a b => some (.aSlot (encR 0x21 d a b 0))
  | .sub d a b => some (.aSlot (encR 0x21 d a b 1))
  | .and d a b => some (.aSlot (encR 0x21 d a b 2))
  | .or d a b => some (.aSlot (encR 0x21 d a b 3))
  | .xor d a b => some (.aSlot (encR 0x21 d a b 4))
  | .shl d a b => some (.aSlot (encR 0x21 d a b 5))
  | .shr d a b => some (.aSlot (encR 0x21 d a b 6))
  | .sra d a b => some (.aSlot (encR 0x21 d a b 7))
  | .shli d a sh => some (.aSlot (encR 0x21 d a sh 8))
  | .shri d a sh => some (.aSlot (encR 0x21 d a sh 9))
  | .srai d a sh => some (.aSlot (encR 0x21 d a sh 10))
  | .slt d a b => some (.aSlot (encR 0x21 d a b 11))
  | .sltu d a b => some (.aSlot (encR 0x21 d a b 12))
  | .seq d a b => some (.aSlot (encR 0x21 d a b 13))
  | .min d a b => some (.aSlot (encR 0x21 d a b 14))
  | .minu d a b => some (.aSlot (encR 0x21 d a b 15))
  | .max d a b => some (.aSlot (encR 0x21 d a b 16))
  | .maxu d a b => some (.aSlot (encR 0x21 d a b 17))
  | .mul d a b => some (.aSlot (encR 0x21 d a b 18))
  | .mulh d a b => some (.aSlot (encR 0x21 d a b 19))
  | .mulhu d a b => some (.aSlot (encR 0x21 d a b 20))
  | .clz d a => some (.aSlot (encR 0x21 d a 0 21))
  | .popc d a => some (.aSlot (encR 0x21 d a 0 22))
  | .bext d a b => some (.aSlot (encR 0x21 d a b 23))
  | .bdep d a b => some (.aSlot (encR 0x21 d a b 24))
  | .sel d a b => some (.aSlot (encR 0x21 d a b 25))
  | .lea s d a b => some (.aSlot (encR 0x21 d a b (0x1C + s)))
  | .addsat lw sg d a b => some (.aSlot (encR 0x21 d a b (0x20 + 2 * lw + encB sg)))
  | .subsat lw sg d a b => some (.aSlot (encR 0x21 d a b (0x28 + 2 * lw + encB sg)))
  | .addi d a imm => some (.aSlot (encI 0x23 d a imm.toNat))
  | .andi d a imm => some (.aSlot (encI 0x24 d a imm.toNat))
  | .ori d a imm => some (.aSlot (encI 0x25 d a imm.toNat))
  | .xori d a imm => some (.aSlot (encI 0x26 d a imm.toNat))
  | .slti d a imm => some (.aSlot (encI 0x27 d a imm.toNat))
  | .movi d imm => some (.lone (encLi 1 d 0 0) imm.toNat)
  | .movhi d imm => some (.lone (encLi 1 d 0 1) imm.toNat)
  | .addl d a imm => some (.lone (encLi 1 d a 2) imm.toNat)
  | .andl d a imm => some (.lone (encLi 1 d a 3) imm.toNat)
  | .orl d a imm => some (.lone (encLi 1 d a 4) imm.toNat)
  | .xorl d a imm => some (.lone (encLi 1 d a 5) imm.toNat)
  | .div d a b look => some (.aSlot (encR 0x22 d a b (look * 8 + 0)))
  | .divu d a b look => some (.aSlot (encR 0x22 d a b (look * 8 + 1)))
  | .rem d a b look => some (.aSlot (encR 0x22 d a b (look * 8 + 2)))
  | .remu d a b look => some (.aSlot (encR 0x22 d a b (look * 8 + 3)))
  | .br disp => some (.cSlot (encBr 1 0 disp.toNat))
  | .bz a disp => some (.cSlot (encBr 2 a disp.toNat))
  | .bnz a disp => some (.cSlot (encBr 3 a disp.toNat))
  | .brdec a disp => some (.cSlot (encBr 4 a disp.toNat))
  | .call disp => some (.cSlot (encBr 5 0 disp.toNat))
  | .jr d a => some (.cSlot (encR 6 d a 0 0))
  | .ret => some (.cSlot (encR 6 0 0 0 1))
  | .jmp disp => some (.lone (encLi 3 0 0 0) disp.toNat)
  | .callLong disp => some (.lone (encLi 3 0 0 1) disp.toNat)
  | .ld t b look sz off => some (.cSlot (encM 7 (encG t) b look sz off))
  | .ldAcq t b look sz off => some (.cSlot (encM 8 (encG t) b look sz off))
  | .st t b sz off => some (.cSlot (encM 9 (encG t) b 0 sz off))
  | .stRel t b sz off => some (.cSlot (encM 10 (encG t) b 0 sz off))
  | .ldLong t b look sz acq off =>
      some (.lone (2 ^ 31 + encM 4 (encG t) b look sz (encB acq * 16)) off.toNat)
  | .stLong t b sz rel off =>
      some (.lone (2 ^ 31 + encM 4 (encG t) b 0 sz (encB rel * 32 + 1)) off.toNat)
  | .ldx d a b look => some (.cSlot (encR 0x0B (encG d) a b (look * 8)))
  | .stx d a b => some (.cSlot (encR 0x0B (encOct d) a b 1))
  | .vrcl a b => some (.cSlot (encR 0x0B 0 a b 2))
  | .vqry d a look => some (.cSlot (encR 0x0B d a 0 (look * 8 + 3)))
  | .aadd d a b look => some (.cSlot (encR 0x0C d a b (look * 8 + 0)))
  | .afadd d a b look => some (.cSlot (encR 0x0C d a b (look * 8 + 1)))
  | .amin d a b look => some (.cSlot (encR 0x0C d a b (look * 8 + 2)))
  | .amax d a b look => some (.cSlot (encR 0x0C d a b (look * 8 + 3)))
  | .aand d a b look => some (.cSlot (encR 0x0C d a b (look * 8 + 4)))
  | .aor d a b look => some (.cSlot (encR 0x0C d a b (look * 8 + 5)))
  | .axor d a b look => some (.cSlot (encR 0x0C d a b (look * 8 + 6)))
  | .axch d a b look => some (.cSlot (encR 0x0C d a b (look * 8 + 7)))
  | .acas d a look => some (.cSlot (encR 0x0D (encPair d) a 0 (look * 8)))
  | .ldv v s look => some (.cSlot (encCv (encV v) (encPair s) look 0))
  | .stv v s => some (.cSlot (encCv (encV v) (encPair s) 0 1))
  | .ldvAdv v s look => some (.cSlot (encCv (encV v) (encPair s) look 2))
  | .stvAdv v s => some (.cSlot (encCv (encV v) (encPair s) 0 3))
  | .fenceFull s => some (.cSlot (encR 0x0F 0 0 0 s))
  | .fenceAcq s => some (.cSlot (encR 0x0F 0 0 0 (8 + s)))
  | .fenceRel s => some (.cSlot (encR 0x0F 0 0 0 (16 + s)))
  | .pfetchTlb a => some (.cSlot (encR 0x0F 0 a 0 0x18))
  | .pfetchPc a => some (.cSlot (encR 0x0F 0 a 0 0x19))
  | .pfetchOwn a => some (.cSlot (encR 0x0F 0 a 0 0x1A))
  | .kget d kn => some (.cSlot (encI 0x10 d 0 (kn * 64)))
  | .kset a kn v6 => some (.cSlot (encI 0x10 0 a (4096 + kn * 64 + v6)))
  | .wait d a b => some (.cSlot (encR 0x11 d a b 0))
  | .yield => some (.cSlot (encR 0x11 0 0 0 1))
  | .split => some (.cSlot (encR 0x11 0 0 0 2))
  | .lwait => some (.cSlot (encR 0x11 0 0 0 3))
  | .migr d a => some (.cSlot (encR 0x11 d a 0 4))
  | .trap code => some (.cSlot (0x11 * 2 ^ 25 + code.toNat * 2 ^ 13 + 5))
  | .eret => some (.cSlot (encR 0x11 0 0 0 6))
  | .halt => some (.cSlot (encR 0x11 0 0 0 7))
  | .gang d n => some (.cSlot (encI 0x12 d 0 n))
  | .safe g p v => some (.lone (2 ^ 31 + 8 * 2 ^ 25 + g.toNat * 2 ^ 10 + p.toNat * 2 ^ 2) v.toNat)
  | .lathe n1 stride cg count =>
      some (.lone (2 ^ 31 + 9 * 2 ^ 25 + n1 * 2 ^ 21 + stride * 2 ^ 16 + cg * 2 ^ 10) count.toNat)
  | .vcmp pd ty cc a b =>
      some (.aSlot (0x3C * 2 ^ 25 + pd * 2 ^ 20 + encV a * 2 ^ 13 + encV b * 2 ^ 6 + ty * 2 ^ 2 + cc))
  | .pand pd pa pb => some (.aSlot (encPr pd pa pb 0 0))
  | .por pd pa pb => some (.aSlot (encPr pd pa pb 0 1))
  | .pnot pd pa => some (.aSlot (encPr pd pa 0 0 2))
  | .pcnt g pa => some (.aSlot (encPr 0 pa 0 g 3))
  | .pfirst g pa => some (.aSlot (encPr 0 pa 0 g 4))
  | .plim pd g => some (.aSlot (encPr pd 0 0 g 5))
  | .mma acc ga gb ks r c => some (.lone (encK0 acc (encPair ga) gb 0 0) (encK1 ks.toNat r c 0))
  | .mmas acc ga gb ks r c last => some (.lone (encK0 acc (encPair ga) (encPair gb) 0 1) (encK1 ks.toNat r c (encB last)))
  | .mzero acc pin => some (.lone (encK0 acc 0 0 0 2) (encB pin))
  | .mwb ga gb => some (.lone (encK0 0 ga gb 0 3) 0)
  | .mdrain acc ga r c keep => some (.lone (encK0 acc ga 0 0 4) (encK1 0 r c (encB keep)))
  | .rowout acc ga gb => some (.lone (encK0 acc ga gb 0 5) 0)
  | .asave acc ga => some (.lone (encK0 acc ga 0 0 6) 0)
  | .arest acc ga => some (.lone (encK0 acc ga 0 0 7) 0)
  | .mstat acc ga look => some (.lone (encK0 acc ga 0 look 8) 0)
  | .mfence all => some (.lone (encK0 0 0 0 0 9) (encB all))
  | .eclr d g => some (.aSlot (encE 0x3E d 0 0 g 0 0))
  | .eline d a g look => some (.aSlot (encE 0x3E d a 0 (encPair g) look 1))
  | .eadd d a b look => some (.aSlot (encE 0x3E d a b 0 look 2))
  | .emax d a b look => some (.aSlot (encE 0x3E d a b 0 look 3))
  | .einf d a b look => some (.aSlot (encE 0x3E d a b 0 look 4))
  | .econj d a look => some (.aSlot (encE 0x3E d a 0 0 look 5))
  | .esimp d a look => some (.aSlot (encE 0x3E d a 0 0 look 6))
  | .ecnt a g => some (.aSlot (encE 0x3E 0 a 0 g 0 7))
  | .eeval a g look => some (.aSlot (encE 0x3F 0 a 0 (encPair g) look 0))
  | .earg a g look => some (.aSlot (encE 0x3F 0 a 0 (encPair g) look 1))
  | .eget a g => some (.aSlot (encE 0x3F 0 a 0 (encPair g) 0 2))
  | .eld d a look => some (.cSlot (encR 0x1C d a 0 (look * 8)))
  | .est d a => some (.cSlot (encR 0x1C d a 0 1))
  | .send d a b vn nf tag => some (.lone (2 ^ 31 + encR 6 d (encG a) b 0) (encQ1 0 vn nf tag.toNat))
  | .sendd d a b nf tag => some (.lone (2 ^ 31 + encR 6 d a b 1) (encQ1 0 0 nf tag.toNat))
  | .sendx d a b nf look => some (.lone (2 ^ 31 + encR 5 d (encG a) b 0) (encQ1 look 2 nf 0))
  | .spawn d a b => some (.lone (2 ^ 31 + encR 7 d a b 0) 0)
  | .recv d a b look => some (.cSlot (encR 0x13 (encPair d) (encG a) b (look * 8)))
  | .recvt d a b look => some (.cSlot (encR 0x13 (encPair d) (encG a) b (look * 8 + 1)))
  | .peek d b => some (.cSlot (encR 0x13 (encPair d) 0 b 2))
  | .hdone => some (.cSlot (encR 0x13 0 0 0 3))
  | .qpush d a b => some (.cSlot (encR 0x14 d (encG a) b 0))
  | .qpop d a look => some (.cSlot (encR 0x14 (encG d) a 0 (look * 8 + 1)))
  | .qstat d a => some (.cSlot (encR 0x14 d a 0 2))
  | .cbinit d a b => some (.cSlot (encR 0x15 d a b 0))
  | .cbwait d a look => some (.cSlot (encR 0x15 d a 0 (look * 8 + 1)))
  | .cbacq d a look => some (.cSlot (encR 0x15 d a 0 (look * 8 + 2)))
  | .cbrel a b => some (.cSlot (encR 0x15 0 a b 3))
  | .bar n => some (.cSlot (encR 0x16 0 0 n 0))
  | .grpst n a => some (.cSlot (encR 0x16 0 a n 1))
  | .grpld d n look => some (.cSlot (encR 0x16 d 0 n (look * 8 + 2)))
  | .gqpush a b => some (.cSlot (encR 0x17 0 (encG a) (encPair b) 0))
  | .gqpop d a b look => some (.cSlot (encR 0x17 (encOct d) a b (look * 8 + 1)))
  | .tqtake d => some (.cSlot (encR 0x18 d 0 0 0))
  | .postc a b => some (.cSlot (encR 0x18 0 (encG a) b 1))
  | .cpCopy d a b => some (.cSlot (encR 0x19 d (encG a) (encG b) 0x0))
  | .cpGather d a b => some (.cSlot (encR 0x19 d (encG a) (encG b) 0x1))
  | .cpScatter d a b => some (.cSlot (encR 0x19 d (encG a) (encG b) 0x2))
  | .cpFill d a b => some (.cSlot (encR 0x19 d (encG a) (encG b) 0x3))
  | .cpToken d a b => some (.cSlot (encR 0x19 d (encG a) (encG b) 0x4))
  | .sgRead d a b => some (.cSlot (encR 0x19 d (encG a) (encG b) 0x20))
  | .mremote d a b => some (.cSlot (encR 0x19 d (encG a) (encG b) 0x40))
  | .svG1 d a b => some (.cSlot (encR 0x19 d (encG a) (encG b) 0x60))
  | .svG2 d a b => some (.cSlot (encR 0x19 d (encG a) (encG b) 0x61))
  | .svG3 d a b => some (.cSlot (encR 0x19 d (encG a) (encG b) 0x62))
  | .svCg d a b => some (.cSlot (encR 0x19 d (encG a) (encG b) 0x63))
  | .svDiag d a b => some (.cSlot (encR 0x19 d (encG a) (encG b) 0x64))
  | .svSwapq d a b => some (.cSlot (encR 0x19 d (encG a) (encG b) 0x65))
  | .svPerm d a b => some (.cSlot (encR 0x19 d (encG a) (encG b) 0x66))
  | .svProb d a b => some (.cSlot (encR 0x19 d (encG a) (encG b) 0x67))
  | .svNorm d a b => some (.cSlot (encR 0x19 d (encG a) (encG b) 0x68))
  | .svInit d a b => some (.cSlot (encR 0x19 d (encG a) (encG b) 0x69))
  | .svSync d a b => some (.cSlot (encR 0x19 d (encG a) (encG b) 0x6a))
  | .tlbinv a b => some (.cSlot (encR 0x1A 0 a b 0))
  | .tlbinva b => some (.cSlot (encR 0x1A 0 0 b 1))
  | .dirset d a b => some (.cSlot (encR 0x1A d a b 2))
  | .repnew d a => some (.cSlot (encR 0x1A d a 0 3))
  | .repret d a b => some (.cSlot (encR 0x1A d a b 4))
  | .capset d a b => some (.cSlot (encR 0x1A d a b 5))
  | .treeset d a b => some (.cSlot (encR 0x1A d a b 6))
  | .fwdset d a b => some (.cSlot (encR 0x1A d a b 7))
  | .sptset d a b => some (.cSlot (encR 0x1A d a b 8))
  | .svcset a b => some (.cSlot (encR 0x1A 0 a b 9))
  | .placeq d a b => some (.cSlot (encR 0x1A d a b 10))
  | .ctrget d a => some (.cSlot (encR 0x1B d a 0 0))
  | .ctrclr a => some (.cSlot (encR 0x1B 0 a 0 1))
  | .meter d a b => some (.cSlot (encR 0x1B d a b 2))
  | .genget d b => some (.cSlot (encR 0x1B d 0 b 3))
  | .lifeget d a b => some (.cSlot (encR 0x1B d a b 4))
  | _ => none

/-- The words of an instruction from the encoding tables; none for an event. -/
def encode (i : Instr) : Option Encoded :=
  match lvSplit i with
  | some (p, x) =>
    match encVec p with
    | some w => some (.lone (2 ^ 31 + w) (encLvx x))
    | none => none
  | none =>
    match encVec i with
    | some w => some (.aSlot w)
    | none => encScalar i

/-- What the decoder reads from the words of an encoded instruction. -/
def decodeEncoded (e : Encoded) : Option Instr :=
  match e with
  | .cSlot w =>
    match decC w with
    | .ok i => some i
    | .error _ => none
  | .aSlot w =>
    match decA' w with
    | .ok i => some i
    | .error _ => none
  | .lone w0 w1 =>
    match decLone w0 w1 with
    | .ok i => some i
    | .error _ => none

end Sys2Proof
end

