-- ==== Sys2Proof/Machine/VecOps.lean ====
section
/-! DEFINITION. What the vector instructions share (R156 to R162): lanes, guards, rounding, writing results; the lane functions
of R168 to R183. -/

namespace Sys2Proof.Machine

/-- Word 1 of an LV form as the pair form stands for it (R98): no guard, the mode in force, nothing else. -/
def plainX : LVX := { c := ⟨0, 0⟩, pg := none, pn := false, sat := false, rsel := none, mod := 0 }
/-- A modifier bit (R169, R170, R172). -/
def LVX_mod (x : LVX) (k : Nat) : Bool := x.mod.val / 2 ^ k % 2 == 1

/-- The rounding mode in force (R79). -/
def State.mode (s : State) (x : LVX) : Nat :=
  match x.rsel with
  | some r => r.val
  | none => s.src.kround.toNat
/-- How lane `l` is rounded (R80, R85). -/
def State.rnd (s : State) (x : LVX) (l : Nat) : Rnd :=
  { mode := s.mode x, sat := x.sat, rho := if s.mode x == 4 then srRho s.src.kseq l else 0 }
/-- How a lane is rounded where SR is read as RNE. -/
def State.rndPlain (s : State) (x : LVX) : Rnd := { mode := if s.mode x == 4 then 0 else s.mode x, sat := x.sat, rho := 0 }
/-- A lane is active (R159). -/
def State.activeLane (s : State) (x : LVX) (l : Nat) : Bool :=
  match x.pg with
  | none => true
  | some k => (s.rdP k.val).getLsbD l != x.pn
/-- An instruction that rounds at least one element under SR advances the counter of `kseq` (R80). -/
def State.countSr (s : State) (x : LVX) (ty n : Nat) : State :=
  if s.mode x == 4 && ty == 4 && (List.range n).any (s.activeLane x) then
    s.modMe (fun t => { t with kseq := (t.kseq >>> 32 <<< 32) ||| ((t.kseq + 1) &&& 0xFFFFFFFF#64) })
  else s

/-- Lane `l` of `b` bits of a group (R157). -/
def lane (b g l : Nat) : Nat := g / 2 ^ (b * l) % 2 ^ b
/-- Lanes of `b` bits, lane 0 lowest, as a group. -/
def packLanes (b : Nat) (l : List Nat) : Nat :=
  match l with
  | [] => 0
  | x :: rest => x % 2 ^ b + 2 ^ b * packLanes b rest
/-- A source operand as a function of the lane. A lane beyond the operand's width holds a free value (assumption 11); `k` tells
the operands of one instruction apart. -/
def State.lanes (s : State) (o : VOp) (b k : Nat) : Nat → Nat :=
  let g := groupNat (s.rdVs o)
  let n := laneCount o.w.val b
  let f := s.free
  fun l => if l < n then lane b g l else (Config.freeWord (f + 128 * k + l)).toNat % 2 ^ b
/-- Some source is narrower than the `n` lanes of the instruction: free values are used up. -/
def State.useFree (s : State) (os : List VOp) (b n : Nat) : State :=
  if os.all (fun o => decide (n ≤ laneCount o.w.val b)) then s else { s with free := s.free + 512 }

/-- Check the vector operands against the window in the order of R111 (R158), take a dispatch number (R162), and go on.
`ops` pairs an operand with the code a fault names. -/
def State.vec (s : State) (i : Instr) (ops : List (VOp × Nat)) (go : State → State) : State :=
  match ops.find? (fun o => !s.vin o.1) with
  | some o => s.fault cVWINOUT o.2 0 0
  | none => go (s.dispatch i).1
/-- Values and flags of the lanes of a destination: `f` on active lanes, the old value on the others (R159). -/
def State.laneVals (s : State) (x : LVX) (d : VOp) (b : Nat) (f : Nat → Nat × Flags) : Nat × Flags :=
  let n := laneCount d.w.val b
  let old := groupNat (s.rdVs d)
  let rs := (List.range n).map (fun l => if s.activeLane x l then f l else (lane b old l, 0))
  (packLanes b (rs.map (fun r => r.1)), rs.foldl (fun a r => a ||| r.2) 0)
/-- Write a destination and raise flags. -/
def State.vput (s : State) (d : VOp) (g : Nat) (fl : Flags) : State := (s.wrVs d (natGroup d.w.val g)).raise fl
/-- A lane-wise operation of `b`-bit lanes. -/
def State.laneOp (s : State) (x : LVX) (d : VOp) (b : Nat) (f : Nat → Nat × Flags) : State :=
  let r := s.laneVals x d b f
  s.vput d r.1 r.2

/-! ## Lane functions -/

/-- Floating-point formats. -/
def isFp (ty : Nat) : Bool := decide (4 ≤ ty) && decide (ty ≤ 6)
/-- `vadd`, `vsub`, `vmul` on one lane (R168). -/
def arithLane (op ty : Nat) (uns : Bool) (r : Rnd) (a b : Nat) : Nat × Flags :=
  if isFp ty then
    match op with
    | 0 => fadd (fmtOf ty) r a b
    | 1 => fsub (fmtOf ty) r a b
    | _ => fmul (fmtOf ty) r a b
  else
    let w := elemBits ty
    let x := readInt w uns a
    let y := readInt w uns b
    putInt w uns r.sat (match op with
      | 0 => x + y
      | 1 => x - y
      | _ => x * y)
/-- `vfma` on one lane (R170): ±a × b ± c. -/
def fmaLane (ty : Nat) (uns negP negC : Bool) (r : Rnd) (a b c : Nat) : Nat × Flags :=
  if isFp ty then ffma (fmtOf ty) r negP negC a b c
  else
    let w := elemBits ty
    let p := readInt w uns a * readInt w uns b
    let z := readInt w uns c
    putInt w uns r.sat ((if negP then -p else p) + (if negC then -z else z))
/-- Minimum and maximum on one lane (R83, R168, R169). -/
def minmaxLane (ty : Nat) (uns least prop : Bool) (a b : Nat) : Nat × Flags :=
  if isFp ty then fminmax (fmtOf ty) least prop a b
  else
    let w := elemBits ty
    let below := decide (readInt w uns a < readInt w uns b)
    (if below == least then a else b, 0)
/-- Bitwise operations (R171): and, or, xor, and-not. -/
def logicLane (op a b : Nat) : Nat × Flags :=
  (match op with
   | 0 => a &&& b
   | 1 => a ||| b
   | 2 => a ^^^ b
   | _ => a &&& (b ^^^ (2 ^ 64 - 1)), 0)
/-- Shifts of `w`-bit lanes (R171): an amount of at least `w` gives 0 or copies of the sign. -/
def shiftLane (op w a b : Nat) : Nat × Flags :=
  (match op with
   | 0 => if w ≤ b then 0 else a * 2 ^ b % 2 ^ w
   | 1 => if w ≤ b then 0 else a / 2 ^ b
   | _ => wrapInt w (readInt w false a / 2 ^ (min b w)), 0)
/-- Conversion (R172). -/
def cvtLane (ty dty : Nat) (unsS unsD : Bool) (r : Rnd) (a : Nat) : Nat × Flags :=
  let wd := elemBits dty
  if isFp ty then
    let v := unpack (fmtOf ty) a
    if isFp dty then finish (fmtOf dty) r (v, flagIf v.isSnan fNv)
    else floatToInt r.plain wd unsD v
  else
    let t := readInt (elemBits ty) unsS a
    if isFp dty then roundVal (fmtOf dty) r (intVal t)
    else putInt wd unsD r.sat t
/-- The special functions (R173). -/
def specialLane (fn ty : Nat) (r : Rnd) (a : Nat) : Nat × Flags :=
  let f := fmtOf ty
  match fn with
  | 0 => fnRcp f r a
  | 1 => fnRsq f r a
  | 2 => fnExp2 f r a
  | 3 => fnLog2 f r a
  | 4 => fnTanh f r a
  | _ => fnSigm f r a
/-- Comparison on one lane (R181). -/
def cmpLane (ty cc a b : Nat) : Bool × Flags :=
  if isFp ty then fcompare (fmtOf ty) cc a b
  else
    let x := readInt (elemBits ty) false a
    let y := readInt (elemBits ty) false b
    (match cc with
     | 0 => decide (x = y)
     | 1 => decide (x ≠ y)
     | 2 => decide (x < y)
     | _ => decide (x ≤ y), 0)
/-- An operator of `vred` and `vscan` on two values (R177). -/
def foldOp (op ty : Nat) (uns : Bool) (r : Rnd) (a b : Nat) : Nat × Flags :=
  match op with
  | 0 => arithLane 0 ty uns r a b
  | 1 => minmaxLane ty uns true false a b
  | 2 => minmaxLane ty uns false false a b
  | 3 => minmaxLane ty uns true true a b
  | 4 => minmaxLane ty uns false true a b
  | 5 => (a &&& b, 0)
  | 6 => (a ||| b, 0)
  | _ => (a ^^^ b, 0)
/-- The identity of an operator (R177). -/
def foldId (op ty : Nat) (uns : Bool) : Nat :=
  let w := elemBits ty
  match op with
  | 0 => 0
  | 1 | 3 => if isFp ty then (fmtOf ty).inf else wrapInt w (intHi w uns)
  | 2 | 4 => if isFp ty then (fmtOf ty).signed true (fmtOf ty).inf else wrapInt w (intLo w uns)
  | 5 => 2 ^ w - 1
  | _ => 0
/-- One level of the pairwise tree (R86). -/
def treeLevel (f : Nat → Nat → Nat × Flags) (l : List Nat) : List Nat × Flags :=
  match l with
  | a :: b :: rest =>
    let r := f a b
    let q := treeLevel f rest
    (r.1 :: q.1, r.2 ||| q.2)
  | l => (l, 0)
/-- The pairwise tree, `k` levels (R86). -/
def treeFold (f : Nat → Nat → Nat × Flags) (k : Nat) (l : List Nat) : Nat × Flags :=
  match k with
  | 0 => (l.headD 0, 0)
  | k + 1 =>
    let q := treeLevel f l
    let r := treeFold f k q.1
    (r.1, q.2 ||| r.2)
/-- The values s_1, s_2, … of a scan after s_0 (R86): each is the operator on the one before and the lane's contribution. -/
def scanFrom (f : Nat → Nat → Nat × Flags) (acc : Nat) (l : List Nat) : List Nat × Flags :=
  match l with
  | [] => ([], 0)
  | v :: rest =>
    let r := f acc v
    let q := scanFrom f r.1 rest
    (r.1 :: q.1, r.2 ||| q.2)
/-- The values s_0, s_1, … of a scan (R86): s_0 is the first contribution. -/
def scanList (f : Nat → Nat → Nat × Flags) (l : List Nat) : List Nat × Flags :=
  match l with
  | [] => ([], 0)
  | v :: rest =>
    let q := scanFrom f v rest
    (v :: q.1, q.2)
/-- A lane's bits as an arithmetic result holds them: every NaN is the canonical one (R74). -/
def canonLane (ty v : Nat) : Nat := if isFp ty && (unpack (fmtOf ty) v).isNan then (fmtOf ty).qnan else v

end Sys2Proof.Machine
end

