-- ==== Sys2Proof/Machine/Matrix.lean ====
section
/-! DEFINITION. Matrix commands (R186 to R206): issue into the queue, operands and panels, accumulation in ACC48, segments, drains
and epilogue threads, images, fences. A command's work is done by MATRIX_COMMAND_START (and, after a fault's reply, continued by
it), SEGMENT_END, DRAIN_ROW_STAGE and MATRIX_COMMAND_COMPLETE. -/

namespace Sys2Proof.Machine

/-! ## Accumulators -/

/-- An accumulator. -/
def Core.accum (x : Core) (a : Nat) : Accum := fget {} x.acc a
/-- Replace an accumulator. -/
def Core.setAccum (x : Core) (a : Nat) (v : Accum) : Core := { x with acc := fset x.acc a v }
/-- An element, +0 where not listed. -/
def Accum.elem (a : Accum) (row col : Nat) : Nat := fget 0 a.elems (32 * row + col)
/-- Elements with one replaced; +0 is not listed. -/
def setElem (m : FMap Nat) (k v : Nat) : FMap Nat := if v = 0 then ferase m k else fset m k v
/-- The corner of rows × cols set to +0. -/
def Accum.clearCorner (a : Accum) (rows cols : Nat) : Accum :=
  { a with elems := a.elems.filter (fun e => !(decide (e.1 / 32 < rows) && decide (e.1 % 32 < cols))) }
/-- The accumulator a command names; none for `mwb` and `mfence`. -/
def accOf (i : Instr) : Option Nat :=
  match i with
  | .mma a _ _ _ _ _ | .mmas a _ _ _ _ _ _ | .mzero a _ | .mdrain a _ _ _ _ | .rowout a _ _ | .asave a _ | .arest a _
  | .mstat a _ _ => some a.val
  | _ => none
/-- A queued or running command names the accumulator (R188). -/
def Core.accBusy (x : Core) (a : Nat) : Bool :=
  x.mq.any (fun m => accOf m.ins == some a) || (match x.mrun with
    | some m => accOf m.ins == some a
    | none => false)
/-- Rows of the accumulator now in row slots (R188). -/
def Core.rowsHeld (x : Core) (a : Nat) : Nat := (x.rowSlots.filter (fun r => r.2.acc == a)).length
/-- The status word (R188). -/
def Core.accStatus (x : Core) (a : Nat) : Nat :=
  let v := x.accum a
  (if x.accBusy a then 2 ^ 63 else 0) + (if v.pin then 2 ^ 62 else 0) + v.mode * 2 ^ 60 + v.fa * 2 ^ 56 + v.fb * 2 ^ 52 +
    x.rowsHeld a * 2 ^ 48 + v.flg.toNat * 2 ^ 40 + v.seg * 2 ^ 32 + v.kcnt

/-! ## Issue -/

/-- Put a command into the matrix command queue (R191): a full queue keeps the group waiting, and so do the thread's earlier accesses,
which come before the command's. -/
def State.mpush (s : State) (i : Instr) (ops : List Word) : State :=
  let x := s.here
  if 16 ≤ x.mq.length + (if x.mrun.isSome then 1 else 0) || s.me.unsettled then s.waits
  else
    let (u, q) := s.dispatch i
    let m : MCmd := { ins := i, s := s.sample ops, core := s.cur.core, slot := s.cur.slot, uid := s.me.uid,
                      pc := s.recPc, seq := q, launch := s.me.launch, cont := s.me.cont }
    u.modHere (fun x => { x with mq := x.mq ++ [m] })
/-- `mma` (R194). -/
def execMma (acc : Fin 8) (ga : GPair) (gb : R) (ksteps : BitVec 16) (rows1 : Fin 64) (cols1 : Fin 32) (s : State) : Res :=
  .next (s.mpush (.mma acc ga gb ksteps rows1 cols1) [s.rd (2 * ga.val), s.rd (2 * ga.val + 1), s.rd gb.val])
/-- `mmas` (R195). -/
def execMmas (acc : Fin 8) (ga gb : GPair) (ksteps : BitVec 16) (rows1 : Fin 64) (cols1 : Fin 32) (last : Bool) (s : State) : Res :=
  .next (s.mpush (.mmas acc ga gb ksteps rows1 cols1 last)
    [s.rd (2 * ga.val), s.rd (2 * ga.val + 1), s.rd (2 * gb.val), s.rd (2 * gb.val + 1)])
/-- `mzero` (R196). -/
def execMzero (acc : Fin 8) (pin : Bool) (s : State) : Res := .next (s.mpush (.mzero acc pin) [])
/-- `mwb` (R197). -/
def execMwb (ga gb : R) (s : State) : Res := .next (s.mpush (.mwb ga gb) [s.rd ga.val, s.rd gb.val])
/-- `mdrain` (R199). -/
def execMdrain (acc : Fin 8) (ga : R) (rows1 : Fin 64) (cols1 : Fin 32) (keep : Bool) (s : State) : Res :=
  .next (s.mpush (.mdrain acc ga rows1 cols1 keep) [s.rd ga.val])
/-- `asave` (R202). -/
def execAsave (acc : Fin 8) (ga : R) (s : State) : Res := .next (s.mpush (.asave acc ga) [s.rd ga.val])
/-- `arest` (R202). -/
def execArest (acc : Fin 8) (ga : R) (s : State) : Res := .next (s.mpush (.arest acc ga) [s.rd ga.val])
/-- `mstat`: the status at issue (R203). -/
def execMstat (acc : Fin 8) (ga : R) (look : Look) (s : State) : Res :=
  .next (((s.dispatch (.mstat acc ga look)).1).longG ga.val look.val (BitVec.ofNat 64 (s.here.accStatus acc.val)))
/-- `rowout` (R201): MROW unless the slot holds a row of the accumulator; the row is copied, the slot freed. -/
def execRowout (acc : Fin 8) (ga gb : R) (s : State) : Res :=
  let at_ := s.rdN ga.val
  let d := s.rd gb.val
  .next (match s.here.rowSlots.find? (fun r => r.2.addr == at_ && r.2.acc == acc.val) with
  | none => s.fault cMROW 1 0 0
  | some (j, r) =>
    if d ≠ 0 ∧ badRange d then s.fault cADDRRNG 2 d.toNat 0
    else if s.me.unsettled then s.waits
    else
      let s := (s.dispatch (.rowout acc ga gb)).1
      let data := s.mem.bytes at_ r.bytes
      let s := s.modHere (fun x => { x with rowSlots := ferase x.rowSlots j })
      if d = 0 then s
      else
        let u := s.access (.bytes d.toNat data)
        if u.me.held.isSome then u.modMe (fun t => { t with rowCopy := some r.cmd }) else u)
/-- `mfence` (R204). -/
def execMfence (all : Bool) (s : State) : Res :=
  .next (if s.here.mopen.any (fun m => all || m.uid == s.me.uid) then s.waits else (s.dispatch (.mfence all)).1)

/-! ## Memory of a command -/

/-- Who a command's accesses belong to. -/
def MCmd.who (m : MCmd) : Who := ⟨m.core, m.cont, m.uid⟩
/-- The unit a command's records name: the remote path for one that `mremote` carries (R350). -/
def MCmd.unit (m : MCmd) : Nat := if m.remote.isSome then 3 else 4
/-- Post the fault message of a command's access (R205): the unit holds later commands until the reply; one that has been retried counts
(R337). -/
def State.mfault (s : State) (c : Nat) (m : MCmd) (cls opnd ea : Nat) : State :=
  let r : FaultRec := { addr := ea, pc := m.pc, seq := m.seq, prog := m.k * 2 ^ 16 + m.row % 64, lnch := launchWord m.launch,
                        core := m.core, slot := m.slot, stage := m.s.kstage.toNat % 16, cls := cls, opnd := opnd, unit := m.unit }
  let s := s.setCore c { s.core c with mrun := some { m with faulted := true } }
  let s := if m.retried then s.countRefault c else s
  (s.postFault (svcIndex c) r m.uid m.launch .matrix).1
/-- What an access that was not performed does to a command: a fault is posted, a held one is tried again. -/
def State.mstop (s : State) (c : Nat) (m : MCmd) (opnd : Nat) (e : AccRes) : State :=
  match e with
  | .fault cls ea => s.mfault c m cls opnd ea
  | _ => s.setCore c { s.core c with mrun := some m }
/-- The result of a command that `mremote` of core k pushed as number q is complete (R307): at its pushing core, or, for one of another
device, on its way there through the fabric. -/
def State.remoteResult (s : State) (far : Option Nat) (k q status : Nat) : State :=
  match far with
  | some dev => { s with fabric := s.fabric ++ [{ kind := 7, vn := 3, sdev := s.rank, ddev := dev, dst := k, dslot := 15,
                                                   flits := [lineOfWords [BitVec.ofNat 64 q, BitVec.ofNat 64 status]] }] }
  | none => s.setCore k { s.core k with qrun := fset (s.core k).qrun 2 ((fget [] (s.core k).qrun 2).map (fun (e : ECmd) =>
      if e.hdr.toNat % 2 ^ 32 == q then { e with result := some (status, [0]) } else e)) }
/-- A rejected command completes with a late fault and changes nothing (R205). -/
def State.mreject (s : State) (c : Nat) (m : MCmd) (cls opnd addr elem : Nat) : State :=
  let s := s.setCore c { s.core c with mrun := none }
  match m.remote with
  | none => s.late c m.slot m.uid m.seq cls opnd addr elem 0 4 m.launch
  | some (k, q, _) =>
    let r : FaultRec := { addr := addr, pc := m.pc, seq := m.seq, elem := elem, lnch := launchWord m.launch, core := c, slot := m.slot,
                          stage := m.s.kstage.toNat % 16, cls := cls, opnd := opnd, unit := m.unit }
    (s.postFault (svcIndex c) r m.uid m.launch (.late m.seq)).1.remoteResult m.far k q 0
/-- Read bytes as a command, 64 at a time. -/
def State.mread (s : State) (m : MCmd) (ea n : Nat) : State × Except AccRes (List Byte) := s.readRun m.who ea n 64 (n / 64 + 2)

/-! ## Operands (R189, R192, R193) -/

/-- A format that a panel holds and R193 accepts. -/
def panelFmt (f : Nat) : Bool := f == 0 || f == 4 || f == 5 || isBfp f
/-- Bytes of a 32-element block of a panel. -/
def blockBytes (f : Nat) : Nat := if isBfp f then 1 + 4 * bfpM f else if f == 0 then 32 else 64
/-- A panel's header in the weight buffer. -/
structure Panel where
  at_ : Nat
  fmt : Nat
  cols : Nat
  kg : Nat
  nblk : Nat
  resv : Nat
/-- The header of 64 bytes. -/
def panelOf (at_ : Nat) (b : List Byte) : Panel :=
  let n := leNat b
  { at_ := at_, fmt := n % 16, cols := bitsN n 20 16 + 1, kg := bitsN n 47 32, nblk := bitsN n 63 48,
    resv := bitsN n 15 4 + bitsN n 31 21 + n / 2 ^ 64 }
/-- Bytes of the presence mask. -/
def Panel.maskBytes (p : Panel) : Nat := (p.kg * p.cols + 511) / 512 * 64
/-- Bytes of the image. -/
def Panel.size (p : Panel) : Nat := (64 + p.maskBytes + p.nblk * blockBytes p.fmt + 63) / 64 * 64
/-- A bit of the presence mask. -/
def Panel.present (p : Panel) (w : Memory) (i : Nat) : Bool := (w.get (p.at_ + 64 + i / 8)).getLsbD (i % 8)
/-- An element's value from its bits (R71, R75). -/
def elemVal (fmt n : Nat) : FVal := if isFp fmt then unpack (fmtOf fmt) n else intVal (readInt (elemBits fmt) false n)
/-- Element `i` of a block of 32 held as a number. -/
def blockElem (fmt blk i : Nat) : FVal :=
  if isBfp fmt then bfpElem (bfpM fmt) blk i else elemVal fmt (blk / 2 ^ (elemBits fmt * i) % 2 ^ elemBits fmt)
/-- Block (g, col) of a panel as a number; 0 where absent. -/
def Panel.block (p : Panel) (w : Memory) (g col : Nat) : Nat :=
  let i := g * p.cols + col
  if p.present w i then
    let pos := ((List.range i).filter (fun j => p.present w j)).length
    w.nat (p.at_ + 64 + p.maskBytes + pos * blockBytes p.fmt) (blockBytes p.fmt)
  else 0
/-- A format pair of R193. -/
def pairOk (a b : Nat) : Bool := (a == 4 && b == 4) || (a == 5 && b == 5) || (a == 0 && b == 0) || (isBfp a && isBfp b)
/-- Address of unit (i0, i1) of a record. -/
def Shape.addr2 (r : Shape) (i0 i1 : Nat) : Int :=
  (r.base : Int) + (unitBytes r.fmt : Int) * ((i0 : Int) * r.str.getD 0 0 + (i1 : Int) * r.str.getD 1 0)
/-- Unit (i0, i1) lies inside the extents; a record of rank 1 has one row (R192). -/
def Shape.has (r : Shape) (i0 i1 : Nat) : Bool :=
  decide (i0 < r.ext.getD 0 0) && (if r.rank = 1 then i1 == 0 else decide (i1 < r.ext.getD 1 0))
/-- Units along K that a command of `k` steps covers. -/
def unitsOf (fmt k : Nat) : Nat := if isBfp fmt then (k + 31) / 32 else k
/-- A record that a matrix command may use (R165, R192): the checks of R165 with the addresses its units touch. -/
def Shape.okFor (r : Shape) (p k rows : Nat) : Bool :=
  r.resv == 0 && r.fmt != 7 &&
  (r.ext.take r.rank).all (fun e => e != 0) && (r.ext.drop r.rank).all (fun e => e == 0) &&
  (r.str.drop r.rank).all (fun t => t == 0) && (isBfp r.fmt || r.base % unitBytes r.fmt == 0) &&
  (List.range rows).all (fun i1 =>
    let lo := p
    let hi := min (p + unitsOf r.fmt k) (r.ext.getD 0 0)
    !(r.has lo i1) || decide (hi ≤ lo) ||
      ([lo, hi - 1].all (fun i0 => decide (0 ≤ r.addr2 i0 i1) && decide (r.addr2 i0 i1 + unitBytes r.fmt ≤ 2 ^ 52))))

/-- A command of `mma` or `mmas` as the unit sees it. -/
structure MShape where
  acc : Nat
  ks : Nat
  rows : Nat
  cols : Nat
  seg : Bool
  last : Bool
  wb : Nat
  pos : Nat
  ra : Nat
/-- The fields of an accumulating command. -/
def MCmd.shape (m : MCmd) : Option MShape :=
  let o := fun k => (m.s.ops.getD k 0).toNat
  match m.ins with
  | .mma a _ _ ks r c => some ⟨a.val, ks.toNat, r.val + 1, c.val + 1, false, false, o 2, o 1, o 0⟩
  | .mmas a _ _ ks r c l => some ⟨a.val, ks.toNat, r.val + 1, c.val + 1, true, l, o 2, o 1, o 0⟩
  | _ => none
/-- The panel word's parts: offset and starting group. -/
def panelAt (w : Nat) : Nat := bitsN w 17 6 * 64
/-- An accumulating command of the other kind, or into a closed chain, is MCHAIN (R188). -/
def Accum.refuses (a : Accum) (seg : Bool) : Bool := if seg then a.mode == 1 || a.mode == 3 else decide (2 ≤ a.mode)
/-- What the checks of R188, R192, R193 and R198 find, before the command changes anything (R205): class and operand; none when they
pass. -/
def mmaCheck (x : Core) (m : MCmd) (h : MShape) (r : Shape) : Option (Nat × Nat) :=
  let a := x.accum h.acc
  let fa := m.s.kfmtA.toNat
  let fb := m.s.kfmtB.toNat
  let p := panelOf (panelAt h.wb) (x.wbuf.bytes (panelAt h.wb) 64)
  if a.refuses h.seg then some (cMCHAIN, 4)
  else if h.ra % 32 != 0 || !r.okFor h.pos h.ks h.rows then some (cSHAPEREC, 5)
  else if r.fmt != fa then some (cMOPND, 1)
  else if h.wb % 64 != 0 || bitsN h.wb 31 18 != 0 || h.wb / 2 ^ 48 != 0 || p.fmt != fb || decide (p.cols < h.cols) ||
      decide (p.kg < bitsN h.wb 47 32 + (h.ks + 31) / 32) then some (cMOPND, 2)
  else if !pairOk fa fb || (isBfp fa && h.ks % 32 != 0) then some (cMOPND, 1)
  else if h.seg && (m.s.ops.getD 3 0).toNat % 32 != 0 then some (cMOPND, 2)
  else none

/-- First unit along K and number of units of `len` elements from `k`: blocks of 32 in a BFP format (R192). -/
def unitSpan (fmt k len : Nat) : Nat × Nat := if isBfp fmt then (k / 32, (k + len - 1) / 32 - k / 32 + 1) else (k, len)
/-- Fetch `n` units of K from unit `k` of one row of A. -/
def State.fetchRow (s : State) (m : MCmd) (r : Shape) (p k row n : Nat) : State × Except AccRes (List Nat) :=
  match n with
  | 0 => (s, .ok [])
  | n + 1 =>
    let got := if r.has (p + k) row then s.readAt m.who (r.addr2 (p + k) row).toNat (unitBytes r.fmt) else (s, .ok [])
    match got with
    | (s, .error e) => (s, .error e)
    | (s, .ok b) =>
      match s.fetchRow m r p (k + 1) row n with
      | (s, .error e) => (s, .error e)
      | (s, .ok l) => (s, .ok (leNat b :: l))
/-- Fetch the rows of a group that are still missing, `n` of them; a fault leaves those fetched so far. -/
def State.fetchRows (s : State) (m : MCmd) (r : Shape) (p len n : Nat) : State × MCmd × Option AccRes :=
  match n with
  | 0 => (s, m, none)
  | n + 1 =>
    match s.fetchRow m r p (unitSpan r.fmt m.k len).1 m.fetched.length (unitSpan r.fmt m.k len).2 with
    | (s, .error e) => (s, { m with row := m.fetched.length }, some e)
    | (s, .ok l) => s.fetchRows { m with fetched := m.fetched ++ [l], row := m.fetched.length + 1, retried := false } r p len n
/-- Element `j` of a row fetched from `k` on. -/
def rowElem (fmt k : Nat) (row : List Nat) (j : Nat) : FVal :=
  if isBfp fmt then bfpElem (bfpM fmt) (row.getD ((k % 32 + j) / 32) 0) ((k + j) % 32) else elemVal fmt (row.getD j 0)
/-- The exact sum of products of a group (R87). -/
def dotSum (a b : Nat → FVal) (n : Nat) : FVal × Flags :=
  (List.range n).foldl (fun acc j =>
    let p := mulVal (a j) (b j)
    let t := addVal false acc.1 p.1
    (t.1, acc.2 ||| p.2 ||| t.2)) (.fin false 0 0, 0)
/-- acc ← RN_ACC48(acc + S) (R78, R87). -/
def accStep (v : Nat) (sum : FVal × Flags) : Nat × Flags :=
  let r := finish acc48 rne (addVal false (unpack acc48 v) sum.1)
  (r.1, sum.2 ||| r.2)
/-- Sum one group into the corner (R194). -/
def groupSum (a : Accum) (fa fb : Nat) (m : MCmd) (h : MShape) (w : Memory) (len : Nat) : Accum :=
  let p := panelOf (panelAt h.wb) (w.bytes (panelAt h.wb) 64)
  let g := bitsN h.wb 47 32 + m.k / 32
  let bs := (List.range h.cols).map (fun c => (p.block w g c, if m.k % 32 + len ≤ 32 then 0 else p.block w (g + 1) c))
  let elemB := fun (col j : Nat) =>
    blockElem fb (if m.k % 32 + j < 32 then (bs.getD col (0, 0)).1 else (bs.getD col (0, 0)).2) ((m.k + j) % 32)
  let one := fun (a : Accum) (row col : Nat) =>
    let r := accStep (a.elem row col) (dotSum (rowElem fa m.k (m.fetched.getD row [])) (elemB col) len)
    { a with elems := setElem a.elems (32 * row + col) r.1, flg := a.flg ||| r.2 }
  (List.range h.rows).foldl (fun a row => (List.range h.cols).foldl (fun a col => one a row col) a) a
/-- Length of the next group, from position `pos` of the chain: it ends at a multiple of 32 of the chain, or with the command (R87,
R194). -/
def groupLen (pos k ks : Nat) : Nat := min (32 - pos % 32) (ks - k)
/-- Run groups until the command's k-steps end, a segment end is due, or an access is not performed; `n` groups at most
(R194, R195). -/
def State.mmaRun (s : State) (c : Nat) (m : MCmd) (h : MShape) (r : Shape) (n : Nat) : State :=
  match n with
  | 0 => s.setCore c { s.core c with mrun := some m }
  | n + 1 =>
    if m.due || h.ks ≤ m.k then s.setCore c { s.core c with mrun := some m }
    else
      let len := groupLen ((s.core c).accum h.acc).pos m.k h.ks
      match s.fetchRows m r h.pos len (h.rows - m.fetched.length) with
      | (s, m, some e) => s.mstop c m 1 e
      | (s, m, none) =>
        let x := s.core c
        let a := groupSum (x.accum h.acc) m.s.kfmtA.toNat m.s.kfmtB.toNat m h x.wbuf len
        let k := a.pos + len
        let fin := decide (h.ks ≤ m.k + len)
        let a := { a with kcnt := min (a.kcnt + len) (2 ^ 32 - 1), pos := k % 128,
                          mode := if fin && (h.ks % 32 != 0 || k % 32 != 0) then 3 else a.mode }
        let m := { m with k := m.k + len, fetched := [], row := 0, due := h.seg && (k % 128 == 0 || (fin && h.last)) }
        (s.setCore c ((s.core c).setAccum h.acc a)).mmaRun c m h r n

/-! ## Drains (R198 to R200) -/

/-- An epilogue record (R198). -/
structure Epi where
  hpc : Nat
  stage : Nat
  dst : Nat
  stride : Int
  tag : Nat
/-- The record in 32 bytes. -/
def epiOf (b : List Byte) : Epi :=
  let n := leNat b
  { hpc := bitsN n 63 0, stage := bitsN n 127 64, dst := bitsN n 191 128, stride := s32 (bitsN n 223 192),
    tag := bitsN n 255 224 }
/-- Destination address of a row. -/
def Epi.row (e : Epi) (row : Nat) : Nat := (((e.dst : Int) + (row : Int) * e.stride) % 2 ^ 64).toNat
/-- A destination format of `mdrain` (R199). -/
def drainFmt (f : Nat) : Bool := f == 0 || f == 2 || f == 4 || f == 5 || f == 6
/-- An element rounded for a drain (R88, R199): the exact product with both scales, once. -/
def drainElem (fmt : Nat) (r : Rnd) (v sa sb : Nat) (scaled : Bool) : Nat × Flags :=
  let a := unpack acc48 v
  let p := if scaled then
      let x := mulVal a (unpack fp32 sa)
      let y := mulVal x.1 (unpack fp32 sb)
      (y.1, x.2 ||| y.2)
    else (a, 0)
  if isFp fmt then finish (fmtOf fmt) r p
  else
    let q := floatToInt r.plain (elemBits fmt) false p.1
    (q.1, p.2 ||| q.2)
/-- A scale read from a vector of FP32 numbers; 1.0 where the vector's address is 0 (R88). -/
def State.scale (s : State) (m : MCmd) (base : Word) (i : Nat) : State × Except AccRes Nat :=
  if base = 0 then (s, .ok 0x3F800000)
  else
    match s.readAt m.who (base.toNat + 4 * i) 4 with
    | (s, .ok b) => (s, .ok (leNat b))
    | (s, .error e) => (s, .error e)
/-- The scales of `n` elements from `i`. -/
def State.scales (s : State) (m : MCmd) (base : Word) (i n : Nat) : State × Except AccRes (List Nat) :=
  match n with
  | 0 => (s, .ok [])
  | n + 1 =>
    match s.scale m base i with
    | (s, .error e) => (s, .error e)
    | (s, .ok v) =>
      match s.scales m base (i + 1) n with
      | (s, .error e) => (s, .error e)
      | (s, .ok l) => (s, .ok (v :: l))
/-- Store a row's elements one by one, ascending (R199). -/
def State.storeRow (s : State) (m : MCmd) (ea b : Nat) (vs : List Nat) : State × Option AccRes :=
  match vs with
  | [] => (s, none)
  | v :: rest =>
    match s.writeAt m.who ea (leBytes b v) with
    | (s, some e) => (s, some e)
    | (s, none) => s.storeRow m (ea + b) b rest
/-- The context an epilogue thread starts with (R31, R200). -/
def epiThread (m : MCmd) (e : Epi) (addr row seg acc : Nat) : Thread :=
  let g : Vector Word 16 := Vector.ofFn (fun i =>
    if i.val = 8 then BitVec.ofNat 64 addr
    else if i.val = 9 then BitVec.ofNat 64 (e.row row)
    else if i.val = 10 then BitVec.ofNat 64 (row + 2 ^ 16 * seg + 2 ^ 32 * acc)
    else if i.val = 11 then BitVec.ofInt 64 (s32 e.tag)
    else 0)
  { g := g, pc := BitVec.ofNat 64 e.hpc, kround := m.s.kround, kstep := m.s.kstep, kstage := m.s.kstage, launch := m.launch,
    cont := m.cont }
/-- The lowest free row slot (R199). -/
def Core.freeRow (x : Core) : Option Nat := (List.range 8).find? (fun j => (fget? x.rowSlots j).isNone)
/-- Put a row into a row slot: the values, the rest of the slot's 128 bytes zero; its epilogue thread is still to start. -/
def State.stageRow (s : State) (c : Nat) (m : MCmd) (e : Epi) (acc row seg b j : Nat) (vs : List Nat) : State :=
  let addr := e.stage + 128 * j
  let data := vs.flatMap (leBytes b)
  let s := { s with mem := s.mem.setBytes addr (data ++ List.replicate (128 - data.length) 0) }
  let x := s.core c
  s.setCore c { x with
    rowSlots := fset x.rowSlots j { acc := acc, row := row, addr := addr, bytes := data.length, cmd := m.seq }
    mrun := some { m with waiting := some (j, row, seg) } }
/-- Start the epilogue thread of the row that waits for one (R200). -/
def State.startEpi (s : State) (c : Nat) (m : MCmd) (e : Epi) (acc : Nat) : State :=
  match m.waiting with
  | none => s
  | some (j, row, seg) =>
    match if s.haltingOf m.launch then none else s.freeSlot c with
    | none => s
    | some t =>
      let s := s.setCore c { s.core c with mrun := some { m with waiting := none } }
      s.startThread c t (epiThread m e (e.stage + 128 * j) row seg acc)
/-- The end of an `mdrain` whose rows are all out (R199): the corner is cleared, by its launch, unless kept (R186). -/
def Accum.drained (a : Accum) (rows cols : Nat) (keep : Bool) (l : Option (Nat × Nat)) : Accum :=
  if keep then a
  else
    let a := { a.clearCorner rows cols with owner := l }
    if a.elems.isEmpty then { a with mode := 0, kcnt := 0, pos := 0 } else a
/-- Deliver one row of values: to memory without a handler, else into a row slot. -/
def State.deliverRows (s : State) (c : Nat) (m : MCmd) (e : Epi) (acc row seg b : Nat) (vs : List Nat) (opnd : Nat)
    (next : MCmd) : State :=
  if e.hpc = 0 then
    match s.storeRow m (e.row row) b vs with
    | (s, some err) => s.mstop c m opnd err
    | (s, none) => s.setCore c { s.core c with mrun := some { next with retried := false } }
  else
    match (s.core c).freeRow with
    | none => s
    | some j => s.stageRow c next e acc row seg b j vs
/-- DRAIN_ROW_STAGE for a running `mdrain`: its next row, or the epilogue thread its last row waits for. A chain that a short last
group has closed, mode 3, drains unscaled: R199 scales in mode 1 only, where R88 speaks of the scales of the most recent `mma`; the
model follows R199 (assumption 98). -/
def State.drainRow (s : State) (c : Nat) (m : MCmd) (acc rows cols : Nat) (keep : Bool) (e : Epi) : State :=
  if m.waiting.isSome then s.startEpi c m e acc
  else if rows ≤ m.row then
    let x := s.core c
    s.setCore c { x.setAccum acc ((x.accum acc).drained rows cols keep m.launch) with mrun := some { m with done := true } }
  else
    let a := (s.core c).accum acc
    let fmt := m.s.kfmtC.toNat
    let (s, ra) := if a.mode = 1 then s.scale m a.sclA m.row else (s, .ok 0)
    let (s, rb) := if a.mode = 1 then s.scales m a.sclB 0 cols else (s, .ok [])
    match ra, rb with
    | .error err, _ => s.mstop c m 1 err
    | _, .error err => s.mstop c m 2 err
    | .ok sa, .ok sb =>
      let md := m.s.kround.toNat
      let vs := (List.range cols).map (fun col =>
        drainElem fmt ⟨md, false, if md = 4 then srRho m.s.kseq (32 * m.row + col) else 0⟩ (a.elem m.row col) sa (sb.getD col 0)
          (decide (a.mode = 1)))
      let fl := vs.foldl (fun f v => f ||| v.2) m.flags
      s.deliverRows c m e acc m.row 0 (elemBits fmt / 8) (vs.map (fun v => v.1)) 4 { m with row := m.row + 1, flags := fl }

/-! ## Starting and continuing -/

/-- A command's epilogue record, read once (R199). -/
def State.epiAt (s : State) (m : MCmd) (ea : Nat) : State × Except AccRes (List Byte) :=
  if m.epiRec.isEmpty then s.mread m ea 32 else (s, .ok m.epiRec)
/-- `mwb` (R197). -/
def State.mwbRun (s : State) (c : Nat) (m : MCmd) : State :=
  let src := (m.s.ops.getD 0 0).toNat
  let off := (m.s.ops.getD 1 0).toNat
  if src % 64 ≠ 0 ∨ off % 64 ≠ 0 ∨ 2 ^ 18 ≤ off then s.mreject c m cMOPND 2 0 0
  else
    match s.mread m src 64 with
    | (s, .error e) => s.mstop c m 2 e
    | (s, .ok hb) =>
      let p := panelOf off hb
      if p.resv ≠ 0 ∨ panelFmt p.fmt = false ∨ 2 ^ 18 < off + p.size then s.mreject c m cMOPND 2 0 0
      else
        match s.mread m (src + 64) (p.size - 64) with
        | (s, .error e) => s.mstop c m 2 e
        | (s, .ok b) =>
          s.setCore c { s.core c with wbuf := (s.core c).wbuf.setBytes off (hb ++ b), mrun := some { m with done := true } }
/-- The save image of an accumulator (R202). -/
def Core.saveImage (x : Core) (a : Nat) : List Byte :=
  let v := x.accum a
  let st := x.accStatus a % 2 ^ 63
  let st := st - bitsN st 51 48 * 2 ^ 48
  leBytes 8 st ++ leBytes 8 v.sclA.toNat ++ leBytes 8 v.sclB.toNat ++ List.replicate 40 0 ++
    (List.range 2048).flatMap (fun k => leBytes 8 (fget 0 v.elems k))
/-- The accumulator an image holds; none when its status word has a busy, held or reserved bit (R202). A saturated `kcnt` does not tell
the chain's position, which is then 0 (assumption 120). -/
def accOfImage (b : List Byte) : Option Accum :=
  let w := fun k => leNat ((b.drop k).take 8)
  let st := w 0
  if bitsN st 63 63 ≠ 0 ∨ bitsN st 51 48 ≠ 0 ∨ bitsN st 47 46 ≠ 0 then none
  else some {
    elems := (List.range 2048).foldl (fun m k => setElem m k (w (64 + 8 * k) % 2 ^ 48)) []
    pin := bitsN st 62 62 == 1, mode := bitsN st 61 60, fa := bitsN st 59 56, fb := bitsN st 55 52,
    flg := BitVec.ofNat 6 (bitsN st 45 40), seg := bitsN st 39 32, kcnt := bitsN st 31 0,
    pos := if bitsN st 31 0 = 2 ^ 32 - 1 then 0 else bitsN st 6 0
    sclA := BitVec.ofNat 64 (w 8), sclB := BitVec.ofNat 64 (w 16) }
/-- `asave` (R202). -/
def State.asaveRun (s : State) (c : Nat) (m : MCmd) (a : Nat) : State :=
  let ea := (m.s.ops.getD 0 0).toNat
  if ea % 64 ≠ 0 then s.mreject c m cMOPND 4 0 0
  else
    match s.writeRun m.who ea ((s.core c).saveImage a) 64 258 with
    | (s, some e) => s.mstop c m 4 e
    | (s, none) => s.setCore c { s.core c with mrun := some { m with done := true } }
/-- `arest` (R202). -/
def State.arestRun (s : State) (c : Nat) (m : MCmd) (a : Nat) : State :=
  let ea := (m.s.ops.getD 0 0).toNat
  if ea % 64 ≠ 0 then s.mreject c m cMOPND 1 0 0
  else
    match s.mread m ea 16448 with
    | (s, .error e) => s.mstop c m 1 e
    | (s, .ok b) =>
      match accOfImage b with
      | none => s.mreject c m cMOPND 1 0 0
      | some v =>
        s.setCore c { (s.core c).setAccum a { v with owner := m.launch } with mrun := some { m with done := true } }
/-- The start of `mma` or `mmas`: the checks, the mode, the sampled formats and scales (R188, R192 to R195), then the k-steps. -/
def State.mmaStart (s : State) (c : Nat) (m : MCmd) (h : MShape) : State :=
  match if h.ra % 32 ≠ 0 || (!m.started && ((s.core c).accum h.acc).refuses h.seg) then (s, .ok []) else if m.shapeRec.isEmpty then s.readAt m.who h.ra 32 else (s, .ok m.shapeRec) with
  | (s, .error e) => s.mstop c m 5 e
  | (s, .ok b) =>
    let r := shapeOf b
    let m := { m with shapeRec := b }
    if m.started then s.mmaRun c m h r (h.ks / 32 + 2)
    else
      match mmaCheck (s.core c) m h r with
      | some (cls, o) => s.mreject c m cls o (if cls = cSHAPEREC then h.ra else 0) (if cls = cSHAPEREC then h.pos else 0)
      | none =>
        let x := s.core c
        let a := x.accum h.acc
        let a := { a with
          mode := if a.mode = 0 then (if h.seg then 2 else 1) else a.mode
          fa := m.s.kfmtA.toNat, fb := m.s.kfmtB.toNat
          sclA := if h.seg then a.sclA else m.s.ksclA
          sclB := if h.seg then a.sclB else m.s.ksclB
          owner := m.launch }
        (s.setCore c (x.setAccum h.acc a)).mmaRun c { m with started := true } h r (h.ks / 32 + 2)
/-- The start of a command, or its continuation after a reply (R191, R205). -/
def State.mcmdRun (s : State) (c : Nat) (m : MCmd) : State :=
  match m.ins with
  | .mma _ _ _ _ _ _ | .mmas _ _ _ _ _ _ _ =>
    match m.shape with
    | some h => s.mmaStart c m h
    | none => s
  | .mzero a pin =>
    s.setCore c { (s.core c).setAccum a.val { pin := pin, owner := m.launch } with mrun := some { m with done := true } }
  | .mwb _ _ => s.mwbRun c m
  | .asave a _ => s.asaveRun c m a.val
  | .arest a _ => s.arestRun c m a.val
  | .mdrain _ _ _ _ _ =>
    if drainFmt m.s.kfmtC.toNat then s.setCore c { s.core c with mrun := some { m with started := true } }
    else s.mreject c m cMOPND 4 0 0
  | _ => s.setCore c { s.core c with mrun := some { m with done := true } }
/-- An event of the unit that moves nothing on leaves the state as it was. -/
def State.moving (s : State) (c : Nat) (u : State) : State :=
  if (u.core c).mrun == (s.core c).mrun && (u.core c).mq.length == (s.core c).mq.length then s else u
/-- MATRIX_COMMAND_START at the core of the event (R191): the oldest command starts when none runs; one whose fault has been
answered goes on. -/
def execMatrixCommandStart (s : State) : Res :=
  let c := s.ev.q
  .next (s.moving c <| match (s.core c).mrun with
  | some m =>
    match m.ins with
    | .mdrain _ _ _ _ _ => s
    | _ => if m.done || m.faulted || m.due then s
           else if m.started && (match m.shape with
             | some h => decide (h.ks ≤ m.k)
             | none => true) then s
           else s.mcmdRun c m
  | none =>
    match (s.core c).mq with
    | [] => s
    | m :: rest => (s.setCore c { s.core c with mq := rest, mrun := some m }).mcmdRun c m)
/-- SEGMENT_END (R89, R195): the corner is rounded to FP32 into the drain stage, once the rows before have left it, and set to
+0; the next segment's k-steps go on at the next MATRIX_COMMAND_START. -/
def execSegmentEnd (s : State) : Res :=
  let c := s.ev.q
  .next (match (s.core c).mrun with
  | none => s
  | some m =>
    match m.shape with
    | none => s
    | some h =>
      if m.due && m.stage.isEmpty && m.waiting.isNone then
        let x := s.core c
        let a := x.accum h.acc
        let rows := (List.range h.rows).map (fun row => (List.range h.cols).map (fun col =>
          drainElem 6 rne (a.elem row col) 0 0 false))
        let fl := rows.foldl (fun f r => r.foldl (fun f v => f ||| v.2) f) m.flags
        let st := (rows.zip (List.range h.rows)).map (fun p => (a.seg, p.2, p.1.map (fun v => v.1)))
        let fin := decide (h.ks ≤ m.k) && h.last
        let a := { a.clearCorner h.rows h.cols with seg := (a.seg + 1) % 256, mode := if fin then 3 else a.mode }
        s.setCore c { x.setAccum h.acc a with mrun := some { m with due := false, stage := st, flags := fl } }
      else s)
/-- DRAIN_ROW_STAGE at the core of the event (R195, R199, R200). -/
def execDrainRowStage (s : State) : Res :=
  let c := s.ev.q
  .next (s.moving c <| match (s.core c).mrun with
  | none => s
  | some m =>
    if m.faulted || m.done then s
    else
      match m.ins with
      | .mdrain a _ r k keep =>
        if m.started then
          if (m.s.ops.getD 0 0).toNat % 32 ≠ 0 then s.mreject c m cMOPND 1 0 0
          else
            match s.epiAt m (m.s.ops.getD 0 0).toNat with
            | (s, .error e) => s.mstop c m 1 e
            | (s, .ok b) => s.drainRow c { m with epiRec := b } a.val (r.val + 1) (k.val + 1) keep (epiOf b)
        else s
      | .mmas a _ _ _ _ _ _ =>
        match s.epiAt m (m.s.ops.getD 3 0).toNat with
        | (u, .error e) => if m.stage.isEmpty && m.waiting.isNone then s else u.mstop c m 2 e
        | (u, .ok b) =>
          let m := { m with epiRec := b }
          if m.waiting.isSome then u.startEpi c m (epiOf b) a.val
          else
            match m.stage with
            | [] => s
            | (seg, row, vs) :: rest =>
              u.deliverRows c { m with row := row } (epiOf b) a.val row seg 4 vs 4 { m with stage := rest }
      | _ => s)

/-! ## Completion (R82, R199, R204) -/

/-- The command's rows are all released, and no copy of one is held. -/
def State.mreleased (s : State) (c : Nat) (m : MCmd) : Bool :=
  !(s.core c).rowSlots.any (fun r => r.2.cmd == m.seq) &&
  !(s.core c).threads.any (fun t => t.2.live && t.2.held.isSome && t.2.rowCopy == some m.seq)
/-- A remote command's result goes back (R307): a kind-4-to-9 message of the engine is not needed inside one device; the result
entry is given to the pushing core's remote path. -/
def State.mremoteDone (s : State) (m : MCmd) : State :=
  match m.remote with
  | none => s
  | some (k, q, _) => s.remoteResult m.far k q 0
/-- A command completes: its flags, and the step of its counter under SR, reach its thread wherever it is (R80, R82). -/
def State.mfinish (s : State) (m : MCmd) : State :=
  let s := s.raiseUid m.uid m.flags
  let s := if m.sr then
      s.modUid m.uid (fun t => { t with kseq := (t.kseq >>> 32 <<< 32) ||| ((t.kseq + 1) &&& 0xFFFFFFFF#64) })
    else s
  s.mremoteDone m
/-- The running command is over: all its k-steps are done and its segments are out. -/
def MCmd.ended (m : MCmd) : Bool :=
  m.done || (m.started && !m.due && m.stage.isEmpty && m.waiting.isNone && (match m.shape with
    | some h => decide (h.ks ≤ m.k)
    | none => false))
/-- MATRIX_COMMAND_COMPLETE at the core of the event (R82, R194, R199): the running command leaves the unit; one whose rows are
still held completes when the last is released. -/
def execMatrixCommandComplete (s : State) : Res :=
  let c := s.ev.q
  .next (match (s.core c).mrows.find? (fun m => s.mreleased c m) with
  | some m => (s.setCore c { s.core c with mrows := (s.core c).mrows.filter (fun k => k.seq != m.seq) }).mfinish m
  | none =>
    match (s.core c).mrun with
    | none => s
    | some m =>
      if m.ended then
        let m := match m.shape with
          | some h => { m with flags := m.flags ||| ((s.core c).accum h.acc).flg }
          | none => m
        let s := s.setCore c { s.core c with mrun := none }
        if s.mreleased c m then s.mfinish m else s.setCore c { s.core c with mrows := (s.core c).mrows ++ [m] }
      else s)

end Sys2Proof.Machine
end

