-- ==== Sys2Proof/Machine/Engines.lean ====
section
/-! DEFINITION. Engine FIFOs and the commands of the copy engine, the stride-gather unit and the remote matrix path (R107, R108,
R298 to R307). A command starts in one step and then moves one unit a step. -/

namespace Sys2Proof.Machine

/-! ## Pushing (R107, R108, R298, R300) -/

/-- An op that R107 lists. -/
def opListed (op : Nat) : Bool := decide (op < 5) || op == 0x20 || op == 0x40 || (decide (0x60 ≤ op) && decide (op ≤ 0x6A))
/-- Body words of an SE operand: none for `g0` single in field b (R107). -/
def State.seBody (s : State) (a b : GOp) : List Word := s.rdG a ++ (if b.w.val = 0 ∧ b.n.val = 0 then [] else s.rdG b)
/-- Push a command (R108, R298): a full FIFO keeps the group waiting, and so does an access the push releases (R276); `d` receives the
sequence number. -/
def State.push (s : State) (op : Nat) (body : List Word) (d : R) : State :=
  let f := op / 32
  let x := s.here
  let q := fget [] x.qi f
  if fifoDepth f ≤ q.length || s.me.unsettled then s.waits
  else
    let n := (fget 0 x.pushSeq f + 1) % 2 ^ 32
    let hdr := BitVec.ofNat 64 (op * 2 ^ 57 + (body.length - 1) % 16 * 2 ^ 53 + s.cur.core * 2 ^ 41 + s.cur.slot * 2 ^ 38 + n)
    let e : ECmd := { hdr := hdr, body := body, slot := s.cur.slot, uid := s.me.uid, pc := s.recPc, launch := s.me.launch,
                      cont := s.me.cont, s := s.sample [], pushed := s.cycle }
    ((s.released s.me.uid).modHere (fun x => { x with qi := fset x.qi f (q ++ [e]), pushSeq := fset x.pushSeq f n })).wrN d.val n
/-- `cp.copy` (R303). -/
def execCpCopy (d : R) (a b : GOp) (s : State) : Res := .next (s.push 0x00 (s.seBody a b) d)
/-- `cp.gather` (R303). -/
def execCpGather (d : R) (a b : GOp) (s : State) : Res := .next (s.push 0x01 (s.seBody a b) d)
/-- `cp.scatter` (R303). -/
def execCpScatter (d : R) (a b : GOp) (s : State) : Res := .next (s.push 0x02 (s.seBody a b) d)
/-- `cp.fill` (R303). -/
def execCpFill (d : R) (a b : GOp) (s : State) : Res := .next (s.push 0x03 (s.seBody a b) d)
/-- `cp.token` (R305). -/
def execCpToken (d : R) (a b : GOp) (s : State) : Res := .next (s.push 0x04 (s.seBody a b) d)
/-- `sg.read` (R306). -/
def execSgRead (d : R) (a b : GOp) (s : State) : Res := .next (s.push 0x20 (s.seBody a b) d)
/-- `mremote` (R307). -/
def execMremote (d : R) (a b : GOp) (s : State) : Res := .next (s.push 0x40 (s.seBody a b) d)
/-- `sv.g1` (R253). -/
def execSvG1 (d : R) (a b : GOp) (s : State) : Res := .next (s.push 0x60 (s.seBody a b) d)
/-- `sv.g2` (R253). -/
def execSvG2 (d : R) (a b : GOp) (s : State) : Res := .next (s.push 0x61 (s.seBody a b) d)
/-- `sv.g3` (R253). -/
def execSvG3 (d : R) (a b : GOp) (s : State) : Res := .next (s.push 0x62 (s.seBody a b) d)
/-- `sv.cg` (R253). -/
def execSvCg (d : R) (a b : GOp) (s : State) : Res := .next (s.push 0x63 (s.seBody a b) d)
/-- `sv.diag` (R253). -/
def execSvDiag (d : R) (a b : GOp) (s : State) : Res := .next (s.push 0x64 (s.seBody a b) d)
/-- `sv.swapq` (R253). -/
def execSvSwapq (d : R) (a b : GOp) (s : State) : Res := .next (s.push 0x65 (s.seBody a b) d)
/-- `sv.perm` (R253). -/
def execSvPerm (d : R) (a b : GOp) (s : State) : Res := .next (s.push 0x66 (s.seBody a b) d)
/-- `sv.prob` (R253). -/
def execSvProb (d : R) (a b : GOp) (s : State) : Res := .next (s.push 0x67 (s.seBody a b) d)
/-- `sv.norm` (R253). -/
def execSvNorm (d : R) (a b : GOp) (s : State) : Res := .next (s.push 0x68 (s.seBody a b) d)
/-- `sv.init` (R253). -/
def execSvInit (d : R) (a b : GOp) (s : State) : Res := .next (s.push 0x69 (s.seBody a b) d)
/-- `sv.sync` (R253). -/
def execSvSync (d : R) (a b : GOp) (s : State) : Res := .next (s.push 0x6A (s.seBody a b) d)
/-- `qpush` (R300): the op from a register; one that R107 does not list is QOP. -/
def execQpush (d : R) (a : GOp) (b : R) (s : State) : Res :=
  let op := s.rdN b.val % 2 ^ 7
  .next (if opListed op then s.push op (s.rdG a) d else s.faultSelf cQOP)

/-! ## Results (R301) -/

/-- A selector picks a result of a context. -/
def picks (sel : Word) (uid : Nat) (e : QoEntry) : Bool :=
  e.uid == uid && (sel.toNat / 4 % 2 == 0 || e.hdr.toNat % 2 ^ 32 == sel.toNat / 2 ^ 32)
/-- `qpop` (R301): the header and body words, zero beyond the body. -/
def execQpop (d : GOp) (a : R) (look : Look) (s : State) : Res :=
  let sel := s.rd a.val
  let f := sel.toNat % 4
  let q := fget [] s.here.qo f
  .next (match q.find? (picks sel s.me.uid) with
  | none => s.waits
  | some e =>
    let n := 2 ^ d.w.val
    let ws := ([e.hdr] ++ e.body ++ List.replicate n 0).take n
    (s.modHere (fun x => { x with qo := fset x.qo f (q.erase e) })).addOut (gDest d) look.val .ready (.words ws))
/-- `qstat` (R301). -/
def execQstat (d a : R) (s : State) : Res :=
  let f := s.rdN a.val % 4
  let x := s.here
  let u := s.me.uid
  let wait := ((fget [] x.qo f).filter (fun e => e.uid == u)).length + (x.spillRes.filter (fun r => r.1 == f && r.2.uid == u)).length +
    (x.parked.filter (fun p => p.uid == u && (match p.res with
      | some r => r.1 == f
      | none => false))).length
  let msgs := (x.inbox.filter (fun e => e.visible s.cur.slot)).length
  .next (s.wrN d.val (fifoDepth f - (fget [] x.qi f).length + min wait 255 * 2 ^ 8 + x.outUsed u * 2 ^ 16 + min msgs 63 * 2 ^ 24))

/-! ## Commands -/

/-- The op of a command. -/
def ECmd.op (e : ECmd) : Nat := e.hdr.toNat / 2 ^ 57
/-- The sequence number of a command. -/
def ECmd.seq (e : ECmd) : Nat := e.hdr.toNat % 2 ^ 32
/-- The core that pushed a command. -/
def ECmd.core (e : ECmd) : Nat := e.hdr.toNat / 2 ^ 41 % 2 ^ 12
/-- Body word `k`. -/
def ECmd.w (e : ECmd) (k : Nat) : Nat := (e.body.getD k 0).toNat
/-- The result entry of a command with a status and body (R108). -/
def ECmd.entry (e : ECmd) (status : Nat) (body : List Word) : QoEntry :=
  let h := e.hdr.toNat
  { hdr := BitVec.ofNat 64 (h / 2 ^ 57 * 2 ^ 57 + (body.length - 1) % 16 * 2 ^ 53 + h / 2 ^ 38 % 2 ^ 15 * 2 ^ 38 + status % 16 * 2 ^ 34 +
      h % 2 ^ 32), body := body, slot := e.slot, uid := e.uid }
/-- Who a command's accesses belong to: the pushing thread, through the pushing core's translation (R268). -/
def ECmd.who (e : ECmd) : Who := ⟨e.core, e.cont, e.uid⟩
/-- A word that names a ring (R303). -/
def ringWord (w : Nat) : Bool := w / 2 ^ 63 == 1
/-- The handle of a ring word; none with a bit of 62:13 set. -/
def ringHandle (w : Nat) : Option Nat := if w % 2 ^ 63 / 2 ^ 13 == 0 then some (w % 2 ^ 13) else none
/-- The address range of `n` bytes is out of range (R302). -/
def rangeBad (a n : Nat) : Bool := decide (2 ^ 52 < a + n) || decide (2 ^ 52 ≤ a)
/-- Checks on a ring operand (R302, R304): the ring is of the launch, its slots have the size. -/
def State.ringBad (s : State) (e : ECmd) (w : Nat) (size : Option Nat) : Bool :=
  match ringHandle w with
  | none => true
  | some h =>
    match s.ringOf h e.launch with
    | none => true
    | some r => match size with
      | some n => r.bytes != n
      | none => false

/-- A stride-gather pattern (R334): the shape record of 32 bytes with the base from W0; none when its valid bit is 0. -/
def patternOf (p : BitVec 256) (w0 : Nat) : Option Shape :=
  if p.toNat % 2 == 0 then none
  else some { shapeOf (leBytes 32 p.toNat) with base := w0 }
/-- Least and greatest byte offsets a pattern reaches from its base. -/
def Shape.reach (r : Shape) : Int × Int :=
  ((r.ext.zip r.str).take r.rank).foldl (fun p x =>
    let m : Int := (x.1 - 1 : Nat) * x.2 * (unitBytes r.fmt : Int)
    if m < 0 then (p.1 + m, p.2) else (p.1, p.2 + m)) (0, 0)
/-- Packed bytes of a pattern. -/
def Shape.packed (r : Shape) : Nat := r.count * unitBytes r.fmt

/-- Checks of a command before it starts (R302 to R307), in the order EBODY, ERANGE, EALIGN, ERING, ESGPAT, EOP; 0 when it may
start. ECAP is the target's answer. -/
def State.startStatus (s : State) (e : ECmd) (p : BitVec 256) : Nat :=
  let n := e.body.length
  let w := e.w
  match e.op with
  | 0x00 =>
    if n ≠ 3 then 1
    else if w 2 = 0 ∨ 2 ^ 31 < w 2 ∨ rangeBad (w 0) (w 2) ∨ (!ringWord (w 1) && rangeBad (w 1) (w 2)) then 2
    else if ringWord (w 1) && s.ringBad e (w 1) (some (w 2)) then 4 else 0
  | 0x01 | 0x02 =>
    let cnt := w 2 % 2 ^ 16
    let rb := w 2 / 2 ^ 32 % 2 ^ 16
    let table := if e.op = 0x01 then w 0 else w 3
    let other := if e.op = 0x01 then w 3 else w 0
    if n ≠ 4 then 1
    else if cnt = 0 ∨ 4096 < cnt ∨ rb < 64 ∨ rb % 64 ≠ 0 ∨ rangeBad table 0 ∨ rangeBad (w 1) (4 * cnt) ∨
        (!ringWord other && rangeBad other (cnt * rb)) then 2
    else if table % 64 ≠ 0 ∨ w 1 % 64 ≠ 0 then 3
    else if ringWord other && s.ringBad e other (some rb) then 4 else 0
  | 0x03 =>
    if n ≠ 3 then 1
    else if w 2 = 0 ∨ 2 ^ 31 < w 2 ∨ w 2 % 8 ≠ 0 ∨ rangeBad (w 0) (w 2) then 2
    else if w 0 % 8 ≠ 0 then 3 else 0
  | 0x04 => if n ≠ 1 then 1 else 0
  | 0x20 =>
    if n ≠ 3 then 1
    else if 64 ≤ w 2 ∨ rangeBad (w 0) 0 then 2
    else
      match patternOf p (w 0) with
      | none => 7
      | some r =>
        if 2 ^ 31 < r.packed ∨ (w 0 : Int) + r.reach.1 < 0 ∨ (2 ^ 52 : Int) < w 0 + r.reach.2 + unitBytes r.fmt ∨
            (!ringWord (w 1) && rangeBad (w 1) r.packed) then 2
        else if ringWord (w 1) && s.ringBad e (w 1) none then 4 else 0
  | _ =>
    if n ≠ 8 then 1
    else
      match decodeGroup (w 2 % 2 ^ 32) (w 2 / 2 ^ 32) with
      | .ok (.lone (.mma _ _ _ _ _ _)) | .ok (.lone (.mmas _ _ _ _ _ _ _)) | .ok (.lone (.mzero _ _)) | .ok (.lone (.mwb _ _))
      | .ok (.lone (.mdrain _ _ _ _ _)) | .ok (.lone (.asave _ _)) | .ok (.lone (.arest _ _)) => if w 7 = 0 then 0 else 8
      | _ => 8

/-! ## Starting (R298, R299) -/

/-- Commands of an engine that run at a core. -/
def State.running (s : State) (c f : Nat) : List ECmd := fget [] (s.core c).qrun f
/-- Replace the running commands of an engine. -/
def State.setRunning (s : State) (c f : Nat) (l : List ECmd) : State := s.setCore c { s.core c with qrun := fset (s.core c).qrun f l }
/-- An engine may start one more command (R298); one that holds a result starts none (R299). -/
def State.mayStart (s : State) (c f : Nat) (e : ECmd) : Bool :=
  let r := s.running c f
  (match f with
   | 0 => decide (r.length < 4)
   | 1 => decide (r.length < 2)
   | 2 => !r.any (fun o => s.target (o.body.getD 0 0) == { s.target (e.body.getD 0 0) with slot := (s.target (o.body.getD 0 0)).slot })
   | _ => false) &&
  r.all (fun o => match o.result with
    | some (st, b) => (s.deliverResult f (o.entry st b) false).isSome
    | none => true)
/-- A hub's stride-pattern entry (R334); every hub holds the same. -/
def State.pattern (s : State) (k : Nat) : BitVec 256 := fget 0 (s.hub 0).patterns k
/-- Start the next command of an engine in push order (R298, R302): a failing check completes it. -/
def State.startCmd (s : State) (c f : Nat) : State :=
  match fget [] (s.core c).qi f with
  | [] => s
  | e :: rest =>
    if !s.mayStart c f e then s
    else
      let p := if e.op = 0x20 then s.pattern (e.w 2 % 64) else 0
      let st := s.startStatus e p
      let e := { e with pattern := p, result := if st = 0 then none else some (st, if e.op = 0x04 then [0, e.body.getD 0 0] else [0]) }
      let s := s.setCore c { s.core c with qi := fset (s.core c).qi f rest }
      s.setRunning c f (s.running c f ++ [e])

/-! ## Units (R304) -/

/-- What one unit of a command does. -/
inductive UnitRes where
  /-- moved on: the command as it is now -/
  | moved (e : ECmd)
  /-- a fault: class, operand, address -/
  | fault (cls opnd addr : Nat)
  /-- waits for a ring slot or a held frame -/
  | waits
deriving DecidableEq, Repr
/-- A failed access of a unit. -/
def unitStop (opnd : Nat) (r : AccRes) : UnitRes :=
  match r with
  | .fault cls ea => .fault cls opnd ea
  | _ => .waits
/-- Read for a unit. -/
def State.unitRead (s : State) (e : ECmd) (a n : Nat) : State × Except UnitRes (List Byte) :=
  match s.readRun e.who a n 64 (n / 64 + 1) with
  | (s, .ok l) => (s, .ok l)
  | (s, .error r) => (s, .error (unitStop 1 r))
/-- Write for a unit, and go on to `e'`. -/
def State.unitWrite (s : State) (e : ECmd) (a : Nat) (data : List Byte) (e' : ECmd) : State × UnitRes :=
  match s.writeRun e.who a data 64 (data.length / 64 + 1) with
  | (s, none) => (s, .moved e')
  | (s, some r) => (s, unitStop 4 r)
/-- The name under which a command waits at a ring, apart from those of contexts (R310). -/
def ECmd.key (e : ECmd) : Nat := 2 ^ 64 + (4 * e.core + e.op / 32) * 2 ^ 32 + e.seq
/-- Take the next slot of a ring, to fill it or, with `full`, to read it (R304, R310): in turn with the threads that wait. -/
def State.takeSlot (s : State) (e : ECmd) (w : Nat) (full : Bool) : State × UnitRes :=
  match ringHandle w with
  | none => (s, .waits)
  | some h =>
    match s.ringOf h e.launch with
    | none => (s, .waits)
    | some r =>
      if full then
        if r.hasSlot && turn r.waitC e.key then
          (s.setRing h { r with c := nextPos r.c, waitC := r.waitC.erase e.key }, .moved { e with ringPos := some r.c })
        else (s.setRing h { r with waitC := queueUp r.waitC e.key }, .moved e)
      else if r.hasRoom && turn r.waitA e.key then
        (s.setRing h { r with a := nextPos r.a, waitA := r.waitA.erase e.key }, .moved { e with ringPos := some r.a })
      else (s.setRing h { r with waitA := queueUp r.waitA e.key }, .moved e)
/-- Address of the slot a command holds. -/
def State.slotAt (s : State) (e : ECmd) (w : Nat) : Nat :=
  match ringHandle w, e.ringPos with
  | some h, some x => (match s.ringOf h e.launch with
      | some r => r.slotAddr x
      | none => 0)
  | _, _ => 0
/-- Give the slot a command holds up at its last unit: published, or freed when it was read. -/
def State.leaveSlot (s : State) (e : ECmd) (w : Nat) (full : Bool) : State :=
  match ringHandle w, e.ringPos with
  | some h, some x => (match s.ringOf h e.launch with
      | some r => s.setRing h (if full then r.release x else r.publish x)
      | none => s)
  | _, _ => s
/-- Write a unit's bytes at offset `off` of the slot held, which is published when `last`. -/
def State.ringWrite (s : State) (e : ECmd) (w off : Nat) (data : List Byte) (last : Bool) (e' : ECmd) : State × UnitRes :=
  match s.unitWrite e (s.slotAt e w + off) data (if last then { e' with ringPos := none } else e') with
  | (u, .moved e') => (if last then u.leaveSlot e w false else u, .moved e')
  | r => r
/-- Finish a command: its result is the bytes written (R303, R306). -/
def ECmd.finish (e : ECmd) (n : Nat) : ECmd := { e with result := some (0, [BitVec.ofNat 64 n]) }
/-- A command moved on by `n` bytes of `total`; `out` bytes written at its end. -/
def ECmd.advance (e : ECmd) (n total out : Nat) : ECmd :=
  let e := { e with done := e.done + n }
  if total ≤ e.done then e.finish out else e
/-- Bytes a gather or scatter has written when complete: a scatter writes nothing for a hole. -/
def rowBytes (e : ECmd) : Nat := e.w 2 / 2 ^ 32 % 2 ^ 16
/-- A hole of an index list (R303). -/
def hole : Nat := 2 ^ 32 - 1
/-- One unit of `cp.copy` (R304): to a ring, the whole transfer fills one slot. -/
def State.copyUnit (s : State) (e : ECmd) : State × UnitRes :=
  let len := e.w 2
  let n := min 64 (len - e.done)
  if ringWord (e.w 1) && e.ringPos.isNone then s.takeSlot e (e.w 1) false
  else
    match s.unitRead e (e.w 0 + e.done) n with
    | (s, .error r) => (s, r)
    | (s, .ok l) =>
      if ringWord (e.w 1) then s.ringWrite e (e.w 1) e.done l (decide (len ≤ e.done + n)) (e.advance n len len)
      else s.unitWrite e (e.w 1 + e.done) l (e.advance n len len)
/-- A table row that would run past address 2^52 − 1 (R302). -/
def rowBad (base i rb : Nat) : Bool := i != hole && rangeBad (base + i * rb) rb
/-- Rows of a gather or scatter (R303). -/
def rowCount (e : ECmd) : Nat := e.w 2 % 2 ^ 16
/-- Indices in the piece of the index list to be read next. -/
def ECmd.listPiece (e : ECmd) : Nat := min 16 (rowCount e - e.idx.length)
/-- Read the next piece of the index list, before any row is moved: a row out of range ends the command with ERANGE (R302, R303). -/
def State.listUnit (s : State) (e : ECmd) (base : Nat) : State × UnitRes :=
  match s.unitRead e (e.w 1 + 4 * e.idx.length) (4 * e.listPiece) with
  | (s, .error r) => (s, r)
  | (s, .ok l) =>
    let is := (List.range e.listPiece).map (fun k => leNat ((l.drop (4 * k)).take 4))
    (s, .moved (if is.any (fun i => rowBad base i (rowBytes e)) then { e with result := some (2, [0]) }
      else { e with idx := e.idx ++ is.map some }))
/-- The row in progress is passed over whole: its index is not known (R354). A ring slot is left as it is. -/
def State.passRow (s : State) (e : ECmd) (w : Nat) (full : Bool) (out : Nat) : State × ECmd :=
  let e' := e.advance (rowBytes e - e.done % rowBytes e) (rowCount e * rowBytes e) out
  if ringWord w then (s.leaveSlot e w full, { e' with ringPos := none }) else (s, e')
/-- One unit of `cp.gather`: up to 64 bytes of a row, to memory or into the row's slot (R303, R304). -/
def State.gatherUnit (s : State) (e : ECmd) : State × UnitRes :=
  let rb := rowBytes e
  let total := rowCount e * rb
  let off := e.done % rb
  if e.idx.length < rowCount e then s.listUnit e (e.w 0)
  else if ringWord (e.w 3) && e.ringPos.isNone then s.takeSlot e (e.w 3) false
  else
    match e.idx.getD (e.done / rb) none with
    | none => let (u, e') := s.passRow e (e.w 3) false total; (u, .moved e')
    | some i =>
      match if i = hole then (s, .ok (List.replicate 64 0)) else s.unitRead e (e.w 0 + i * rb + off) 64 with
      | (s, .error r) => (s, r)
      | (s, .ok l) =>
        let e' := e.advance 64 total total
        if ringWord (e.w 3) then s.ringWrite e (e.w 3) off l (decide (rb ≤ off + 64)) e' else s.unitWrite e (e.w 3 + e.done) l e'
/-- One unit of `cp.scatter` (R303, R304): a ring source is consumed slot by slot; the result counts the bytes written, kept in
`pattern` as they are written. -/
def State.scatterUnit (s : State) (e : ECmd) : State × UnitRes :=
  let rb := rowBytes e
  let total := rowCount e * rb
  let off := e.done % rb
  let ring := ringWord (e.w 0)
  if e.idx.length < rowCount e then s.listUnit e (e.w 3)
  else if ring && e.ringPos.isNone then s.takeSlot e (e.w 0) true
  else
    match e.idx.getD (e.done / rb) none with
    | none => let (u, e') := s.passRow e (e.w 0) true e.pattern.toNat; (u, .moved e')
    | some i =>
      let last := ring && decide (rb ≤ off + 64)
      let out := e.pattern.toNat + (if i = hole then 0 else 64)
      let e' : ECmd := { e.advance 64 total out with pattern := BitVec.ofNat 256 out }
      let e' := if last then { e' with ringPos := none } else e'
      let done := fun (u : State) => if last then u.leaveSlot e (e.w 0) true else u
      if i = hole then (done s, .moved e')
      else
        match s.unitRead e (if ring then s.slotAt e (e.w 0) + off else e.w 0 + e.done) 64 with
        | (s, .error r) => (s, r)
        | (s, .ok l) =>
          match s.unitWrite e (e.w 3 + i * rb + off) l e' with
          | (u, .moved e') => (done u, .moved e')
          | r => r
/-- One unit of `cp.fill` (R303, R304). -/
def State.fillUnit (s : State) (e : ECmd) : State × UnitRes :=
  let len := e.w 2
  let n := min 64 (len - e.done)
  s.unitWrite e (e.w 0 + e.done) ((List.replicate (n / 8) (leBytes 8 (e.w 1))).flatten) (e.advance n len len)
/-- Bytes of a slot of the ring a command writes; `n` when it writes memory. -/
def State.slotSize (s : State) (e : ECmd) (w n : Nat) : Nat :=
  match ringHandle w, ringWord w with
  | some h, true => (match s.ringOf h e.launch with
      | some g => g.bytes
      | none => n)
  | _, _ => n
/-- One unit of `sg.read` (R306): one element, read whole; one that does not fit into what is left of a slot goes on in the next. -/
def State.strideUnit (s : State) (e : ECmd) : State × UnitRes :=
  match patternOf e.pattern (e.w 0) with
  | none => (s, .waits)
  | some r =>
    let ub := unitBytes r.fmt
    let ring := ringWord (e.w 1)
    if ring && e.ringPos.isNone then s.takeSlot e (e.w 1) false
    else
      match if e.rest.isEmpty then s.unitRead e (r.addr (e.done / ub)).toNat ub else (s, .ok e.rest) with
      | (s, .error x) => (s, x)
      | (s, .ok l) =>
        let size := s.slotSize e (e.w 1) r.packed
        let off := e.done % size
        let n := if ring then min l.length (size - off) else l.length
        let e' := { e.advance n r.packed r.packed with rest := l.drop n }
        if ring then s.ringWrite e (e.w 1) off (l.take n) (decide (size ≤ off + n) || decide (r.packed ≤ e.done + n)) e'
        else s.unitWrite e (e.w 1 + e.done) l e'
/-- One unit of a running command. -/
def State.unit (s : State) (e : ECmd) : State × UnitRes :=
  match e.op with
  | 0x00 => s.copyUnit e
  | 0x01 => s.gatherUnit e
  | 0x02 => s.scatterUnit e
  | 0x03 => s.fillUnit e
  | 0x20 => s.strideUnit e
  | _ => (s, .waits)
/-- The hub at which a stride-gather command works: that of the page of the element it is at, hub 0 when no hub holds it (R298, R306). -/
def State.strideHub (s : State) (e : ECmd) : Nat :=
  match patternOf e.pattern (e.w 0) with
  | none => 0
  | some r =>
    let a := (r.addr (e.done / unitBytes r.fmt)).toNat
    match s.walk e.cont a with
    | .ok t => (match hbmFrame (t.target + (a - t.vbase * 2 ^ 16)) with
        | some (h, _) => h
        | none => 0)
    | .error _ => 0
/-- Post the fault message of a command's access (R302, R350), a stride-gather command's from its hub (R335); one that has been retried
counts (R337). -/
def State.engineFault (s : State) (c f : Nat) (e : ECmd) (cls opnd addr : Nat) : State :=
  let hub := s.strideHub e
  let r : FaultRec := { addr := addr, pc := e.pc, seq := e.seq, lnch := launchWord e.launch, core := e.core, slot := e.slot,
                        stage := e.s.kstage.toNat % 16, cls := cls, opnd := opnd, unit := if f = 1 then 2 else 1,
                        elem := (match f, patternOf e.pattern (e.w 0) with
                          | 1, some r => e.done / unitBytes r.fmt
                          | _, _ => 0),
                        aux := if f = 1 then hub + e.w 2 % 64 * 2 ^ 8 else 0 }
  let s := if e.retried then s.countRefault c else s
  (s.postFault (if f = 1 then 128 + hub else svcIndex c) r e.uid e.launch (.engine f e.seq)).1
/-- Run one unit of running command `k` of an engine. -/
def State.runUnit (s : State) (c f k : Nat) : State :=
  match (s.running c f)[k]? with
  | none => s
  | some e =>
    if e.result.isSome || e.faulted then s
    else
      match s.unit e with
      | (u, .moved e') => u.setRunning c f ((u.running c f).set k { e' with retried := false })
      | (u, .fault cls opnd addr) =>
        (u.setRunning c f ((u.running c f).set k { e with faulted := true })).engineFault c f e cls opnd addr
      | (_, .waits) => s
/-- ENGINE_COMMAND_START at FIFO f of core q (R298, R304, R306): the next command starts; with `on`, running command k moves on by a
unit. -/
def execEngineCommandStart (s : State) : Res :=
  .next (if s.ev.on then s.runUnit s.ev.q s.ev.f s.ev.k else s.startCmd s.ev.q s.ev.f)
/-- ENGINE_RESULT: complete command k of FIFO f of core q delivers its result (R299). -/
def execEngineResult (s : State) : Res :=
  let l := s.running s.ev.q s.ev.f
  .next (match l[s.ev.k]? with
  | some e =>
    match e.result with
    | some (st, b) =>
      ((s.setRunning s.ev.q s.ev.f (dropAt l s.ev.k)).deliverResult s.ev.f (e.entry st b) false).getD s
    | none => s
  | none => s)
/-- An earlier `cp` command of the same context, pushed at this core or another, is not complete (R305). -/
def State.copyBefore (s : State) (e : ECmd) : Bool :=
  s.cores.any (fun x => (fget [] x.2.qi 0 ++ fget [] x.2.qrun 0).any (fun o =>
    o.uid == e.uid && o.result.isNone && decide (o.pushed < e.pushed)))
/-- CP_TOKEN_COMPLETE for running command k of core q (R305). -/
def execCpTokenComplete (s : State) : Res :=
  let c := s.ev.q
  let l := s.running c 0
  .next (match l[s.ev.k]? with
  | some e =>
    if e.op == 0x04 && e.result.isNone && !s.copyBefore e then
      s.setRunning c 0 (l.set s.ev.k { e with result := some (0, [0, e.body.getD 0 0]) })
    else s
  | none => s)

/-! ## Remote matrix commands (R307) -/

/-- The accumulators a command needs of a capability; `mwb` names none. -/
def capFits (i : Instr) (mask : Nat) : Bool :=
  match accOf i with
  | some a => mask.testBit a
  | none => mask != 0
/-- What the target of a remote command answers (R307): a status, a place in its queue, or it is still to wait for one. -/
inductive RemoteCase where
  | refused (status : Nat)
  | full
  | taken (i : Instr)
deriving DecidableEq, Repr
/-- The target's judgement of a command (R307, R12): its capability check, then the room in its matrix queue. -/
def State.remoteCase (s : State) (core : Nat) (cap : Word) (e : ECmd) : RemoteCase :=
  match decodeGroup (e.w 2 % 2 ^ 32) (e.w 2 / 2 ^ 32) with
  | .ok (.lone i) =>
    let x := s.core core
    if isOpt core || !coreExists core || !x.capab.any (fun p => p.2.1 == cap && p.2.1 != 0 && capFits i p.2.2) then .refused 5
    else if 16 ≤ x.mq.length + (if x.mrun.isSome then 1 else 0) then .full
    else .taken i
  | _ => .refused 5
/-- The command as it enters the target's matrix queue; `far` is the device that pushed it when not this one. -/
def State.enterRemote (s : State) (core c : Nat) (far : Option Nat) (e : ECmd) (i : Instr) : State :=
  let ops := match i with
    | .mma _ _ _ _ _ _ => [e.body.getD 3 0, e.body.getD 4 0, e.body.getD 5 0]
    | .mmas _ _ _ _ _ _ _ => [e.body.getD 3 0, e.body.getD 4 0, e.body.getD 5 0, e.body.getD 6 0]
    | .mwb _ _ => [e.body.getD 3 0, e.body.getD 5 0]
    | .mzero _ _ => []
    | _ => [e.body.getD 3 0]
  let m : MCmd := { ins := i, s := { e.s with ops := ops }, core := core, slot := e.slot, uid := e.uid, pc := e.pc,
                    seq := 2 ^ 32 * (c + 1 + 4096 * (match far with
                      | some d => d + 1
                      | none => 0)) + e.seq, launch := e.launch, cont := e.cont, remote := some (c, e.seq, e.hdr), far := far }
  s.setCore core { s.core core with mq := (s.core core).mq ++ [m] }
/-- A command of core q, slot t mod 16, of device k comes in from the fabric (R307, assumption 77): its body is `data`, v and w are its
thread's `kscl.a` and `kscl.b`, f holds `kfmt.a`, `kfmt.b`, `kfmt.c`, `kround` from bit 1 up, and t from bit 4 up its container; it waits
there while the queue is full. -/
def State.farCommand (s : State) : State :=
  let body := (List.range 8).map (lineWord s.ev.data)
  let f := s.ev.f / 2
  let word := fun (n m : Nat) => BitVec.ofNat 64 (f / 2 ^ n % m)
  let e : ECmd := { hdr := BitVec.ofNat 64 (0x40 * 2 ^ 57 + 7 * 2 ^ 53 + s.ev.q % 4096 * 2 ^ 41 + s.ev.t % 8 * 2 ^ 38), body := body,
                    slot := s.ev.t % 8, uid := 0, pc := 0, launch := none, cont := s.ev.t / 16,
                    s := { kfmtA := word 0 16, kfmtB := word 4 16, kfmtC := word 8 16, kround := word 12 8, ksclA := s.ev.v, ksclB := s.ev.w } }
  let t := s.target (body.getD 0 0)
  if s.ev.k == s.rank || !s.rankExists s.ev.k || t.dev != s.rank then s
  else
    match s.remoteCase t.core (body.getD 1 0) e with
    | .refused st => s.remoteResult (some s.ev.k) (s.ev.q % 4096) 0 st
    | .full => s
    | .taken i => s.enterRemote t.core (s.ev.q % 4096) (some s.ev.k) e i
/-- REMOTE_MATRIX_ACCEPT for running command k of core q (R307): the target's capability check, then its matrix queue. A target on
another device is asked through the fabric, and with `on` its answer, status t, comes back; with an odd f a command of another device
comes in. -/
def execRemoteMatrixAccept (s : State) : Res :=
  let c := s.ev.q
  let l := s.running c 2
  .next (if s.ev.on && s.ev.f % 2 == 1 then s.farCommand
    else match l[s.ev.k]? with
  | none => s
  | some e =>
    let t := s.target (e.body.getD 0 0)
    let sent := e.done != 0
    if sent && e.result.isNone && s.ev.on && t.dev != s.rank then
      s.setRunning c 2 (l.set s.ev.k { e with result := some (s.ev.t % 16, [0]) })
    else if sent || e.result.isSome || s.ev.on then s
    else
      let fail := s.setRunning c 2 (l.set s.ev.k { e with result := some (5, [0]) })
      if t.dev ≠ s.rank then
        if s.rankExists t.dev && s.reachable t.dev then
          { s.setRunning c 2 (l.set s.ev.k { e with done := 1 }) with
            fabric := s.fabric ++ [{ kind := 7, vn := 3, sdev := s.rank, src := c, sslot := e.slot, ddev := t.dev, dst := t.core, dslot := 15,
                                     nf := 1, flits := [lineOfWords e.body] }] }
        else fail
      else
        match s.remoteCase t.core (e.body.getD 1 0) e with
        | .refused _ => fail
        | .full => s
        | .taken i => (s.setRunning c 2 (l.set s.ev.k { e with done := 1 })).enterRemote t.core c none e i)

end Sys2Proof.Machine
end

