-- ==== Sys2Proof/Machine/Fetch.lean ====
section
/-! DEFINITION. Fetching the next group of a thread (R92, R93, R296, R319) and the safe-point bound (R49). -/

namespace Sys2Proof.Machine

/-- What a slot's thread finds at its PC. -/
inductive Fetched where
  | group (g : Group)
  /-- a word that is no instruction: word and field code (R110) -/
  | illenc (word code : Nat)
  /-- a precise fault of the fetch: class and address -/
  | fault (cls addr : Nat)
  /-- a page fault of the fetch: class and address -/
  | page (cls addr : Nat)
  /-- the frame is held (R227, R368) -/
  | held
deriving DecidableEq, Repr

/-- The group two words are on a core: an optimiser core has no matrix unit, so the matrix family's major is none there, whatever the
other fields hold (R12, R109, R111, R190). -/
def groupOn (c w0 w1 : Nat) : Fetched :=
  if isOpt c && fld w0 31 1 == 1 && fld w0 25 6 == 0x0A then .illenc 0 1
  else
    match decodeGroup w0 w1 with
    | .error e => .illenc e.word e.code
    | .ok g => .group g

/-- Fetch the group at the PC of a slot's thread: from its Drupe by group index (R296, R297), else from memory with the right
to execute (R320). -/
def State.fetch (s : State) (c t : Nat) : State × Fetched :=
  let th := s.thr c t
  let a := th.pc.toNat
  match th.drupe with
  | some d =>
    let i := a / 8
    if d.code.length < 2 * i + 2 then (s, .fault cBADPC 0)
    else (s, groupOn c (d.code.getD (2 * i) 0).toNat (d.code.getD (2 * i + 1) 0).toNat)
  | none =>
    if a % 8 ≠ 0 then (s, .fault cBADPC a)
    else if 2 ^ 52 ≤ a then (s, .fault cADDRRNG a)
    else
      match s.place c th.cont a .fetch .load with
      | (u, .error 0) => (u, .held)
      | (u, .error cls) => (u, .page cls a)
      | (u, .ok p) => (u, groupOn c (u.mem.nat p.rpa 4) (u.mem.nat (p.rpa + 4) 4))

/-- The group is a safe point. -/
def groupSafe (g : Group) : Bool :=
  match g with
  | .lone (.safe _ _ _) => true
  | _ => false
/-- The thread has used its safe-point bound (R49). -/
def State.overdue (s : State) (c t : Nat) : Bool := decide ((s.core c).kpre.toNat ≤ (s.thr c t).safeCount)
/-- A fault of the thread in a slot at its PC. -/
def State.faultAt (s : State) (c t cls opnd addr aux : Nat) : State :=
  let u := ({ s with cur := { core := c, slot := t, addr := (s.thr c t).pc } } : State).fault cls opnd addr aux
  { u with cur := {} }
/-- The group decodes, but on a slot's thread it raises ILLENC (R49): a `kset` whose value its register does not hold (R131), an `svcset`
with an index or entry out of range (R335), each with the right to it. -/
def State.raisesIllenc (s : State) (c t : Nat) (g : Group) : Bool :=
  let u : State := { s with cur := { core := c, slot := t } }
  match g with
  | .pair (.kset a kn v6) _ =>
    !(decide (0x18 ≤ kn.val) && !u.service) &&
      !kvalOk kn.val (if a.val = 0 then BitVec.ofNat 64 v6.val else u.rd a.val) u.src.krole
  | .pair (.svcset a b) _ =>
    u.service && (decide (154 ≤ u.rdN a.val) || u.rdN b.val % 2 ^ 16 / 2 ^ 12 % 8 != 0)
  | _ => false
/-- Some thread of a slot's gang raises ILLENC at the group. -/
def State.illencAny (s : State) (c t : Nat) (g : Group) : Bool := (s.members c t).any (fun m => s.raisesIllenc m.1 m.2 g)
/-- The group at the PC of a slot's thread does not execute: SAFEOVD (R49). -/
def State.safeovd (s : State) (c t : Nat) : State := s.faultAt c t cSAFEOVD 6 0 0

/-- A fetch that cannot go on (R92, R109, R247). -/
def State.fetchFails (s : State) (c t : Nat) (f : Fetched) : State :=
  match f with
  | .illenc w k => s.faultAt c t cILLENC (opndOf k) 0 (16 * w + k)
  | .fault cls a => s.faultAt c t cls 6 a 0
  | .page cls a =>
    let th := s.thr c t
    let s := if th.refetch then s.countRefault c else s
    let (u, rid) := s.postFault (svcIndex c) { recFor c t th a with cls := cls, opnd := 6, addr := a } th.uid th.launch .fetch
    u.mailbox c t th.uid rid
  | _ => s.setThr c t { s.thr c t with blk := .retry }

end Sys2Proof.Machine
end

