-- ==== Sys2Proof/Machine/Lathe.lean ====
section
/-! DEFINITION. The Lathe (R152 to R155): starting a capture, capturing, the checks of R153, the footprint, completion;
the interlocks of groups and repetitions. -/

namespace Sys2Proof.Machine

/-! ## Interlocks (R102, R103) -/

/-- Two register lists meet. -/
def meets (a b : List Reg) : Bool := a.any (fun r => b.contains r)
/-- The result of an outstanding operation lands before a group (R102, R103): it has arrived, and its window has run out or the
group writes one of its registers. Of a group inside the window that writes such a register, R102 and R103 leave open what becomes of
the rest: the whole result lands, so the window closes early for all its registers, and a group that also reads a register of it reads
the new value (DESIGN CHOICE, assumption 100). -/
def Out.lands (o : Out) (ws : List Reg) : Bool := o.wait == .ready && (o.look == 0 || meets o.regs ws)
/-- Land what lands before a group of a slot's thread. -/
def State.landFor (s : State) (c t : Nat) (ws : List Reg) : State :=
  let os := (s.thr c t).outs
  let x := (s.core c).landReady t (os.filter (fun o => o.lands ws))
  s.setCore c (x.setThr t { x.thr t with outs := os.filter (fun o => !o.lands ws) })
/-- Vector registers that a held store still reads (R355). -/
def Thread.heldReads (th : Thread) : List Reg :=
  match th.held with
  | some (.stv _ _ w _ v _ _) => regsFrom .v v w
  | _ => []
/-- A pending result holds the group: a window that has run out under a register it reads, or a pending write of one it writes
(R102, R103); a load that waits for its version past its window (R232); a register that a held store reads and the group writes
(R355). -/
def Thread.interlocked (th : Thread) (rs ws : List Reg) : Bool :=
  th.outs.any (fun o => (o.look == 0 && meets o.regs rs) || meets o.regs ws ||
    (o.look == 0 && (match o.wait with
      | .ldx _ _ _ _ => true
      | _ => false))) ||
  meets th.heldReads ws

/-- An instruction that rounds its elements to BF16 whenever it runs under SR (R80). -/
def roundsBf16 (i : Instr) : Bool :=
  match i with
  | .vadd ty _ _ _ | .vsub ty _ _ _ | .vmul ty _ _ _ | .vfma ty _ _ _ | .vcvt _ ty _ _ | .vrcp ty _ _ _ | .vrsq ty _ _ _
  | .vexp2 ty _ _ _ | .vlog2 ty _ _ _ | .vtanh ty _ _ _ | .vsigm ty _ _ _ => ty.val == 4
  | _ => false
/-- An instruction that draws at the counter of `kseq` under the registers of a thread (R80). -/
def drawsSr (i : Instr) (th : Thread) : Bool :=
  match lvSplit i, i with
  | some (j, x), _ => roundsBf16 j && (match x.rsel with
    | some r => r.val == 4
    | none => th.kround == 4)
  | none, .mdrain _ _ _ _ _ => th.kround == 4 && th.kfmtC == 4
  | none, j => roundsBf16 j && th.kround == 4
/-- A drain of a context that rounds under SR is not complete, so the counter has not reached its next value: another instruction that
draws waits, and no two draw at one value (R80; DESIGN CHOICE, assumption 101). -/
def State.srOpen (s : State) (uid : Nat) : Bool := s.cores.any (fun x => x.2.mopen.any (fun m => m.uid == uid && m.sr))
/-- An instruction waits for the counter of its slot's thread (R80). -/
def State.srHeld (s : State) (c t : Nat) (i : Instr) : Bool := drawsSr i (s.thr c t) && s.srOpen (s.thr c t).uid

/-! ## Capture -/

/-- The V7 operands of an A-slot instruction. -/
def vopsOf (i : Instr) : List VOp :=
  match i with
  | .vadd _ d a b | .vsub _ d a b | .vmul _ d a b | .vfma _ d a b | .vmin _ d a b | .vmax _ d a b | .vminp _ d a b
  | .vmaxp _ d a b | .vand d a b | .vor d a b | .vxor d a b | .vandn d a b | .vshl _ d a b | .vshr _ d a b
  | .vsra _ d a b | .vperm _ d a b | .vrng _ d a b | .vcmul d a b | .vsel _ d a b => [d, a, b]
  | .vcvt _ _ d a | .vrcp _ _ d a | .vrsq _ _ d a | .vexp2 _ _ d a | .vlog2 _ _ d a | .vtanh _ _ d a | .vsigm _ _ d a
  | .vbcast _ d a _ | .vshuf _ d a _ | .vred _ _ d a | .vscan _ _ _ d a | .vquant _ d a | .vdeq _ d a | .vxall _ d a => [d, a]
  | .vcmp _ _ _ a b => [a, b]
  | _ => []

/-- `lathe` (R152): the groups that follow are captured; the count is the immediate or a register. A Lathe at work keeps the
thread waiting; in a Drupe it is DRUPEOP (R297). -/
def execLathe (n1 : Fin 16) (stride : Fin 32) (cg : R) (count : BitVec 32) (s : State) : Res :=
  .next (if s.me.drupe.isSome then s.faultSelf cDRUPEOP
    else if s.here.lathe.isSome then s.waits
    else s.modHere (fun x => { x with lathe := some {
      slot := s.cur.slot, uid := s.me.uid, pc := s.cur.addr.toNat, left := n1.val + 1, stride := stride.val,
      count := if cg.val = 0 then count.toNat else s.rdN cg.val % 2 ^ 32,
      wbase := winBase s.src.kvwin, wcnt := winCnt s.src.kvwin } }))

/-- The capture of a slot's thread in progress. -/
def Core.capturing (x : Core) (uid : Nat) : Option Lathe :=
  match x.lathe with
  | some l => if l.uid == uid && l.left != 0 then some l else none
  | none => none
/-- A group that decodes at the PC of a slot's thread raises SAFEOVD (R49): the count has reached `kpre`, the group is no safe point, and
it raises no ILLENC; what a capture takes does not execute and raises none. -/
def State.overdueAt (s : State) (c t : Nat) (g : Group) : Bool :=
  s.overdue c t && !groupSafe g && (((s.core c).capturing (s.thr c t).uid).isSome || !s.illencAny c t g)
/-- SAFEOVD (R49): the next group of slot t of core q, were it to issue, is overdue. -/
def execSafeovd (s : State) : Res :=
  let c := s.ev.q
  let t := s.ev.t
  let th := s.thr c t
  .next (if th.live && th.leads && th.after == .none && (th.blk == .none || th.blk == .retry) && s.overdue c t then
      match s.fetch c t with
      | (u, .group g) => if s.overdueAt c t g then u.safeovd c t else s
      | (_, _) => s
    else s)
/-- Capture one group (R152, R153). -/
def Lathe.take (l : Lathe) (g : Group) : Lathe :=
  match g with
  | .pair .nopC a => { l with words := l.words ++ [a], left := l.left - 1 }
  | _ => { l with words := l.words ++ [.nopA], left := l.left - 1, bad := true }
/-- The checks of R153. -/
def Lathe.ok (l : Lathe) : Bool :=
  !l.bad && (l.words.flatMap vopsOf).all (fun o =>
    l.wcnt != 0 && l.stride % 2 ^ o.w.val == 0 && (o.w.val != 3 || l.stride == 0 || l.wcnt % 8 == 0))

/-- A vector register number moved on by `off` (R152). -/
def Lathe.moved (l : Lathe) (off n : Nat) : Nat := l.wbase + (n + off) % (if l.wcnt = 0 then 1 else l.wcnt)
/-- A register of a captured instruction as core register at a repetition. -/
def Lathe.reg (l : Lathe) (off : Nat) (r : Reg) : Reg :=
  match r with
  | .v n => .v (l.moved off n)
  | r => r
/-- Registers a captured instruction reads and writes at a repetition. -/
def Lathe.uses (l : Lathe) (r : Nat) (i : Instr) : List Reg × List Reg :=
  ((i.reads).map (l.reg (r * l.stride)), (i.writes).map (l.reg (r * l.stride)))
/-- The footprint (R154): every register that any repetition reads or writes. -/
def Lathe.footprint (l : Lathe) : List Reg :=
  (List.range (min l.count (max l.wcnt 1))).flatMap (fun r =>
    l.words.flatMap (fun i => (l.uses r i).1 ++ (l.uses r i).2))
/-- The Lathe of a core has run out of repetitions. -/
def Lathe.over (l : Lathe) : Bool := l.left == 0 && (decide (l.count ≤ l.r) || l.words.isEmpty)
/-- The Lathe at its next captured instruction (R152). -/
def Lathe.next (l : Lathe) : Lathe := if l.i + 1 < l.words.length then { l with i := l.i + 1 } else { l with i := 0, r := l.r + 1 }
/-- The place a captured instruction runs at: its group's address, the window and the offset of the repetition (R152). -/
def Lathe.cur (l : Lathe) (c : Nat) : Cur :=
  { core := c, slot := l.slot, addr := BitVec.ofNat 64 (l.pc + 8 * (l.i + 1)), lathe := some (l.wbase, l.wcnt, l.r * l.stride),
    rep := l.r }
/-- Results of repetitions still to be written. -/
def Core.latheBusy (x : Core) (l : Lathe) : Bool :=
  (x.thr l.slot).outs.any (fun o => o.lathe) || x.vxq.any (fun v => v.uid == l.uid) ||
  x.rq.any (fun r => r.lathe && r.uid == l.uid) || x.envPend.any (fun e => e.lathe && e.uid == l.uid)
/-- Complete the Lathe of a core: its thread's pending bit 2 (R142, R154). -/
def State.latheDone (s : State) (c : Nat) (l : Lathe) : State :=
  (s.setCore c { s.core c with lathe := none }).signal c l.slot 2
/-- After the last capture group: with a count of 0 the capture is discarded and the Lathe completes at once (R152). -/
def State.captured (s : State) (c : Nat) (l : Lathe) : State :=
  let s := s.setCore c { s.core c with lathe := some l }
  if l.left == 0 && l.count == 0 then s.latheDone c l else s
/-- LATHEOP at the `lathe` group (R153): the capture is gone. -/
def State.latheop (s : State) (c t : Nat) (l : Lathe) : State :=
  let s := s.setCore c { s.core c with lathe := none }
  (s.setThr c t { s.thr c t with pc := BitVec.ofNat 64 l.pc }).faultAt c t cLATHEOP 6 0 0

end Sys2Proof.Machine
end

