-- ==== Sys2Proof/Machine/Envelope.lean ====
section
/-! DEFINITION. Envelopes (R207 to R217) as values: evaluation, normalise and the set operations, every rounding FP32 to nearest
even. What an operation gives is a value with the flags its roundings raised and whether some line or intermediate was infinite
or NaN (ENVRNG). -/

namespace Sys2Proof.Machine

/-- A value with the flags and the ENVRNG mark of the roundings behind it. -/
structure Rd (α : Type) where
  val : α
  fl : Flags := 0
  bad : Bool := false

/-- −∞ and +∞ in FP32. -/
def negInf : Nat := 0xFF800000
/-- +∞ in FP32. -/
def posInf : Nat := 0x7F800000
/-- The number is finite. -/
def finite32 (x : Nat) : Bool :=
  match unpack fp32 x with
  | .fin _ _ _ => true
  | _ => false
/-- The number is a NaN. -/
def nan32 (x : Nat) : Bool := (unpack fp32 x).isNan
/-- x < y as numbers. -/
def flt (x y : Nat) : Bool := (fcompare fp32 2 x y).1
/-- x ≤ y as numbers. -/
def fle (x y : Nat) : Bool := (fcompare fp32 3 x y).1
/-- x = y as numbers. -/
def feq (x y : Nat) : Bool := (fcompare fp32 0 x y).1
/-- −x. -/
def fneg32 (x : Nat) : Nat := if 2 ^ 31 ≤ x then x - 2 ^ 31 else x + 2 ^ 31

/-- A line with a tag. -/
structure Line where
  s : Nat
  c : Nat
  t : Nat
deriving DecidableEq, Repr
/-- The line of a piece. -/
def Piece.line (p : Piece) : Line := ⟨p.s, p.c, p.t⟩

/-- fma(s, x, c) rounded (R207). -/
def lineAt (l : Line) (x : Nat) : Nat × Flags := ffma fp32 rne false false l.s x l.c
/-- The breakpoint of two lines (R208), marked when an intermediate is infinite or NaN. -/
def bp (l m : Line) : Rd Nat :=
  let a := fsub fp32 rne l.c m.c
  let b := fsub fp32 rne m.s l.s
  let q := fdiv fp32 rne a.1 b.1
  { val := q.1, fl := a.2 ||| b.2 ||| q.2, bad := !(finite32 a.1 && finite32 b.1 && finite32 q.1) }

/-- A line goes before another: ascending slope, then the larger intercept, then the lower tag (R208). -/
def lineBefore (a b : Line) : Bool :=
  if feq a.s b.s then (if feq a.c b.c then decide (a.t < b.t) else flt b.c a.c) else flt a.s b.s
/-- Insert a line behind those that do not go after it. -/
def insertLine (l : Line) (ls : List Line) : List Line :=
  match ls with
  | [] => [l]
  | m :: rest => if lineBefore l m then l :: m :: rest else m :: insertLine l rest
/-- Lines in order, earlier ones first among equals. -/
def sortLines (ls : List Line) : List Line := ls.foldl (fun acc l => insertLine l acc) []
/-- Of neighbouring lines of equal slope the first is kept; `prev` is the last one kept. -/
def keepFirst (prev : Option Line) (ls : List Line) : List Line :=
  match ls with
  | [] => []
  | m :: rest =>
    match prev with
    | some l => if feq l.s m.s then keepFirst prev rest else m :: keepFirst (some m) rest
    | none => m :: keepFirst (some m) rest
/-- The hull's stack, top first, after a line has removed those it covers (R208). -/
def hullPop (m : Line) (h : List Line) : Rd (List Line) :=
  match h with
  | t :: u :: rest =>
    let x := bp u m
    let y := bp u t
    let f := x.fl ||| y.fl
    let b := x.bad || y.bad
    if fle x.val y.val then
      let r := hullPop m (u :: rest)
      { val := r.val, fl := r.fl ||| f, bad := r.bad || b }
    else { val := t :: u :: rest, fl := f, bad := b }
  | h => { val := h }
/-- The hull of sorted lines, top first. -/
def hull (h : List Line) (ls : List Line) : Rd (List Line) :=
  match ls with
  | [] => { val := h }
  | m :: rest =>
    let p := hullPop m h
    let r := hull (m :: p.val) rest
    { val := r.val, fl := r.fl ||| p.fl, bad := r.bad || p.bad }
/-- Remove leading pieces that end at or before lo. -/
def trimLo (lo : Nat) (ls : List Line) : Rd (List Line) :=
  match ls with
  | l :: m :: rest =>
    let b := bp l m
    if fle b.val lo then
      let r := trimLo lo (m :: rest)
      { val := r.val, fl := r.fl ||| b.fl, bad := r.bad || b.bad }
    else { val := l :: m :: rest, fl := b.fl, bad := b.bad }
  | ls => { val := ls }
/-- Remove last pieces that begin at or after hi; the list is last first. -/
def trimHi (hi : Nat) (ls : List Line) : Rd (List Line) :=
  match ls with
  | l :: m :: rest =>
    let b := bp m l
    if fle hi b.val then
      let r := trimHi hi (m :: rest)
      { val := r.val, fl := r.fl ||| b.fl, bad := r.bad || b.bad }
    else { val := l :: m :: rest, fl := b.fl, bad := b.bad }
  | ls => { val := ls }
/-- The index of the lowest interior piece without width, the list starting at piece `i`'s left neighbour. -/
def narrowest (i : Nat) (ls : List Line) : Rd (Option Nat) :=
  match ls with
  | k :: l :: m :: rest =>
    let x := bp k l
    let y := bp l m
    if fle y.val x.val then { val := some i, fl := x.fl ||| y.fl, bad := x.bad || y.bad }
    else
      let r := narrowest (i + 1) (l :: m :: rest)
      { val := r.val, fl := r.fl ||| x.fl ||| y.fl, bad := r.bad || x.bad || y.bad }
  | _ => { val := none }
/-- Remove interior pieces without width, `n` at most. -/
def dropNarrow (n : Nat) (ls : List Line) : Rd (List Line) :=
  match n with
  | 0 => { val := ls }
  | n + 1 =>
    let k := narrowest 1 ls
    match k.val with
    | none => { val := ls, fl := k.fl, bad := k.bad }
    | some i =>
      let r := dropNarrow n (dropAt ls i)
      { val := r.val, fl := r.fl ||| k.fl, bad := r.bad || k.bad }
/-- Pieces of consecutive lines, the first beginning at `b`. -/
def piecesFrom (b : Nat) (ls : List Line) : Rd (List Piece) :=
  match ls with
  | [] => { val := [] }
  | [l] => { val := [⟨l.s, l.c, b, l.t⟩] }
  | l :: m :: rest =>
    let x := bp l m
    let r := piecesFrom x.val (m :: rest)
    { val := ⟨l.s, l.c, b, l.t⟩ :: r.val, fl := r.fl ||| x.fl, bad := r.bad || x.bad }

/-- The empty-domain envelope (R207). -/
def Env.empty : Env := { lo := posInf, hi := negInf, pieces := [] }
/-- The cleared envelope on a domain. -/
def Env.cleared (lo hi : Nat) : Env := { lo := lo, hi := hi, pieces := [] }
/-- The domain is empty. -/
def Env.isEmpty (e : Env) : Bool := flt e.hi e.lo
/-- The envelope is cleared: a domain without pieces. -/
def Env.isCleared (e : Env) : Bool := !e.isEmpty && e.pieces.isEmpty
/-- The lines of an envelope. -/
def Env.lines (e : Env) : List Line := e.pieces.map Piece.line

/-- normalise (R208): the envelope of lines on a domain. -/
def normalise (ls : List Line) (lo hi : Nat) : Rd Env :=
  let bad := ls.any (fun l => !(finite32 l.s && finite32 l.c))
  if bad then { val := Env.empty, bad := true }
  else if flt hi lo then { val := Env.empty }
  else
    let h := hull [] (keepFirst none (sortLines ls))
    let a := trimLo lo h.val.reverse
    let b := trimHi hi a.val.reverse
    let c := dropNarrow b.val.length b.val.reverse
    let p := piecesFrom lo c.val
    { val := { lo := lo, hi := hi, pieces := p.val }, fl := h.fl ||| a.fl ||| b.fl ||| c.fl ||| p.fl,
      bad := h.bad || a.bad || b.bad || c.bad || p.bad }

/-- The index of the piece that holds x (R207): the last piece whose left breakpoint is not above x. -/
def Env.pieceAt (e : Env) (x : Nat) : Nat :=
  ((List.range e.pieces.length).filter (fun j => j == 0 || fle (e.pieces.getD j ⟨0, 0, 0, 0⟩).b x)).getLastD 0
/-- x lies in the domain. -/
def Env.inside (e : Env) (x : Nat) : Bool := fle e.lo x && fle x e.hi
/-- A piece's line by index. -/
def Env.lineNo (e : Env) (j : Nat) : Line := (e.pieces.getD j ⟨0, 0, 0, 0⟩).line
/-- The value at x (R207, R216). -/
def Env.eval (e : Env) (x : Nat) : Nat × Flags :=
  if nan32 x then (fp32.qnan, flagIf (unpack fp32 x).isSnan fNv)
  else if !e.inside x then (posInf, 0)
  else if e.pieces.isEmpty then (negInf, 0)
  else lineAt (e.lineNo (e.pieceAt x)) x
/-- Tag and piece at x as `earg` writes them (R216). -/
def Env.arg (e : Env) (x : Nat) : Nat × Flags :=
  if nan32 x then (0xFFFFFFFF, flagIf (unpack fp32 x).isSnan fNv)
  else if !e.inside x || e.pieces.isEmpty then (0xFFFFFFFF, 0)
  else (e.pieceAt x * 2 ^ 16 + (e.lineNo (e.pieceAt x)).t, 0)

/-- The greater and the lesser of two numbers. -/
def fmax32 (a b : Nat) : Nat := if flt a b then b else a
/-- The lesser of two numbers. -/
def fmin32 (a b : Nat) : Nat := if flt b a then b else a
/-- Breakpoints of an envelope strictly inside an interval. -/
def Env.cuts (e : Env) (lo hi : Nat) : List Nat := (e.pieces.map (fun p => p.b)).filter (fun b => flt lo b && flt b hi)
/-- Insert a number into an ascending list, once. -/
def insertNum (x : Nat) (l : List Nat) : List Nat :=
  match l with
  | [] => [x]
  | y :: rest => if flt x y then x :: y :: rest else if feq x y then y :: rest else y :: insertNum x rest

/-- `eline` (R211). -/
def envLine (a : Env) (l : Line) : Rd Env := normalise (a.lines ++ [l]) a.lo a.hi
/-- `eadd` (R212). -/
def envAdd (a b : Env) : Rd Env :=
  let lo := fmax32 a.lo b.lo
  let hi := fmin32 a.hi b.hi
  if a.isEmpty || b.isEmpty || flt hi lo then { val := Env.empty }
  else if a.pieces.isEmpty || b.pieces.isEmpty then { val := Env.cleared lo hi }
  else
    let xs := lo :: ((a.cuts lo hi ++ b.cuts lo hi).foldl (fun l x => insertNum x l) [])
    let ls := xs.map (fun x =>
      let p := a.lineNo (a.pieceAt x)
      let q := b.lineNo (b.pieceAt x)
      let s := fadd fp32 rne p.s q.s
      let c := fadd fp32 rne p.c q.c
      ((⟨s.1, c.1, p.t⟩ : Line), s.2 ||| c.2))
    let r := normalise (ls.map (fun l => l.1)) lo hi
    { r with fl := ls.foldl (fun f l => f ||| l.2) r.fl }
/-- `emax` (R212). -/
def envMax (a b : Env) : Rd Env :=
  let lo := fmax32 a.lo b.lo
  let hi := fmin32 a.hi b.hi
  if a.isEmpty || b.isEmpty || flt hi lo then { val := Env.empty }
  else normalise (a.lines ++ b.lines) lo hi
/-- part(f, σ) of `einf` (R213). -/
def envPart (f : Env) (g : Nat) : Nat × Flags :=
  match f.pieces.find? (fun p => feq p.s g) with
  | some p => (p.c, 0)
  | none =>
    let n := f.pieces.length
    let j := ((List.range n).find? (fun j => flt g (f.lineNo j).s)).getD n
    let x := if j = 0 then f.lo else if j = n then f.hi else (f.pieces.getD j ⟨0, 0, 0, 0⟩).b
    let v := lineAt (f.lineNo (min j (n - 1))) x
    let w := fmul fp32 rne g x
    let d := fsub fp32 rne v.1 w.1
    (d.1, v.2 ||| w.2 ||| d.2)
/-- `einf` (R213). -/
def envInf (a b : Env) : Rd Env :=
  if a.isEmpty || b.isEmpty then { val := Env.empty }
  else
    let lo := fadd fp32 rne a.lo b.lo
    let hi := fadd fp32 rne a.hi b.hi
    let fl := lo.2 ||| hi.2
    if nan32 lo.1 || nan32 hi.1 then { val := Env.empty, bad := true }
    else if a.pieces.isEmpty || b.pieces.isEmpty then { val := Env.cleared lo.1 hi.1, fl := fl }
    else
      let first := fun (e : Env) => if e.lo == negInf then (e.lineNo 0).s else negInf
      let last := fun (e : Env) => if e.hi == posInf then (e.lineNo (e.pieces.length - 1)).s else posInf
      let glo := fmax32 (first a) (first b)
      let ghi := fmin32 (last a) (last b)
      if flt ghi glo then { val := Env.cleared lo.1 hi.1, fl := fl }
      else
        let gs := (((a.lines ++ b.lines).map (fun l => l.s)).foldl (fun l x => insertNum x l) []).filter
          (fun g => fle glo g && fle g ghi)
        let ls := gs.map (fun g =>
          let p := envPart a g
          let q := envPart b g
          let c := fadd fp32 rne p.1 q.1
          let t := match a.pieces.find? (fun p => feq p.s g) with
            | some p => p.t
            | none => match b.pieces.find? (fun p => feq p.s g) with
              | some p => p.t
              | none => 0
          ((⟨g, c.1, t⟩ : Line), p.2 ||| q.2 ||| c.2))
        let r := normalise (ls.map (fun l => l.1)) lo.1 hi.1
        { r with fl := ls.foldl (fun f l => f ||| l.2) (r.fl ||| fl) }
/-- `econj` (R214). -/
def envConj (a : Env) : Rd Env :=
  if a.isEmpty then { val := Env.cleared negInf posInf }
  else if a.pieces.isEmpty then { val := Env.empty }
  else
    let n := a.pieces.length
    let vs := (if finite32 a.lo then [(a.lo, 0)] else []) ++
      ((List.range n).drop 1).map (fun i => ((a.pieces.getD i ⟨0, 0, 0, 0⟩).b, i)) ++
      (if finite32 a.hi then [(a.hi, n - 1)] else [])
    let ls := vs.map (fun v =>
      let y := lineAt (a.lineNo v.2) v.1
      ((⟨v.1, fneg32 y.1, (a.lineNo v.2).t⟩ : Line), y.2))
    let r := normalise (ls.map (fun l => l.1)) (if finite32 a.lo then negInf else (a.lineNo 0).s)
      (if finite32 a.hi then posInf else (a.lineNo (n - 1)).s)
    { r with fl := ls.foldl (fun f l => f ||| l.2) r.fl }
/-- RN(RN(fma of one line at x) − RN(fma of another at x)). -/
def lineGap (l m : Line) (x : Nat) : Nat × Flags :=
  let a := lineAt l x
  let b := lineAt m x
  let d := fsub fp32 rne a.1 b.1
  (d.1, a.2 ||| b.2 ||| d.2)
/-- Δ of removing line `i` (R215); none when it is never removed. -/
def simpGap (ls : List Line) (lo hi i : Nat) : Rd (Option Nat) :=
  let at_ := fun j => ls.getD j ⟨0, 0, 0⟩
  let n := ls.length
  if n ≤ 1 then { val := none }
  else if i = 0 then
    if finite32 lo then
      let d := lineGap (at_ 0) (at_ 1) lo
      { val := some d.1, fl := d.2 }
    else { val := none }
  else if i + 1 = n then
    if finite32 hi then
      let d := lineGap (at_ i) (at_ (i - 1)) hi
      { val := some d.1, fl := d.2 }
    else { val := none }
  else
    let x := bp (at_ (i - 1)) (at_ (i + 1))
    let d := lineGap (at_ i) (at_ (i - 1)) x.val
    { val := some d.1, fl := x.fl ||| d.2, bad := x.bad }
/-- The scan of `esimp` (R215), `k` looks at most. -/
def simpScan (lo hi tol k i : Nat) (ls : List Line) : Rd (List Line) :=
  match k with
  | 0 => { val := ls }
  | k + 1 =>
    if ls.length ≤ i then { val := ls }
    else
      let d := simpGap ls lo hi i
      let r := match d.val with
        | some v => if fle v tol then simpScan lo hi tol k i (dropAt ls i) else simpScan lo hi tol k (i + 1) ls
        | none => simpScan lo hi tol k (i + 1) ls
      { r with fl := r.fl ||| d.fl, bad := r.bad || d.bad }
/-- `esimp` (R215). -/
def envSimp (a : Env) (tol : Nat) : Rd Env :=
  if a.pieces.isEmpty then { val := a }
  else
    let s := simpScan a.lo a.hi tol (2 * a.pieces.length) 0 a.lines
    let r := normalise s.val a.lo a.hi
    { r with fl := r.fl ||| s.fl, bad := r.bad || s.bad }

/-! ## Memory images (R207, R218) -/

/-- The image of an envelope. -/
def Env.image (e : Env) : List Byte :=
  leBytes 4 e.lo ++ leBytes 4 e.hi ++ leBytes 4 e.pieces.length ++ leBytes 4 0 ++
    e.pieces.flatMap (fun p => leBytes 4 p.s ++ leBytes 4 p.c ++ leBytes 4 p.b ++ leBytes 2 p.t ++ leBytes 2 0)
/-- Slopes strictly increase. -/
def rising (l : List Nat) : Bool :=
  match l with
  | x :: y :: rest => flt x y && rising (y :: rest)
  | _ => true
/-- The lines and domain of an image; none when it is not one (R218). -/
def envOfImage (b : List Byte) : Option (Nat × Nat × List Line) :=
  let w := fun k n => leNat ((b.drop k).take n)
  let n := w 8 4
  if 256 < n || w 12 4 != 0 || nan32 (w 0 4) || nan32 (w 4 4) then none
  else
    let ok := (List.range n).all (fun i => w (16 + 16 * i + 14) 2 == 0 && !nan32 (w (16 + 16 * i) 4) &&
      !nan32 (w (16 + 16 * i + 4) 4) && !nan32 (w (16 + 16 * i + 8) 4))
    let ls := (List.range n).map (fun i => (⟨w (16 + 16 * i) 4, w (16 + 16 * i + 4) 4, w (16 + 16 * i + 12) 2⟩ : Line))
    if ok && rising (ls.map (fun l => l.s)) then some (w 0 4, w 4 4, ls) else none

end Sys2Proof.Machine
end

