-- ==== Sys2Proof/Machine/Rind.lean ====
section
/-! DEFINITION. Rind instructions (R209 to R219): issue into the queue of 4, renaming of the destination envelope (R210), and
RIND_START, which runs the oldest. A pending envelope's look counts one more than the groups that still read the old value, so
that a group inside the window finds it above 0. -/

namespace Sys2Proof.Machine

/-! ## Renaming -/

/-- An envelope register. -/
def Core.envReg (x : Core) (e : Nat) : Env := fget {} x.env e
/-- Rename a pending envelope (R210). -/
def Core.landEnvOf (x : Core) (p : EnvPend) : Core :=
  match p.res with
  | some e => { x with env := fset x.env p.d e, envPend := x.envPend.filter (fun q => q.seq != p.seq) }
  | none => x
/-- A pending envelope may be renamed: its result is there and its window has run out, or its thread has gone. -/
def Core.envDue (x : Core) (p : EnvPend) : Bool :=
  p.res.isSome && (decide (p.look ≤ 1) || !x.threads.any (fun t => t.2.live && t.2.uid == p.uid))
/-- Rename what may be renamed on a core. -/
def Core.landEnvs (x : Core) : Core := (x.envPend.filter x.envDue).foldl (fun x p => x.landEnvOf p) x

/-! ## Issue -/

/-- An own earlier write of the destination, already computed, is renamed before the next (R103). -/
def Core.landOwn (x : Core) (u : Nat) (d : Option Nat) : Core :=
  match d with
  | none => x
  | some e => (x.envPend.filter (fun p => p.d == e && p.uid == u)).foldl (fun x p => x.landEnvOf p) x
/-- Envelope buffers in use (R186, R210): one a register, one a pending result, and those whose contents only queued instructions still
read (DEDUCED, assumption 102). -/
def Core.buffersUsed (x : Core) : Nat :=
  4 + x.envPend.length + ((x.rq.flatMap (fun r => r.old)).filter (fun p => x.envReg p.1 != p.2)).eraseDups.length
/-- A Rind instruction waits: the queue is full, an `eld` of the thread is held, another thread's rename of a register it names
is pending, no envelope buffer is free for its result (R210), its own earlier write of the destination has not been computed (R103), or
an instruction of its own in the queue still reads the destination (R355). -/
def State.rindWaits (s : State) (d : Option Nat) (srcs : List Nat) : Bool :=
  let x := s.here
  let u := s.me.uid
  let named := (match d with
    | some e => [e]
    | none => []) ++ srcs
  decide (4 ≤ x.rq.length) ||
  (match s.me.held with
   | some (.eld _ _ _ _) => true
   | _ => false) ||
  x.envPend.any (fun p => named.contains p.d && p.uid != u) ||
  (match d with
   | none => false
   | some e => decide (8 ≤ (x.landOwn u d).buffersUsed) || x.envPend.any (fun p => p.d == e && p.uid == u && p.res.isNone) ||
       x.rq.any (fun r => r.uid == u && (match r.ins with
         | .eline _ a _ _ => a.val == e
         | .eadd _ a b _ | .emax _ a b _ | .einf _ a b _ => a.val == e || b.val == e
         | .econj _ a _ | .esimp _ a _ | .ecnt a _ | .eeval a _ _ | .earg a _ _ | .eget a _ => a.val == e
         | _ => false)))
/-- Sources inside a window of the own thread, as they stand now (R210). -/
def Core.oldEnvs (x : Core) (u : Nat) (srcs : List Nat) : FMap Env :=
  srcs.foldl (fun m e => if x.envPend.any (fun p => p.d == e && p.uid == u && decide (1 ≤ p.look)) then fset m e (x.envReg e) else m) []
/-- Add the pending rename of a destination. -/
def State.addEnv (s : State) (e q look : Nat) : State :=
  let p : EnvPend := { d := e, uid := s.me.uid, seq := q, look := look + 1, res := none, lathe := s.cur.lathe.isSome }
  s.modHere (fun x => { x with envPend := x.envPend ++ [p] })
/-- Put a Rind instruction into the queue (R210). -/
def State.rindPush (s : State) (i : Instr) (q : Nat) (srcs : List Nat) (ops : List Word) (img : List Byte) : State :=
  s.modHere (fun x => { x with rq := x.rq ++ [{
    ins := i, s := s.sample ops, slot := s.cur.slot, uid := s.me.uid, pc := s.recPc, seq := q, launch := s.me.launch,
    lathe := s.cur.lathe.isSome, old := x.oldEnvs s.me.uid srcs, image := img }] })
/-- Issue a Rind instruction: destination envelope, source envelopes, scalar operands, scalar destination, lookahead. -/
def State.rind (s : State) (i : Instr) (d : Option Nat) (srcs : List Nat) (ops : List Word) (g : Option Nat) (look : Nat) : State :=
  if s.rindWaits d srcs then s.waits
  else
    let s := s.modHere (fun x => x.landOwn s.me.uid d)
    let (s, q) := s.dispatch i
    let s := s.rindPush i q srcs ops []
    let s := match d with
      | some e => s.addEnv e q look
      | none => s
    match g with
    | some n => if n % 16 = 0 then s else s.addOut [.g n] look (.rind q) (.words [])
    | none => s
/-- The words of a register pair. -/
def State.rdPair (s : State) (g : GPair) : List Word := [s.rd (2 * g.val), s.rd (2 * g.val + 1)]

/-- `eclr` (R209): a single register, or none. -/
def execEclr (d : Fin 4) (g : R) (s : State) : Res :=
  .next (s.rind (.eclr d g) (some d.val) [] (if g.val = 0 then [] else [s.rd g.val]) none 0)
/-- `eline` (R211). -/
def execEline (d a : Fin 4) (g : GPair) (look : Look) (s : State) : Res :=
  .next (s.rind (.eline d a g look) (some d.val) [a.val] (s.rdPair g) none look.val)
/-- `eadd` (R212). -/
def execEadd (d a b : Fin 4) (look : Look) (s : State) : Res :=
  .next (s.rind (.eadd d a b look) (some d.val) [a.val, b.val] [] none look.val)
/-- `emax` (R212). -/
def execEmax (d a b : Fin 4) (look : Look) (s : State) : Res :=
  .next (s.rind (.emax d a b look) (some d.val) [a.val, b.val] [] none look.val)
/-- `einf` (R213). -/
def execEinf (d a b : Fin 4) (look : Look) (s : State) : Res :=
  .next (s.rind (.einf d a b look) (some d.val) [a.val, b.val] [] none look.val)
/-- `econj` (R214). -/
def execEconj (d a : Fin 4) (look : Look) (s : State) : Res :=
  .next (s.rind (.econj d a look) (some d.val) [a.val] [] none look.val)
/-- `esimp` (R215). -/
def execEsimp (d a : Fin 4) (look : Look) (s : State) : Res :=
  .next (s.rind (.esimp d a look) (some d.val) [a.val] [] none look.val)
/-- `ecnt` (R209). -/
def execEcnt (a : Fin 4) (g : R) (s : State) : Res := .next (s.rind (.ecnt a g) none [a.val] [] (some g.val) 0)
/-- `eeval` (R216). -/
def execEeval (a : Fin 4) (g : GPair) (look : Look) (s : State) : Res :=
  .next (s.rind (.eeval a g look) none [a.val] (s.rdPair g) (some (2 * g.val + 1)) look.val)
/-- `earg` (R216). -/
def execEarg (a : Fin 4) (g : GPair) (look : Look) (s : State) : Res :=
  .next (s.rind (.earg a g look) none [a.val] (s.rdPair g) (some (2 * g.val + 1)) look.val)
/-- `eget` (R217). -/
def execEget (a : Fin 4) (g : GPair) (s : State) : Res :=
  .next (s.rind (.eget a g) none [a.val] (s.rdPair g) (some (2 * g.val + 1)) 0)
/-- Address checks of `eld` and `est` (R218, R247). Of a misaligned address R218 states no consequence, and Rind raises no fault but
those of R219: the instruction completes with ENVOP naming the address and changes nothing (DESIGN CHOICE, assumption 103). -/
def State.envAddr (s : State) (i : Instr) (ea : Word) (go : State → State) : State :=
  if badRange ea then s.fault cADDRRNG 1 ea.toNat 0
  else if ea.toNat % 16 ≠ 0 then
    let (s, q) := s.dispatch i
    s.late s.cur.core s.cur.slot s.me.uid q cENVOP 1 0 0 0 5 s.me.launch
  else go s
/-- `eld` (R218), a load (R102) before which a thread may migrate by itself (R21): the image is read at issue, in the thread's program
order; the envelope is made when its turn in the queue comes. -/
def execEld (d : Fin 4) (a : R) (look : Look) (s : State) : Res :=
  .next (s.envAddr (.eld d a look) (s.rd a.val) (fun s =>
    let ea := (s.rd a.val).toNat
    if s.rindWaits (some d.val) [] || s.me.unsettled then s.waits
    else s.orMigrate ea (
      let s := s.modHere (fun x => x.landOwn s.me.uid (some d.val))
      let (s, q) := s.dispatch (.eld d a look)
      let s := s.addEnv d.val q look.val
      match s.tryAccess s.who (.eld ea d.val q look.val) with
      | (u, .bytes img) => u.rindPush (.eld d a look) q [] [] img
      | (u, _) => u.hold (.eld ea d.val q look.val))))
/-- `est` (R218): the image of the envelope is stored; it waits until the queue in front of it is empty. It reads the register, a result
of its own thread in it once the window has run out (R102). -/
def execEst (d : Fin 4) (a : R) (s : State) : Res :=
  .next (s.envAddr (.est d a) (s.rd a.val) (fun s =>
    let ea := (s.rd a.val).toNat
    let due := s.here.envPend.filter (fun p => p.d == d.val && p.uid == s.me.uid && p.look == 0)
    if s.rindWaits none [d.val] || !s.here.rq.isEmpty || s.me.unsettled || due.any (fun p => p.res.isNone) then s.waits
    else
      let s := s.modHere (fun x => due.foldl (fun x p => x.landEnvOf p) x)
      let (s, q) := s.dispatch (.est d a)
      s.access (.est ea (s.here.envReg d.val).image q)))

/-! ## Running (R208, R210) -/

/-- The thread's outstanding result of a Rind instruction arrives, or is dropped when it has none. -/
def State.rindOut (s : State) (c : Nat) (r : RCmd) (v : Option Word) : State :=
  match s.findUid r.uid with
  | none => s
  | some (k, t) =>
    if k ≠ c then s
    else
      let th := s.thr k t
      s.setThr k t { th with outs := match v with
        | some w => th.outs.map (fun o => if o.wait == .rind r.seq then { o with wait := .ready, val := .words [w] } else o)
        | none => th.outs.filter (fun o => o.wait != .rind r.seq) }
/-- A Rind instruction completes with a late fault: its destinations stay as they are (R219). -/
def State.rindFail (s : State) (c : Nat) (r : RCmd) (cls opnd : Nat) : State :=
  let s := s.rindOut c r none
  let s := s.setCore c { s.core c with envPend := (s.core c).envPend.filter (fun p => p.seq != r.seq) }
  s.late c r.slot r.uid r.seq cls opnd 0 0 0 5 r.launch
/-- A set operation completes: the result goes to its buffer (R210), its flags to the thread (R82). -/
def State.rindEnv (s : State) (c : Nat) (r : RCmd) (e : Env) (fl : Flags) : State :=
  let x := s.core c
  let x := { x with envPend := x.envPend.map (fun (p : EnvPend) =>
    if p.seq == r.seq then { p with res := some { e with owner := r.launch } } else p) }
  (s.setCore c x.landEnvs).raiseUid r.uid fl
/-- A result with the checks of R208: ENVRNG, then more than 256 pieces. -/
def State.rindSet (s : State) (c : Nat) (r : RCmd) (q : Rd Env) : State :=
  if q.bad then s.rindFail c r cENVRNG 4
  else if q.val.pieces.length ≤ 256 then s.rindEnv c r q.val q.fl
  else if r.s.kenv.toNat % 2 = 0 then s.rindFail c r cENVOVF 4
  else
    let w := envSimp q.val (r.s.ktol.toNat % 2 ^ 32)
    if w.bad then s.rindFail c r cENVRNG 4
    else if w.val.pieces.length ≤ 256 then s.rindEnv c r w.val (q.fl ||| w.fl)
    else s.rindFail c r cENVOVF 4
/-- A scalar result. -/
def State.rindWord (s : State) (c : Nat) (r : RCmd) (v : Nat) (fl : Flags) : State :=
  (s.rindOut c r (some (BitVec.ofNat 64 v))).raiseUid r.uid fl
/-- `eget`'s item (R217); none for a reserved selector. -/
def Env.item (e : Env) (sel : Nat) : Option Nat :=
  let i := sel % 512
  let p := e.pieces.getD i ⟨0, 0, 0, 0⟩
  if sel ≠ i + sel / 2 ^ 12 % 4 * 2 ^ 12 then none
  else
    match sel / 2 ^ 12 with
    | 0 => some (if e.pieces.length ≤ i then 0 else p.s + p.c * 2 ^ 32)
    | 1 => some (if e.pieces.length ≤ i then 0 else p.t + p.b * 2 ^ 32)
    | 2 => some (e.lo + e.hi * 2 ^ 32)
    | _ => none
/-- RIND_START at the core of the event (R210): the oldest instruction of the queue reads its operands and runs. -/
def execRindStart (s : State) : Res :=
  let c := s.ev.q
  .next (match (s.core c).rq with
  | [] => s
  | r :: rest =>
    let x := (s.core c).landEnvs
    let s := s.setCore c { x with rq := rest }
    let src := fun (e : Fin 4) => match fget? r.old e.val with
      | some v => v
      | none => x.envReg e.val
    let o0 := (r.s.ops.headD 0).toNat
    let o1 := (r.s.ops.getD 1 0).toNat
    match r.ins with
    | .eclr _ g =>
      let lo := if g.val = 0 then negInf else o0 % 2 ^ 32
      let hi := if g.val = 0 then posInf else o0 / 2 ^ 32
      if nan32 lo || nan32 hi then s.rindFail c r cENVOP 4
      else s.rindEnv c r (if flt hi lo then Env.empty else Env.cleared lo hi) 0
    | .eline _ a _ _ => s.rindSet c r (envLine (src a) ⟨o0 % 2 ^ 32, o0 / 2 ^ 32, o1 % 2 ^ 16⟩)
    | .eadd _ a b _ => s.rindSet c r (envAdd (src a) (src b))
    | .emax _ a b _ => s.rindSet c r (envMax (src a) (src b))
    | .einf _ a b _ => s.rindSet c r (envInf (src a) (src b))
    | .econj _ a _ => s.rindSet c r (envConj (src a))
    | .esimp _ a _ => s.rindSet c r (envSimp (src a) (r.s.ktol.toNat % 2 ^ 32))
    | .ecnt a _ => s.rindWord c r ((src a).pieces.length + (if (src a).isEmpty then 512 else 0)) 0
    | .eeval a _ _ => s.rindWord c r ((src a).eval (o0 % 2 ^ 32)).1 ((src a).eval (o0 % 2 ^ 32)).2
    | .earg a _ _ => s.rindWord c r ((src a).arg (o0 % 2 ^ 32)).1 ((src a).arg (o0 % 2 ^ 32)).2
    | .eget a _ =>
      match (src a).item o0 with
      | some v => s.rindWord c r v 0
      | none => s.rindFail c r cENVOP 1
    | .eld _ _ _ =>
      match envOfImage r.image with
      | some (lo, hi, ls) => s.rindSet c r (normalise ls lo hi)
      | none => s.rindFail c r cENVOP 1
    | _ => s)

end Sys2Proof.Machine
end

