-- ==== Sys2Proof/Machine/Vec.lean ====
section
/-! DEFINITION. Vector operations, pair and LV forms (R168 to R183). An LV form is the pair form with word 1's guard, third
source, rounding, saturation and modifier (R98); both go through one operation per family. -/

namespace Sys2Proof.Machine

/-- The operands of a three-operand form with the codes a fault names (R111). -/
def ops3 (d a b : VOp) : List (VOp × Nat) := [(d, 4), (a, 1), (b, 2)]
/-- The operands of a two-operand form. -/
def ops2 (d a : VOp) : List (VOp × Nat) := [(d, 4), (a, 1)]

/-- `vadd`, `vsub`, `vmul` (R168). -/
def State.doArith (s : State) (i : Instr) (op : Nat) (ty : Fin 16) (d a b : VOp) (x : LVX) : State :=
  s.vec i (ops3 d a b) (fun s =>
    let e := elemBits ty.val
    let n := laneCount d.w.val e
    let u := ((s.laneOp x d e (fun l => arithLane op ty.val (LVX_mod x 0) (s.rnd x l) (s.lanes a e 0 l) (s.lanes b e 1 l))).useFree
      [a, b] e n)
    u.countSr x ty.val n)
/-- `vfma` with its third source (R170): pair form's is the destination. -/
def State.doFma (s : State) (i : Instr) (ty : Fin 16) (d a b c : VOp) (x : LVX) (os : List (VOp × Nat)) : State :=
  s.vec i os (fun s =>
    let e := elemBits ty.val
    let n := laneCount d.w.val e
    let u := ((s.laneOp x d e (fun l => fmaLane ty.val (LVX_mod x 0) (LVX_mod x 1) (LVX_mod x 2) (s.rnd x l)
      (s.lanes a e 0 l) (s.lanes b e 1 l) (s.lanes c e 2 l))).useFree [a, b, c] e n)
    u.countSr x ty.val n)
/-- `vmin`, `vmax`, `vminp`, `vmaxp` (R83, R168). -/
def State.doMinmax (s : State) (i : Instr) (least prop : Bool) (ty : Fin 16) (d a b : VOp) (x : LVX) : State :=
  s.vec i (ops3 d a b) (fun s =>
    let e := elemBits ty.val
    (s.laneOp x d e (fun l => minmaxLane ty.val (LVX_mod x 0) least prop (s.lanes a e 0 l) (s.lanes b e 1 l))).useFree
      [a, b] e (laneCount d.w.val e))
/-- Bitwise operations on 64-bit lanes (R171). -/
def State.doLogic (s : State) (i : Instr) (op : Nat) (d a b : VOp) (x : LVX) : State :=
  s.vec i (ops3 d a b) (fun s =>
    (s.laneOp x d 64 (fun l => logicLane op (s.lanes a 64 0 l) (s.lanes b 64 1 l))).useFree [a, b] 64 (laneCount d.w.val 64))
/-- Shifts (R171). -/
def State.doShift (s : State) (i : Instr) (op : Nat) (sz : Fin 4) (d a b : VOp) (x : LVX) : State :=
  s.vec i (ops3 d a b) (fun s =>
    let e := 8 * 2 ^ sz.val
    (s.laneOp x d e (fun l => shiftLane op e (s.lanes a e 0 l) (s.lanes b e 1 l))).useFree [a, b] e (laneCount d.w.val e))
/-- `vcvt` (R172). -/
def State.doCvt (s : State) (i : Instr) (ty dty : Fin 16) (d a : VOp) (x : LVX) : State :=
  s.vec i (ops2 d a) (fun s =>
    let e := elemBits ty.val
    let u := s.laneOp x d (elemBits dty.val) (fun l =>
      cvtLane ty.val dty.val (LVX_mod x 0) (LVX_mod x 1) (s.rnd x l) (s.lanes a e 0 l))
    u.countSr x dty.val (laneCount d.w.val (elemBits dty.val)))
/-- The special functions (R173): long-latency, the lookahead window before the destination is written (R102). -/
def State.doSpecial (s : State) (i : Instr) (fn : Nat) (ty : Fin 16) (look : Look) (d a : VOp) (x : LVX) : State :=
  s.vec i (ops2 d a) (fun s =>
    let e := elemBits ty.val
    let n := laneCount d.w.val e
    let r := s.laneVals x d e (fun l => specialLane fn ty.val (s.rnd x l) (s.lanes a e 0 l))
    let u := ((s.addOut (vopRegs d) look.val .ready (.vecs (natGroup d.w.val r.1))).raise r.2).useFree [a] e n
    u.countSr x ty.val n)
/-- `vperm` (R176). -/
def State.doPerm (s : State) (i : Instr) (sz : Fin 4) (d a b : VOp) (x : LVX) : State :=
  s.vec i (ops3 d a b) (fun s =>
    let e := 8 * 2 ^ sz.val
    let n := laneCount d.w.val e
    (s.laneOp x d e (fun l => (s.lanes a e 0 (s.lanes b e 1 l % n), 0))).useFree [a, b] e n)
/-- `vbcast` and `vshuf` (R176): lane k, or lane l xor k. -/
def State.doMove (s : State) (i : Instr) (shuf : Bool) (sz : Fin 4) (d a : VOp) (k : Fin 128) (x : LVX) : State :=
  s.vec i (ops2 d a) (fun s =>
    let e := 8 * 2 ^ sz.val
    (s.laneOp x d e (fun l => (s.lanes a e 0 (if shuf then l ^^^ k.val else k.val), 0))).useFree [a] e (laneCount d.w.val e))
/-- `vred` (R86, R177): lane 0 receives the result of the tree, every other lane 0. -/
def State.doRed (s : State) (i : Instr) (ty : Fin 16) (op : Fin 8) (d a : VOp) (x : LVX) : State :=
  s.vec i (ops2 d a) (fun s =>
    let e := elemBits ty.val
    let n := laneCount a.w.val e
    let g := groupNat (s.rdVs a)
    let uns := LVX_mod x 0
    let r := treeFold (foldOp op.val ty.val uns (s.rndPlain x)) (Nat.log2 n)
      ((List.range n).map (fun l => if s.activeLane x l then lane e g l else foldId op.val ty.val uns))
    s.vput d r.1 r.2)
/-- `vscan` (R74, R86, R178): an inactive lane contributes the identity; every lane is written: an active lane of an inclusive scan with
its own value, any other with the one before it, lane 0 then with the identity. -/
def State.doScan (s : State) (i : Instr) (ty : Fin 16) (op : Fin 8) (ex : Bool) (d a : VOp) (x : LVX) : State :=
  s.vec i (ops2 d a) (fun s =>
    let e := elemBits ty.val
    let n := laneCount a.w.val e
    let g := groupNat (s.rdVs a)
    let uns := LVX_mod x 0
    let z := foldId op.val ty.val uns
    let r := scanList (foldOp op.val ty.val uns (s.rndPlain x))
      ((List.range n).map (fun l => if s.activeLane x l then lane e g l else z))
    let sv := r.1.map (canonLane ty.val)
    s.vput d (packLanes e ((List.range n).map (fun l => if !ex && s.activeLane x l then sv.getD l 0 else (z :: sv).getD l 0))) r.2)
/-- A random value in a format (R179): exact. -/
def rngLane (ty : Nat) (g : Word) : Nat :=
  match ty with
  | 3 => g.toNat
  | 2 => g.toNat % 2 ^ 32
  | 6 => (roundVal fp32 rne (.fin false (g.toNat / 2 ^ 40) (-24))).1
  | _ => (roundVal bf16 rne (.fin false (g.toNat / 2 ^ 56) (-8))).1
/-- `vrng` (R90, R179). -/
def State.doRng (s : State) (i : Instr) (ty : Fin 16) (d a b : VOp) (x : LVX) : State :=
  s.vec i (ops3 d a b) (fun s =>
    let g := groupNat (s.rdVs a)
    let key := BitVec.ofNat 64 (lane 64 g 0)
    let tid := BitVec.ofNat 64 (lane 64 g 1 % 2 ^ 32)
    s.laneOp x d (elemBits ty.val) (fun l => (rngLane ty.val (rndBits key tid (BitVec.ofNat 64 (s.lanes b 64 1 l))), 0)))
/-- `vquant` (R76, R180): each register's 32 FP32 lanes become one block, blocks packed from byte 0, the rest 0. -/
def State.doQuant (s : State) (i : Instr) (ty : Fin 16) (d a : VOp) (x : LVX) : State :=
  s.vec i (ops2 d a) (fun s =>
    let m := bfpM ty.val
    let g := groupNat (s.rdVs a)
    let bs := (List.range (2 ^ a.w.val)).map (fun k =>
      bfpQuant m (s.rndPlain x).mode ((List.range 32).map (fun j => unpack fp32 (lane 32 g (32 * k + j)))))
    s.vput d (packLanes (bfpBits m) (bs.map (fun r => r.1))) (bs.foldl (fun f r => f ||| r.2) 0))
/-- `vdeq` (R76, R180): packed blocks expanded into FP32 lanes. -/
def State.doDeq (s : State) (i : Instr) (ty : Fin 16) (d a : VOp) (x : LVX) : State :=
  s.vec i (ops2 d a) (fun s =>
    let m := bfpM ty.val
    let g := groupNat (s.rdVs a)
    let ls := (List.range (32 * 2 ^ d.w.val)).map (fun l =>
      roundVal fp32 (s.rndPlain x) (bfpElem m (lane (bfpBits m) g (l / 32)) (l % 32)))
    s.vput d (packLanes 32 (ls.map (fun r => r.1))) (ls.foldl (fun f r => f ||| r.2) 0))
/-- `vcmul` (R77, R174). -/
def State.doCmul (s : State) (i : Instr) (d a b : VOp) (x : LVX) : State :=
  s.vec i (ops3 d a b) (fun s =>
    (s.laneOp x d 64 (fun l => cmul (s.rndPlain x) (s.lanes a 64 0 l) (s.lanes b 64 1 l))).useFree [a, b] 64
      (laneCount d.w.val 64))
/-- `vsel` (R175): every lane is written, from a where the selector bit is set. -/
def State.doSel (s : State) (i : Instr) (ty : Fin 16) (d a b : VOp) (pg : Fin 8) (pn : Bool) : State :=
  s.vec i (ops3 d a b) (fun s =>
    let e := elemBits ty.val
    (s.laneOp plainX d e (fun l =>
      (if (s.rdP pg.val).getLsbD l != pn then s.lanes a e 0 l else s.lanes b e 1 l, 0))).useFree [a, b] e (laneCount d.w.val e))
/-- `vxall` (R183, R184): the source is read now, the instruction joins the core's queue, and its thread waits for the exchange;
in the Lathe the repetitions wait. -/
def State.doVxall (s : State) (i : Instr) (ty : Fin 16) (d a : VOp) : State :=
  s.vec i (ops2 d a) (fun s =>
    let v : VxCmd := { n := 2 ^ ty.val, w := a.w.val, d := s.vcore d, data := s.rdVs a, slot := s.cur.slot, uid := s.me.uid,
                       pc := s.recPc,
                       seq := match s.cur.replay with
                         | some q => q
                         | none => s.here.dispSeq
                       lathe := s.cur.lathe.isSome }
    s.modHere (fun x => { x with vxq := x.vxq ++ [v] }))

/-- `vadd` (R168). -/
def execVadd (ty : Fin 16) (d a b : VOp) (s : State) : Res := .next (s.doArith (.vadd ty d a b) 0 ty d a b plainX)
/-- `vadd`, LV form (R168). -/
def execVaddLV (ty : Fin 16) (d a b : VOp) (x : LVX) (s : State) : Res := .next (s.doArith (.vaddLV ty d a b x) 0 ty d a b x)
/-- `vsub` (R168). -/
def execVsub (ty : Fin 16) (d a b : VOp) (s : State) : Res := .next (s.doArith (.vsub ty d a b) 1 ty d a b plainX)
/-- `vsub`, LV form (R168). -/
def execVsubLV (ty : Fin 16) (d a b : VOp) (x : LVX) (s : State) : Res := .next (s.doArith (.vsubLV ty d a b x) 1 ty d a b x)
/-- `vmul` (R168). -/
def execVmul (ty : Fin 16) (d a b : VOp) (s : State) : Res := .next (s.doArith (.vmul ty d a b) 2 ty d a b plainX)
/-- `vmul`, LV form (R168). -/
def execVmulLV (ty : Fin 16) (d a b : VOp) (x : LVX) (s : State) : Res := .next (s.doArith (.vmulLV ty d a b x) 2 ty d a b x)
/-- `vfma`, pair form (R170): d ← a × b + d. -/
def execVfma (ty : Fin 16) (d a b : VOp) (s : State) : Res := .next (s.doFma (.vfma ty d a b) ty d a b d plainX (ops3 d a b))
/-- `vfma`, LV form (R170): the addend is c. -/
def execVfmaLV (ty : Fin 16) (d a b : VOp) (x : LVX) (s : State) : Res :=
  .next (s.doFma (.vfmaLV ty d a b x) ty d a b x.c x (ops3 d a b ++ [(x.c, 3)]))
/-- `vmin` (R83, R168). -/
def execVmin (ty : Fin 16) (d a b : VOp) (s : State) : Res := .next (s.doMinmax (.vmin ty d a b) true false ty d a b plainX)
/-- `vmin`, LV form (R83, R168). -/
def execVminLV (ty : Fin 16) (d a b : VOp) (x : LVX) (s : State) : Res := .next (s.doMinmax (.vminLV ty d a b x) true false ty d a b x)
/-- `vmax` (R83, R168). -/
def execVmax (ty : Fin 16) (d a b : VOp) (s : State) : Res := .next (s.doMinmax (.vmax ty d a b) false false ty d a b plainX)
/-- `vmax`, LV form (R83, R168). -/
def execVmaxLV (ty : Fin 16) (d a b : VOp) (x : LVX) (s : State) : Res := .next (s.doMinmax (.vmaxLV ty d a b x) false false ty d a b x)
/-- `vminp` (R83, R168). -/
def execVminp (ty : Fin 16) (d a b : VOp) (s : State) : Res := .next (s.doMinmax (.vminp ty d a b) true true ty d a b plainX)
/-- `vminp`, LV form (R83, R168). -/
def execVminpLV (ty : Fin 16) (d a b : VOp) (x : LVX) (s : State) : Res := .next (s.doMinmax (.vminpLV ty d a b x) true true ty d a b x)
/-- `vmaxp` (R83, R168). -/
def execVmaxp (ty : Fin 16) (d a b : VOp) (s : State) : Res := .next (s.doMinmax (.vmaxp ty d a b) false true ty d a b plainX)
/-- `vmaxp`, LV form (R83, R168). -/
def execVmaxpLV (ty : Fin 16) (d a b : VOp) (x : LVX) (s : State) : Res := .next (s.doMinmax (.vmaxpLV ty d a b x) false true ty d a b x)
/-- `vand` (R171). -/
def execVand (d a b : VOp) (s : State) : Res := .next (s.doLogic (.vand d a b) 0 d a b plainX)
/-- `vand`, LV form (R171). -/
def execVandLV (d a b : VOp) (x : LVX) (s : State) : Res := .next (s.doLogic (.vandLV d a b x) 0 d a b x)
/-- `vor` (R171). -/
def execVor (d a b : VOp) (s : State) : Res := .next (s.doLogic (.vor d a b) 1 d a b plainX)
/-- `vor`, LV form (R171). -/
def execVorLV (d a b : VOp) (x : LVX) (s : State) : Res := .next (s.doLogic (.vorLV d a b x) 1 d a b x)
/-- `vxor` (R171). -/
def execVxor (d a b : VOp) (s : State) : Res := .next (s.doLogic (.vxor d a b) 2 d a b plainX)
/-- `vxor`, LV form (R171). -/
def execVxorLV (d a b : VOp) (x : LVX) (s : State) : Res := .next (s.doLogic (.vxorLV d a b x) 2 d a b x)
/-- `vandn` (R171). -/
def execVandn (d a b : VOp) (s : State) : Res := .next (s.doLogic (.vandn d a b) 3 d a b plainX)
/-- `vandn`, LV form (R171). -/
def execVandnLV (d a b : VOp) (x : LVX) (s : State) : Res := .next (s.doLogic (.vandnLV d a b x) 3 d a b x)
/-- `vshl` (R171). -/
def execVshl (sz : Fin 4) (d a b : VOp) (s : State) : Res := .next (s.doShift (.vshl sz d a b) 0 sz d a b plainX)
/-- `vshl`, LV form (R171). -/
def execVshlLV (sz : Fin 4) (d a b : VOp) (x : LVX) (s : State) : Res := .next (s.doShift (.vshlLV sz d a b x) 0 sz d a b x)
/-- `vshr` (R171). -/
def execVshr (sz : Fin 4) (d a b : VOp) (s : State) : Res := .next (s.doShift (.vshr sz d a b) 1 sz d a b plainX)
/-- `vshr`, LV form (R171). -/
def execVshrLV (sz : Fin 4) (d a b : VOp) (x : LVX) (s : State) : Res := .next (s.doShift (.vshrLV sz d a b x) 1 sz d a b x)
/-- `vsra` (R171). -/
def execVsra (sz : Fin 4) (d a b : VOp) (s : State) : Res := .next (s.doShift (.vsra sz d a b) 2 sz d a b plainX)
/-- `vsra`, LV form (R171). -/
def execVsraLV (sz : Fin 4) (d a b : VOp) (x : LVX) (s : State) : Res := .next (s.doShift (.vsraLV sz d a b x) 2 sz d a b x)
/-- `vcvt` (R172). -/
def execVcvt (ty dty : Fin 16) (d a : VOp) (s : State) : Res := .next (s.doCvt (.vcvt ty dty d a) ty dty d a plainX)
/-- `vcvt`, LV form (R172). -/
def execVcvtLV (ty dty : Fin 16) (d a : VOp) (x : LVX) (s : State) : Res := .next (s.doCvt (.vcvtLV ty dty d a x) ty dty d a x)
/-- `vrcp` (R173). -/
def execVrcp (ty : Fin 16) (look : Look) (d a : VOp) (s : State) : Res := .next (s.doSpecial (.vrcp ty look d a) 0 ty look d a plainX)
/-- `vrcp`, LV form (R173). -/
def execVrcpLV (ty : Fin 16) (look : Look) (d a : VOp) (x : LVX) (s : State) : Res := .next (s.doSpecial (.vrcpLV ty look d a x) 0 ty look d a x)
/-- `vrsq` (R173). -/
def execVrsq (ty : Fin 16) (look : Look) (d a : VOp) (s : State) : Res := .next (s.doSpecial (.vrsq ty look d a) 1 ty look d a plainX)
/-- `vrsq`, LV form (R173). -/
def execVrsqLV (ty : Fin 16) (look : Look) (d a : VOp) (x : LVX) (s : State) : Res := .next (s.doSpecial (.vrsqLV ty look d a x) 1 ty look d a x)
/-- `vexp2` (R173). -/
def execVexp2 (ty : Fin 16) (look : Look) (d a : VOp) (s : State) : Res := .next (s.doSpecial (.vexp2 ty look d a) 2 ty look d a plainX)
/-- `vexp2`, LV form (R173). -/
def execVexp2LV (ty : Fin 16) (look : Look) (d a : VOp) (x : LVX) (s : State) : Res := .next (s.doSpecial (.vexp2LV ty look d a x) 2 ty look d a x)
/-- `vlog2` (R173). -/
def execVlog2 (ty : Fin 16) (look : Look) (d a : VOp) (s : State) : Res := .next (s.doSpecial (.vlog2 ty look d a) 3 ty look d a plainX)
/-- `vlog2`, LV form (R173). -/
def execVlog2LV (ty : Fin 16) (look : Look) (d a : VOp) (x : LVX) (s : State) : Res := .next (s.doSpecial (.vlog2LV ty look d a x) 3 ty look d a x)
/-- `vtanh` (R173). -/
def execVtanh (ty : Fin 16) (look : Look) (d a : VOp) (s : State) : Res := .next (s.doSpecial (.vtanh ty look d a) 4 ty look d a plainX)
/-- `vtanh`, LV form (R173). -/
def execVtanhLV (ty : Fin 16) (look : Look) (d a : VOp) (x : LVX) (s : State) : Res := .next (s.doSpecial (.vtanhLV ty look d a x) 4 ty look d a x)
/-- `vsigm` (R173). -/
def execVsigm (ty : Fin 16) (look : Look) (d a : VOp) (s : State) : Res := .next (s.doSpecial (.vsigm ty look d a) 5 ty look d a plainX)
/-- `vsigm`, LV form (R173). -/
def execVsigmLV (ty : Fin 16) (look : Look) (d a : VOp) (x : LVX) (s : State) : Res := .next (s.doSpecial (.vsigmLV ty look d a x) 5 ty look d a x)
/-- `vperm` (R176). -/
def execVperm (sz : Fin 4) (d a b : VOp) (s : State) : Res := .next (s.doPerm (.vperm sz d a b) sz d a b plainX)
/-- `vperm`, LV form (R176). -/
def execVpermLV (sz : Fin 4) (d a b : VOp) (x : LVX) (s : State) : Res := .next (s.doPerm (.vpermLV sz d a b x) sz d a b x)
/-- `vbcast` (R176). -/
def execVbcast (sz : Fin 4) (d a : VOp) (k : Fin 128) (s : State) : Res := .next (s.doMove (.vbcast sz d a k) false sz d a k plainX)
/-- `vbcast`, LV form (R176). -/
def execVbcastLV (sz : Fin 4) (d a : VOp) (k : Fin 128) (x : LVX) (s : State) : Res := .next (s.doMove (.vbcastLV sz d a k x) false sz d a k x)
/-- `vshuf` (R176). -/
def execVshuf (sz : Fin 4) (d a : VOp) (k : Fin 128) (s : State) : Res := .next (s.doMove (.vshuf sz d a k) true sz d a k plainX)
/-- `vshuf`, LV form (R176). -/
def execVshufLV (sz : Fin 4) (d a : VOp) (k : Fin 128) (x : LVX) (s : State) : Res := .next (s.doMove (.vshufLV sz d a k x) true sz d a k x)
/-- `vred` (R177). -/
def execVred (ty : Fin 16) (op : Fin 8) (d a : VOp) (s : State) : Res := .next (s.doRed (.vred ty op d a) ty op d a plainX)
/-- `vred`, LV form (R177). -/
def execVredLV (ty : Fin 16) (op : Fin 8) (d a : VOp) (x : LVX) (s : State) : Res := .next (s.doRed (.vredLV ty op d a x) ty op d a x)
/-- `vscan` (R178). -/
def execVscan (ty : Fin 16) (op : Fin 8) (ex : Bool) (d a : VOp) (s : State) : Res := .next (s.doScan (.vscan ty op ex d a) ty op ex d a plainX)
/-- `vscan`, LV form (R178). -/
def execVscanLV (ty : Fin 16) (op : Fin 8) (ex : Bool) (d a : VOp) (x : LVX) (s : State) : Res := .next (s.doScan (.vscanLV ty op ex d a x) ty op ex d a x)
/-- `vrng` (R179). -/
def execVrng (ty : Fin 16) (d a b : VOp) (s : State) : Res := .next (s.doRng (.vrng ty d a b) ty d a b plainX)
/-- `vrng`, LV form (R179). -/
def execVrngLV (ty : Fin 16) (d a b : VOp) (x : LVX) (s : State) : Res := .next (s.doRng (.vrngLV ty d a b x) ty d a b x)
/-- `vquant` (R180). -/
def execVquant (ty : Fin 16) (d a : VOp) (s : State) : Res := .next (s.doQuant (.vquant ty d a) ty d a plainX)
/-- `vquant`, LV form (R180). -/
def execVquantLV (ty : Fin 16) (d a : VOp) (x : LVX) (s : State) : Res := .next (s.doQuant (.vquantLV ty d a x) ty d a x)
/-- `vdeq` (R180). -/
def execVdeq (ty : Fin 16) (d a : VOp) (s : State) : Res := .next (s.doDeq (.vdeq ty d a) ty d a plainX)
/-- `vdeq`, LV form (R180). -/
def execVdeqLV (ty : Fin 16) (d a : VOp) (x : LVX) (s : State) : Res := .next (s.doDeq (.vdeqLV ty d a x) ty d a x)
/-- `vcmul` (R174). -/
def execVcmul (d a b : VOp) (s : State) : Res := .next (s.doCmul (.vcmul d a b) d a b plainX)
/-- `vcmul`, LV form (R174). -/
def execVcmulLV (d a b : VOp) (x : LVX) (s : State) : Res := .next (s.doCmul (.vcmulLV d a b x) d a b x)
/-- `vsel`, pair form: the selector is `p0` (R175). -/
def execVsel (ty : Fin 16) (d a b : VOp) (s : State) : Res := .next (s.doSel (.vsel ty d a b) ty d a b 0 false)
/-- `vsel`, LV form: the selector is pg, complemented by pn (R175); its no-guard value does not decode. -/
def execVselLV (ty : Fin 16) (d a b : VOp) (x : LVX) (s : State) : Res :=
  .next (s.doSel (.vselLV ty d a b x) ty d a b (x.pg.getD 0) x.pn)
/-- `vxall` (R183). -/
def execVxall (ty : Fin 16) (d a : VOp) (s : State) : Res := .next (s.doVxall (.vxall ty d a) ty d a)
/-- `vxall`, LV form (R183): word 1 holds nothing else. -/
def execVxallLV (ty : Fin 16) (d a : VOp) (x : LVX) (s : State) : Res := .next (s.doVxall (.vxallLV ty d a x) ty d a)

/-! ## Predicates (R181, R182) -/

/-- Bits of a predicate from a list of truths, bit 0 first. -/
def predOf (l : List Bool) : Pred :=
  BitVec.ofNat 128 (l.foldr (fun b n => (if b then 1 else 0) + 2 * n) 0)
/-- `vcmp` (R181): bits from the lane count upward are cleared. -/
def execVcmp (pd : Fin 8) (ty : Fin 16) (cc : Fin 4) (a b : VOp) (s : State) : Res :=
  .next (s.vec (.vcmp pd ty cc a b) [(a, 1), (b, 2)] (fun s =>
    let e := elemBits ty.val
    let n := max (laneCount a.w.val e) (laneCount b.w.val e)
    let rs := (List.range n).map (fun l => cmpLane ty.val cc.val (s.lanes a e 0 l) (s.lanes b e 1 l))
    ((s.wrP pd.val (predOf (rs.map (fun r => r.1)))).raise (rs.foldl (fun f r => f ||| r.2) 0)).useFree [a, b] e n))
/-- `pand` (R182). -/
def execPand (pd pa pb : Fin 8) (s : State) : Res := .next (s.wrP pd.val (s.rdP pa.val &&& s.rdP pb.val))
/-- `por` (R182). -/
def execPor (pd pa pb : Fin 8) (s : State) : Res := .next (s.wrP pd.val (s.rdP pa.val ||| s.rdP pb.val))
/-- `pnot` (R182). -/
def execPnot (pd pa : Fin 8) (s : State) : Res := .next (s.wrP pd.val (~~~ s.rdP pa.val))
/-- Set bits of a predicate. -/
def predCount (p : Pred) : Nat := ((List.range 128).filter (fun i => p.getLsbD i)).length
/-- `pcnt` (R182). -/
def execPcnt (g : R) (pa : Fin 8) (s : State) : Res := .next (s.wrN g.val (predCount (s.rdP pa.val)))
/-- `pfirst`: 128 when no bit is set (R182). -/
def execPfirst (g : R) (pa : Fin 8) (s : State) : Res :=
  .next (s.wrN g.val (((List.range 128).find? (fun i => (s.rdP pa.val).getLsbD i)).getD 128))
/-- `plim` (R182). -/
def execPlim (pd : Fin 8) (g : R) (s : State) : Res :=
  .next (s.wrP pd.val (predOf ((List.range 128).map (fun i => decide (i < s.rdN g.val)))))

/-! ## The exchange (R184) -/

/-- The block a `vxall` of a core works on; none where it has none (n = 16 on an optimiser core). -/
def vxBlock (c n : Nat) : List Nat := gangCores c n
/-- Bits of a slice. -/
def sliceBits (w n : Nat) : Nat := 1024 * 2 ^ w / n
/-- Complete a head with XALLMIS: a late fault that writes nothing (R162, R184). -/
def State.vxMiss (s : State) (c : Nat) : State :=
  match (s.core c).vxq with
  | [] => s
  | v :: rest =>
    let s := s.setCore c { s.core c with vxq := rest }
    if v.uid == 0 then s else s.late c v.slot v.uid v.seq cXALLMIS 6 0 0 0 6 (s.thr c v.slot).launch
/-- Deliver a member's destination: slice k from member k (R183). -/
def State.vxPut (s : State) (c j n : Nat) (vs : List VxCmd) : State :=
  match (s.core c).vxq with
  | [] => s
  | v :: rest =>
    let b := sliceBits v.w n
    let g := packLanes b (vs.map (fun m => lane b (groupNat m.data) j))
    let x := { s.core c with vxq := rest }
    if v.uid == 0 then s.setCore c x
    else
      let s := s.setCore c (x.setVs v.d (natGroup v.w g))
      let th := s.thr c v.slot
      if th.uid == v.uid && !v.lathe then s.setThr c v.slot { th with readyAt := s.cycle } else s
/-- VXALL_EXCHANGE at the core of the event (R184): all members' heads match and exchange together; a mismatch completes every
head in the larger block with XALLMIS. -/
def execVxallExchange (s : State) : Res :=
  let c := s.ev.q
  .next (match (s.core c).vxq.head? with
  | none => s
  | some h =>
    let ms := vxBlock c h.n
    if ms.isEmpty then s.vxMiss c
    else
      let hs := ms.filterMap (fun m => (s.core m).vxq.head?)
      match hs.find? (fun v => v.n != h.n || v.w != h.w) with
      | some v => (vxBlock c (max h.n v.n)).foldl (fun s m => s.vxMiss m) s
      | none =>
        if hs.length = ms.length then
          (ms.zip (List.range ms.length)).foldl (fun s m => s.vxPut m.1 m.2 h.n hs) s
        else s)
end Sys2Proof.Machine
end

