-- ==== Sys2Proof/Machine/Repeat.lean ====
section
/-! DEFINITION. Instructions that run without a group of their own: repetitions of the Lathe (R152 to R155), and a late instruction
that runs again from its dispatch-ring entry (R354, R355). -/

namespace Sys2Proof.Machine

/-- An A-slot instruction, or one that takes a dispatch number, run outside a group. -/
def runAlone (i : Instr) (s : State) : Res :=
  match i with
  | .nopA => execNopA s
  | .add d a b => execAdd d a b s
  | .sub d a b => execSub d a b s
  | .and d a b => execAnd d a b s
  | .or d a b => execOr d a b s
  | .xor d a b => execXor d a b s
  | .shl d a b => execShl d a b s
  | .shr d a b => execShr d a b s
  | .sra d a b => execSra d a b s
  | .shli d a sh => execShli d a sh s
  | .shri d a sh => execShri d a sh s
  | .srai d a sh => execSrai d a sh s
  | .slt d a b => execSlt d a b s
  | .sltu d a b => execSltu d a b s
  | .seq d a b => execSeq d a b s
  | .min d a b => execMin d a b s
  | .minu d a b => execMinu d a b s
  | .max d a b => execMax d a b s
  | .maxu d a b => execMaxu d a b s
  | .mul d a b => execMul d a b s
  | .mulh d a b => execMulh d a b s
  | .mulhu d a b => execMulhu d a b s
  | .clz d a => execClz d a s
  | .popc d a => execPopc d a s
  | .bext d a b => execBext d a b s
  | .bdep d a b => execBdep d a b s
  | .sel d a b => execSel d a b s
  | .lea k d a b => execLea k d a b s
  | .addsat lw sg d a b => execAddsat lw sg d a b s
  | .subsat lw sg d a b => execSubsat lw sg d a b s
  | .addi d a imm => execAddi d a imm s
  | .andi d a imm => execAndi d a imm s
  | .ori d a imm => execOri d a imm s
  | .xori d a imm => execXori d a imm s
  | .slti d a imm => execSlti d a imm s
  | .div d a b look => execDiv d a b look s
  | .divu d a b look => execDivu d a b look s
  | .rem d a b look => execRem d a b look s
  | .remu d a b look => execRemu d a b look s
  | .pand pd pa pb => execPand pd pa pb s
  | .por pd pa pb => execPor pd pa pb s
  | .pnot pd pa => execPnot pd pa s
  | .pcnt g pa => execPcnt g pa s
  | .pfirst g pa => execPfirst g pa s
  | .plim pd g => execPlim pd g s
  | .eclr d g => execEclr d g s
  | .eline d a g look => execEline d a g look s
  | .eadd d a b look => execEadd d a b look s
  | .emax d a b look => execEmax d a b look s
  | .einf d a b look => execEinf d a b look s
  | .econj d a look => execEconj d a look s
  | .esimp d a look => execEsimp d a look s
  | .ecnt a g => execEcnt a g s
  | .eeval a g look => execEeval a g look s
  | .earg a g look => execEarg a g look s
  | .eget a g => execEget a g s
  | .vadd ty d a b => execVadd ty d a b s
  | .vsub ty d a b => execVsub ty d a b s
  | .vmul ty d a b => execVmul ty d a b s
  | .vfma ty d a b => execVfma ty d a b s
  | .vmin ty d a b => execVmin ty d a b s
  | .vmax ty d a b => execVmax ty d a b s
  | .vminp ty d a b => execVminp ty d a b s
  | .vmaxp ty d a b => execVmaxp ty d a b s
  | .vand d a b => execVand d a b s
  | .vor d a b => execVor d a b s
  | .vxor d a b => execVxor d a b s
  | .vandn d a b => execVandn d a b s
  | .vshl sz d a b => execVshl sz d a b s
  | .vshr sz d a b => execVshr sz d a b s
  | .vsra sz d a b => execVsra sz d a b s
  | .vcvt ty dty d a => execVcvt ty dty d a s
  | .vrcp ty look d a => execVrcp ty look d a s
  | .vrsq ty look d a => execVrsq ty look d a s
  | .vexp2 ty look d a => execVexp2 ty look d a s
  | .vlog2 ty look d a => execVlog2 ty look d a s
  | .vtanh ty look d a => execVtanh ty look d a s
  | .vsigm ty look d a => execVsigm ty look d a s
  | .vperm sz d a b => execVperm sz d a b s
  | .vbcast sz d a k => execVbcast sz d a k s
  | .vshuf sz d a k => execVshuf sz d a k s
  | .vred ty op d a => execVred ty op d a s
  | .vscan ty op ex d a => execVscan ty op ex d a s
  | .vrng ty d a b => execVrng ty d a b s
  | .vquant ty d a => execVquant ty d a s
  | .vdeq ty d a => execVdeq ty d a s
  | .vcmul d a b => execVcmul d a b s
  | .vsel ty d a b => execVsel ty d a b s
  | .vxall ty d a => execVxall ty d a s
  | .vcmp pd ty cc a b => execVcmp pd ty cc a b s
  | .vaddLV ty d a b x => execVaddLV ty d a b x s
  | .vsubLV ty d a b x => execVsubLV ty d a b x s
  | .vmulLV ty d a b x => execVmulLV ty d a b x s
  | .vfmaLV ty d a b x => execVfmaLV ty d a b x s
  | .vminLV ty d a b x => execVminLV ty d a b x s
  | .vmaxLV ty d a b x => execVmaxLV ty d a b x s
  | .vminpLV ty d a b x => execVminpLV ty d a b x s
  | .vmaxpLV ty d a b x => execVmaxpLV ty d a b x s
  | .vandLV d a b x => execVandLV d a b x s
  | .vorLV d a b x => execVorLV d a b x s
  | .vxorLV d a b x => execVxorLV d a b x s
  | .vandnLV d a b x => execVandnLV d a b x s
  | .vshlLV sz d a b x => execVshlLV sz d a b x s
  | .vshrLV sz d a b x => execVshrLV sz d a b x s
  | .vsraLV sz d a b x => execVsraLV sz d a b x s
  | .vcvtLV ty dty d a x => execVcvtLV ty dty d a x s
  | .vrcpLV ty look d a x => execVrcpLV ty look d a x s
  | .vrsqLV ty look d a x => execVrsqLV ty look d a x s
  | .vexp2LV ty look d a x => execVexp2LV ty look d a x s
  | .vlog2LV ty look d a x => execVlog2LV ty look d a x s
  | .vtanhLV ty look d a x => execVtanhLV ty look d a x s
  | .vsigmLV ty look d a x => execVsigmLV ty look d a x s
  | .vpermLV sz d a b x => execVpermLV sz d a b x s
  | .vbcastLV sz d a k x => execVbcastLV sz d a k x s
  | .vshufLV sz d a k x => execVshufLV sz d a k x s
  | .vredLV ty op d a x => execVredLV ty op d a x s
  | .vscanLV ty op ex d a x => execVscanLV ty op ex d a x s
  | .vrngLV ty d a b x => execVrngLV ty d a b x s
  | .vquantLV ty d a x => execVquantLV ty d a x s
  | .vdeqLV ty d a x => execVdeqLV ty d a x s
  | .vcmulLV d a b x => execVcmulLV d a b x s
  | .vselLV ty d a b x => execVselLV ty d a b x s
  | .vxallLV ty d a x => execVxallLV ty d a x s
  | .mma acc ga gb ksteps rows1 cols1 => execMma acc ga gb ksteps rows1 cols1 s
  | .mmas acc ga gb ksteps rows1 cols1 last => execMmas acc ga gb ksteps rows1 cols1 last s
  | .mzero acc pin => execMzero acc pin s
  | .mwb ga gb => execMwb ga gb s
  | .mdrain acc ga rows1 cols1 keep => execMdrain acc ga rows1 cols1 keep s
  | .rowout acc ga gb => execRowout acc ga gb s
  | .asave acc ga => execAsave acc ga s
  | .arest acc ga => execArest acc ga s
  | .mstat acc ga look => execMstat acc ga look s
  | .mfence all => execMfence all s
  | .eld d a look => execEld d a look s
  | .est d a => execEst d a s
  | .ldv v k look => execLdv v k look s
  | .stv v k => execStv v k s
  | .ldvAdv v k look => execLdvAdv v k look s
  | .stvAdv v k => execStvAdv v k s
  | _ => .next s

/-! ## The Lathe -/

/-- Windows of a thread's repeated results run down by one captured instruction, or run out at the end of the work (R102). -/
def State.latheLook (s : State) (c : Nat) (l : Lathe) (done : Bool) : State :=
  let x := s.core c
  let th := x.thr l.slot
  let f := fun (n : Nat) => if done then 0 else n - 1
  s.setCore c { x.setThr l.slot { th with outs := th.outs.map (fun o => if o.lathe then { o with look := f o.look } else o) } with
    envPend := x.envPend.map (fun e => if e.uid == l.uid && e.lathe then { e with look := f e.look } else e) }
/-- The Lathe of a core has no repetition left: its windows run out, and it completes when all results are written (R154). -/
def State.latheEnds (s : State) (c : Nat) (l : Lathe) : State :=
  let s := s.latheLook c l true
  let s := s.setCore c (s.core c).landEnvs
  if (s.core c).latheBusy l then s else s.latheDone c l
/-- The Lathe after it has issued an instruction: a late fault has stopped it, or it stands at the next (R155). -/
def State.latheNext (s : State) (c : Nat) (l : Lathe) : State :=
  match (s.core c).lathe with
  | some k => if k.r == l.r then s.setCore c { s.core c with lathe := some l.next } else s
  | none => s
/-- The next captured instruction of a Lathe (R152, R154); it waits on the results of earlier ones (R102, R184). -/
def State.latheIssue (s : State) (c : Nat) (l : Lathe) : Res :=
  let i := l.words.getD l.i .nopA
  let rw := l.uses l.r i
  let u := s.landFor c l.slot rw.2
  if (u.thr c l.slot).interlocked rw.1 rw.2 || u.srHeld c l.slot i || (u.core c).vxq.any (fun v => v.uid == l.uid) then .next s
  else
    match runAlone i { u.latheLook c l false with cur := l.cur c } with
    | .next v => if v.cur.stop then .next s else .next ({ v with cur := {} }.latheNext c l)
    | r => r
/-- LATHE_REPEAT at core q (R152 to R155): the next captured instruction issues, or the Lathe completes. -/
def execLatheRepeat (s : State) : Res :=
  let c := s.ev.q
  match (s.core c).lathe with
  | none => .next s
  | some l =>
    if l.left != 0 then .next s
    else if l.over then .next (s.latheEnds c l)
    else
      match s.latheIssue c l with
      | .next u => .next { u with cur := s.cur }
      | r => r

/-! ## Running again from the dispatch ring (R354, R355) -/

/-- The state in which a ring entry's instruction runs again: scalar operands, predicates, window and sampled registers as they
were at its issue, vector registers as they are. -/
def State.replaying (s : State) (c : Nat) (e : RingEntry) : State :=
  let th : Thread := s.thr c e.slot
  let old : Thread := { th with
    g := e.g, p := e.p, kvwin := e.kvwin, kfmtA := e.s.kfmtA, kfmtB := e.s.kfmtB, kfmtC := e.s.kfmtC, ksclA := e.s.ksclA,
    ksclB := e.s.ksclB, kround := e.s.kround, kseq := e.s.kseq, kstep := e.s.kstep, kstage := e.s.kstage, ktol := e.s.ktol,
    kenv := e.s.kenv }
  let cur : Cur := match e.lathe with
    | some l => l.cur c
    | none => { core := c, slot := e.slot, addr := match th.drupe with
        | some _ => BitVec.ofNat 64 (e.pc / 256 * 8)
        | none => BitVec.ofNat 64 e.pc }
  { s with cur := { cur with latch := some { thr := old, v := (s.core c).v }, replay := some e.seq } }
/-- Run a late instruction again; a Lathe goes on behind it at the repetition that faulted (R155). None while it has to wait. -/
def State.retryLate (s : State) (c : Nat) (e : RingEntry) : Option State :=
  let busy := e.lathe.isSome && (match (s.core c).lathe with
    | some l => l.uid != e.uid
    | none => false)
  if busy then none
  else
    let u := match e.lathe with
      | some l => s.setCore c { s.core c with lathe := some l }
      | none => s
    match runAlone e.ins (u.replaying c e) with
    | .next v =>
      if v.cur.stop then none
      else
        let v := { v with cur := {} }
        some (match e.lathe with
          | some l => v.latheNext c l
          | none => v)
    | _ => none

end Sys2Proof.Machine
end

