-- ==== Sys2Proof/Machine/Tables.lean ====
section
/-! DEFINITION. The table instructions (R323 to R336). The right is checked before any value the instruction reads. -/

namespace Sys2Proof.Machine

/-! ## Translation (R324) -/

/-- Forget the TLB entries of a core that satisfy a test. -/
def Core.tlbDrop (x : Core) (p : TlbEntry → Bool) : Core :=
  { x with itlb := x.itlb.filter (fun e => !p e), dtlb := x.dtlb.filter (fun e => !p e) }
/-- Forget the second-level TLB entries of a cluster that satisfy a test. -/
def Cluster.tlbDrop (k : Cluster) (p : TlbEntry → Bool) : Cluster :=
  { k with l2tlb := fvals k.l2tlb (fun l => l.filter (fun e => !p e)) }
/-- A core lies in the extent of a scope word (R324). -/
def inExtent (me ext c : Nat) : Bool :=
  match ext with
  | 0 => c == me
  | 1 => clusterOf c == clusterOf me
  | 2 => dieOf c == dieOf me
  | _ => true
/-- Invalidate in the extent of a scope word (R324); a second level is in an extent that takes in its cluster. -/
def State.tlbInvalidate (s : State) (scope : Nat) (p : TlbEntry → Bool) : State :=
  let me := s.cur.core
  let ext := scope % 4
  { s with
    cores := s.cores.map (fun x => (x.1, if inExtent me ext x.1 then x.2.tlbDrop p else x.2))
    clusters := s.clusters.map (fun x =>
      (x.1, if (match ext with
        | 0 => false
        | 1 => x.1 == clusterOf me
        | 2 => x.1 / 16 == dieOf me
        | _ => true) then x.2.tlbDrop p else x.2)) }
/-- `tlbinv` (R324): the thread's earlier stores are performed first. -/
def execTlbinv (a b : R) (s : State) : Res :=
  let ea := s.rd a.val
  let w := s.rdN b.val
  .next (if s.service = false then s.faultSelf cKPRIV
    else if badRange ea then s.fault cADDRRNG 1 ea.toNat 0
    else if s.me.unsettled || s.unacked s.me.uid then s.waits
    else s.tlbInvalidate w (fun e => e.hits (w / 2 ^ 16 % 2 ^ 16) ea.toNat))
/-- `tlbinva` (R324). -/
def execTlbinva (b : R) (s : State) : Res :=
  let w := s.rdN b.val
  .next (if s.service = false then s.faultSelf cKPRIV
    else if s.me.unsettled || s.unacked s.me.uid then s.waits
    else s.tlbInvalidate w (fun e => w / 4 % 2 == 1 || e.handle == w / 2 ^ 16 % 2 ^ 16))

/-! ## The directory (R326 to R328) -/

/-- An image's fields (R54), reserved bits apart. -/
def entryOf (n : Nat) : DirEntry :=
  { v := n.testBit 148, name := bitsN n 147 128, owner := bitsN n 162 152, ostack := bitsN n 167 163, gfmt := bitsN n 171 168,
    maxrep := bitsN n 174 172, win := bitsN n 199 184, thret := bitsN n 215 200, threp := bitsN n 231 216, fver := bitsN n 279 248,
    rvoff := bitsN n 304 280, wlines := bitsN n 335 320, wbase := bitsN n 399 336, hpc := bitsN n 463 400 }
/-- CREATE refuses the image with BADIMG (R54, R327). -/
def badImage (n : Nat) : Bool :=
  let e := entryOf n
  bitsN n 511 464 != 0 || bitsN n 319 305 != 0 || bitsN n 151 149 != 0 || !e.v || e.wlines == 0 || decide (32768 < e.wlines) ||
  e.win == 0 || decide (2048 ≤ e.owner) || decide (23 < e.ostack) || !([4, 5, 6, 8, 9, 10, 11, 12, 13, 14].contains e.gfmt) ||
  decide (2 ^ 52 ≤ e.hpc) || e.hpc % 8 != 0 || decide (2 ^ 52 ≤ e.wbase) || e.wbase % 64 != 0 || e.rvoff % 64 != 0 ||
  decide (2 ^ 25 < e.rvoff + 16 * e.wlines * 64)
/-- Valid entries of a home cluster (R52). -/
def State.entriesAt (s : State) (k : Nat) : Nat := (s.dir.filter (fun e => homeOf e.1 == k && e.2.e.v)).length
/-- `dirset` may be performed by any thread of the core's kind for every operation (R326). -/
def State.dirRight (s : State) : Bool := s.service || isOpt s.cur.core
/-- The home's status for a request (R327); `n` is the image. -/
def State.dirStatus (s : State) (op n : Nat) : Nat :=
  let i := entryOf n
  let h := s.home i.name
  let notOwner := !s.dirRight && h.e.owner != s.cur.core
  match op with
  | 0 => if badImage n then 3 else if h.e.v then 1 else if 1024 ≤ s.entriesAt (homeOf i.name) then 2 else 0
  | 1 => if i.win = 0 then 3 else if !h.e.v then 4 else if notOwner then 8 else 0
  | 2 => if !h.e.v then 4 else if notOwner then 8 else if i.fver ≤ h.e.fver then 6 else if !h.joinDone then 5 else 0
  | _ =>
    if !h.e.v then 4
    else if (List.range' 1 7).any (fun j => let st := (h.e.slot j).state
        st == 1 || st == 2 || st == 3) then 7 else 0
/-- CREATE (R54, R326, R377): slot 0 is ACTIVE on the owner, which is sent its activation; the answer waits for it. -/
def State.dirCreate (s : State) (i : DirEntry) (d : Nat) : State :=
  let old := s.home i.name
  let e := i.setSlot 0 { core := i.owner, state := 2, wver := i.fver }
  let s := s.setHome i.name { e := e, winStart := s.cycle, winLen := e.win, unacked := old.unacked,
                              launch := s.me.launch, cont := s.me.cont }
  (s.homeMsg i.name i.owner (.activation i.name 0 i.fver false i.ostack i.gfmt (some s.me.uid))).modMe (fun t => { t with blk := .answer d })
/-- DELETE (R326): the entry is invalid, the sharers and the cores of its slots are told; claims of the entry end, their `repnew` with
14 (assumption 95). -/
def State.dirDelete (s : State) (name : Nat) : State :=
  let s := (s.home name).claims.foldl (fun s cl => s.answer cl.asker 14) s
  let s := (List.range 8).foldl (fun s j =>
    let x := (s.home name).e.slot j
    if x.state == 0 then s else
      (s.setHome name { s.home name with e := (s.home name).e.setSlot j { x with state := 0, fin := false, depth := 0 } }).tellCore name j) s
  let h := s.home name
  let s := (s.setHome name { h with e := { h.e with v := false }, stats := [0, 0, 0, 0], fwdDue := [], claims := [], reps := [] }).tellChange name
  s.setHome name { s.home name with e := { (s.home name).e with shr := 0 } }
/-- Perform an operation whose status is 0 (R326). -/
def State.dirPerform (s : State) (op : Nat) (i : DirEntry) (d : Nat) : State :=
  let h := s.home i.name
  match op with
  | 0 => s.dirCreate i d
  | 1 => (s.setHome i.name { h with e := { h.e with threp := i.threp, thret := i.thret, win := i.win, maxrep := i.maxrep } }).wrN d 0
  | 2 => (s.stepEntry i.name i.fver).wrN d 0
  | _ => (s.dirDelete i.name).wrN d 0
/-- `dirset` (R326, R327). -/
def execDirset (d a b : R) (s : State) : Res :=
  let op := s.rdN b.val % 4
  let ea := s.rd a.val
  .next (if s.dirRight = false ∧ (op = 0 ∨ op = 3) then s.faultSelf cKPRIV
    else if badRange ea then s.fault cADDRRNG 1 ea.toNat 0
    else if ea.toNat % 64 ≠ 0 then s.fault cALIGN 1 ea.toNat 0
    else
      match s.image ea.toNat 128 with
      | (u, none) => u
      | (u, some l) =>
        let i := entryOf (leNat l)
        let u := u.atHome i.name
        match u.dirStatus op (leNat l) with
        | 0 => u.dirPerform op i d.val
        | st => u.wrN d.val st)
/-- `repnew` (R328): the thread is blocked until its claim ends. -/
def execRepnew (d a : R) (s : State) : Res :=
  let name := s.rdN a.val % 2 ^ 20
  .next (if s.service = false ∧ s.taskCap s.cur.core = false then s.faultSelf cKPRIV
    else
      let s := s.atHome name
      let h := s.home name
      if !h.e.v then s.wrN d.val 13
      else
        match h.freeSlot with
        | none => s.wrN d.val 15
        | some j =>
          if h.inUse = h.e.maxrep + 1 ∨ h.e.maxrep + 1 < h.inUse then s.wrN d.val 15
          else (s.modMe (fun t => { t with blk := .answer d.val })).createReplica name j (some (s.cur.core, s.cur.slot)))
/-- `repret` (R328). -/
def execRepret (d a b : R) (s : State) : Res :=
  let name := s.rdN a.val % 2 ^ 20
  let j := s.rdN b.val
  .next (if s.service = false ∧ s.taskCap s.cur.core = false then s.faultSelf cKPRIV
    else if j < 1 ∨ 7 < j then s.wrN d.val 2
    else
      let s := s.atHome name
      let h := s.home name
      if !h.e.v then s.wrN d.val 13
      else if (h.e.slot j).state = 2 then (s.drainSlot name j).wrN d.val 0
      else s.wrN d.val 1)

/-! ## Capacity and capability (R329) -/

/-- `capset` (R329): the capacity table, or, for a service thread, the capability table. -/
def execCapset (d a b : R) (s : State) : Res :=
  let w := s.rdN b.val
  let name := s.rdN a.val % 2 ^ 20
  let x := s.here
  .next (if w / 2 ^ 63 = 1 then
      if s.service = false then s.faultSelf cKPRIV
      else if s.rd a.val = 0 then s.wrN d.val 1
      else
        let k := w / 2 ^ 8 % 8
        let mask := w % 2 ^ 8
        (s.modHere (fun x => { x with capab := if mask = 0 then ferase x.capab k else fset x.capab k (s.rd a.val, mask) })).wrN d.val 0
    else if (fget? x.cap name).isNone ∧ 16 ≤ x.cap.length then s.wrN d.val 1
    else
      (s.modHere (fun x => { x with cap := if w / 2 ^ 62 % 2 = 1 then ferase x.cap name else fset x.cap name (w % 2 ^ 32) })).wrN d.val 0)

/-! ## Trees, forwarding, patterns, maps (R332 to R334) -/

/-- The status `treeset` gives (R333). -/
def treeStatus (c e : Nat) : Nat :=
  let used := fun (k : Nat) => treePar e == k || treeCh e k
  if 2048 ≤ c then 1
  else if e % 2 = 1 ∨ 8 < treeOp e ∨ treePar e = 6 ∨ (List.range 5).any (fun k => used k && (treeStep c e k).isNone) then 2
  else 0
/-- `treeset` (R333): it waits while the router holds a round of the group. -/
def execTreeset (d a b : R) (s : State) : Res :=
  let c := s.rdN a.val % 2 ^ 12
  let g := s.rdN a.val / 2 ^ 16 % 32
  let e := s.rdN b.val % 2 ^ 32
  .next (if s.service = false then s.faultSelf cKPRIV
    else if treeStatus c e ≠ 0 then s.wrN d.val (treeStatus c e)
    else if s.holdsRound g c then s.waits
    else (s.setCore c { s.core c with tree := fset (s.core c).tree g (BitVec.ofNat 32 e) }).wrN d.val 0)
/-- `fwdset` (R332). -/
def execFwdset (d a b : R) (s : State) : Res :=
  let op := s.rdN b.val % 4
  let v := s.rdN a.val
  let thread := op == 3
  let key := if op = 3 then v % 8 else v % 2 ^ 20
  .next (if s.service = false then s.faultSelf cKPRIV
    else if op < 2 then
      if v % 2 ^ 16 = 0 then s.wrN d.val 1
      else (s.modHere (fun x => if op = 0 then { x with fwExp := v % 2 ^ 16 } else { x with fwMig := v % 2 ^ 16 })).wrN d.val 0
    else if (s.fwdFor s.cur.core thread key).isNone then s.wrN d.val 1
    else
      (s.modHere (fun x => { x with fwd := x.fwd.map (fun f =>
        if f.thread == thread && f.key == key then { f with expires := s.cycle } else f) })).wrN d.val 0)
/-- A stride-pattern image keeps its rule (R163, R334). -/
def patternOk (n : Nat) : Bool :=
  bitsN n 51 1 == 0 && bitsN n 63 58 == 0 && (bitsN n 55 52 ≤ 6 || bitsN n 55 52 == 15)
/-- The bytes of a map before its first 0xFF (R252). -/
def mapBytes (l : List Byte) : List Nat := (l.takeWhile (fun b => b != 0xFF)).map (fun b => b.toNat)
/-- A map image keeps its rule (R334). -/
def mapOk (l : List Byte) : Bool :=
  let m := mapBytes l
  decide (4 ≤ m.length) && decide (m.length ≤ 49) && (List.range m.length).all (fun q => m.contains q) &&
  (l.drop m.length).all (fun b => b == 0xFF)
/-- Change every stack hub of the device. -/
def State.allHubs (s : State) (f : Hub → Hub) : State := (List.range 24).foldl (fun s h => s.setHub h (f (s.hub h))) s
/-- A Spindle command accepted on a map entry has not completed, in a hub or saved by a launch halt (R252, R264). -/
def State.svOpenOn (s : State) (k : Nat) : Bool :=
  s.hubs.any (fun h => h.2.svq.any (fun c => c.mapid == k && c.result.isNone)) ||
  s.halts.any (fun h => h.sv.any (fun c => c.2.mapid == k && c.2.result.isNone))
/-- `sptset` (R252, R334): a stride pattern, or a qubit map, which waits for the commands accepted on its entry. -/
def execSptset (d a b : R) (s : State) : Res :=
  let ea := s.rd a.val
  let w := s.rdN b.val
  let isMap := w / 2 ^ 8 % 2 == 1
  let k := w % 16
  .next (if s.service = false then s.faultSelf cKPRIV
    else if badRange ea then s.fault cADDRRNG 1 ea.toNat 0
    else if ea.toNat % (if isMap then 64 else 32) ≠ 0 then s.fault cALIGN 1 ea.toNat 0
    else if isMap && s.svOpenOn k then s.waits
    else
      match s.image ea.toNat (if isMap then 64 else 32) with
      | (u, none) => u
      | (u, some l) =>
        if isMap then
          if l.all (fun b => b == 0xFF) then (u.allHubs (fun h => { h with maps := ferase h.maps k })).wrN d.val 0
          else if mapOk l then
            (u.allHubs (fun h => { h with maps := fset h.maps k { (fget {} h.maps k) with map := mapBytes l } })).wrN d.val 0
          else u.wrN d.val 1
        else if patternOk (leNat l) then
          (u.allHubs (fun h => { h with patterns := fset h.patterns (w % 64) (BitVec.ofNat 256 (leNat l)) })).wrN d.val 0
        else u.wrN d.val 1)

/-! ## Service map and placement (R335, R336) -/

/-- `svcset` (R335). -/
def execSvcset (a b : R) (s : State) : Res :=
  let k := s.rdN a.val
  let e := s.rdN b.val % 2 ^ 16
  .next (if s.service = false then s.faultSelf cKPRIV
    else if 154 ≤ k then s.illenc 0 4
    else if e / 2 ^ 12 % 8 ≠ 0 then s.illenc 0 5
    else { s with svcmap := fset s.svcmap k (BitVec.ofNat 16 e) })
/-- A placement entry passes the tests of a query (R336); an entry without a stage counts as stage 0. -/
def placeFits (q e : Nat) : Bool :=
  (!q.testBit 4 || q % 16 == (if e.testBit 43 then bitsN e 47 44 else 0)) && (!q.testBit 24 || bitsN q 23 8 == bitsN e 63 48)
/-- The lowest core of an entry from a start on. -/
def placeFrom (e from_ : Nat) : Option Nat :=
  let c := max from_ (bitsN e 10 0)
  if c ≤ bitsN e 21 11 then some c else none
/-- `placeq` (R336). -/
def execPlaceq (d a b : R) (s : State) : Res :=
  let q := s.rdN a.val
  let es : List Nat := match fget? s.conts s.me.cont with
    | some k => k.place.map BitVec.toNat
    | none => []
  let hits := (es.filter (placeFits q)).filterMap (fun e => match placeFrom e (s.rdN b.val) with
    | some c => some (c, e)
    | none => none)
  let best := hits.foldl (fun (m : Option (Nat × Nat)) x => match m with
    | none => some x
    | some y => if x.1 < y.1 then some x else some y) none
  .next (match best with
  | some (c, e) => s.wrN d.val (c + bitsN e 63 48 * 2 ^ 12 + (if e.testBit 43 then bitsN e 47 44 else 0) * 2 ^ 28)
  | none => s.wr d.val (BitVec.allOnes 64))

end Sys2Proof.Machine
end

