-- ==== Sys2Proof/Machine/Spindle.lean ====
section
/-! DEFINITION. The Spindle (R249 to R267): the state-vector record, acceptance at the lead hub, checks, exchanges, gates, sums, and
what ends a command. One CHUNK_COMMIT commits a chunk in every region of the vector. -/

namespace Sys2Proof.Machine

/-! ## The record and the map (R250 to R252) -/

/-- A state-vector record (R250): local, stack and device bits, stride, rank of device 0, map entry, base, hubs of the slots; whether
a field breaks its rule. -/
structure SvRec where
  l : Nat
  s : Nat
  d : Nat
  rsh : Nat
  rank0 : Nat
  mapid : Nat
  vbase : Nat
  hubs : List Nat
  bad : Bool
deriving DecidableEq, Repr
/-- The hub fields of a record, slot 0 first. -/
def hubFields (n : Nat) : List Nat := (List.range 16).map (fun k => bitsN n (132 + 5 * k) (128 + 5 * k))
/-- The record in 256 bits. -/
def svRecOf (n : Nat) : SvRec :=
  let l := bitsN n 69 64
  let s := bitsN n 74 72
  let d := bitsN n 83 80
  let rsh := bitsN n 101 96
  let hs := (hubFields n).take (2 ^ s)
  { l := l, s := s, d := d, rsh := rsh, rank0 := bitsN n 127 115, mapid := bitsN n 91 88, vbase := bitsN n 51 0, hubs := hs,
    bad := bitsN n 255 208 != 0 || bitsN n 114 102 != 0 || bitsN n 95 92 != 0 || bitsN n 87 84 != 0 || bitsN n 79 75 != 0 ||
      bitsN n 71 70 != 0 || bitsN n 63 52 != 0 || bitsN n 15 0 != 0 || decide (l < 4) || decide (32 < l) || decide (4 < s) ||
      decide (13 < d) || decide (36 < rsh) || decide (rsh < max 16 (l + 3)) || hs.any (fun h => decide (23 < h)) ||
      ((hubFields n).drop (2 ^ s)).any (fun h => h != 0) || decide (hs.eraseDups.length < hs.length) }
/-- Qubits of the vector. -/
def SvRec.n (r : SvRec) : Nat := r.l + r.s + r.d
/-- The record a command was accepted with. -/
def SvCmd.svrec (m : SvCmd) : SvRec := svRecOf m.record.toNat
/-- The place of this device among those of the vector (R250). -/
def State.ownDev (s : State) (r : SvRec) : Nat := s.rank - r.rank0
/-- Every device of the vector is this one or reached over live links (R266, R367). -/
def State.svReached (s : State) (r : SvRec) : Bool := (List.range (2 ^ r.d)).all (fun d => s.reachable (r.rank0 + d))
/-- The op of a command. -/
def SvCmd.op (m : SvCmd) : Nat := m.hdr.toNat / 2 ^ 57
/-- Body word `k`. -/
def SvCmd.w (m : SvCmd) (k : Nat) : Nat := (m.body.getD k 0).toNat
/-- The progress record of a command (R265). -/
def SvCmd.progress (m : SvCmd) : BitVec 256 :=
  BitVec.ofNat 256 (m.chunk % 2 ^ 64 + m.pidx % 64 * 2 ^ 119 + m.phase % 8 * 2 ^ 125 + m.slot % 8 * 2 ^ 142 + m.core % 2 ^ 12 * 2 ^ 148 +
    m.hdr.toNat % 2 ^ 32 * 2 ^ 160 + m.w 0 % 2 ^ 52 * 2 ^ 204)
/-- Progress records a hub holds: one a running command it takes part in (R249, R254). -/
def State.progressAt (s : State) (h : Nat) : List (BitVec 256) :=
  s.hubs.flatMap (fun x => (x.2.svq.filter (fun m => m.active && m.result.isNone && m.svrec.hubs.contains h)).map (fun m => m.progress))
/-- Who a command's accesses belong to (R254). -/
def SvCmd.who (m : SvCmd) : Who := ⟨m.core, m.cont, m.uid⟩
/-- Body words of each command (R253). -/
def svWords (op : Nat) : Nat :=
  match op with
  | 0x63 => 5
  | 0x65 | 0x66 | 0x68 | 0x69 => 2
  | 0x6A => 1
  | _ => 3
/-- Words of a command's result body (R255). -/
def svResultWords (op : Nat) : Nat := if op = 0x67 ∨ op = 0x68 then 2 else 1
/-- Words the spec gives no value. -/
def State.openWords (s : State) (n : Nat) : List Word := (List.range n).map (fun k => Config.freeWord (s.free + k))
/-- A map-table entry of a hub. -/
def State.svMap (s : State) (h k : Nat) : SvMap := fget {} (s.hub h).maps k
/-- Change a map-table entry in hubs. -/
def State.setMaps (s : State) (hs : List Nat) (k : Nat) (f : SvMap → SvMap) : State :=
  hs.foldl (fun s h => s.setHub h { s.hub h with maps := fset (s.hub h).maps k (f (s.svMap h k)) }) s
/-- The logical qubit at a physical bit. -/
def qubitAt (map : List Nat) (p : Nat) : Nat := ((List.range map.length).find? (fun q => map.getD q 0 == p)).getD 0
/-- A map with the qubits of two physical bits exchanged. -/
def mapSwap (map : List Nat) (a b : Nat) : List Nat := map.map (fun p => if p = a then b else if p = b then a else p)
/-- The logical index of a physical index (R252). -/
def logicalOf (map : List Nat) (p : Nat) : Nat :=
  (List.range map.length).foldl (fun x q => if p.testBit (map.getD q 0) then x + 2 ^ q else x) 0

/-! ## Amplitudes (R251) -/

/-- Where the amplitude at a physical index lies: through the region translation on this device, number `own` of the vector, in
another device's space elsewhere. -/
def SvRec.at_ (r : SvRec) (own : Nat) (pages : List (List Nat)) (p : Nat) : Nat :=
  let dev := p / 2 ^ (r.l + r.s)
  let slot := p / 2 ^ r.l % 2 ^ r.s
  let off := 8 * (p % 2 ^ r.l)
  if dev = own then ((pages.getD slot []).getD (off / 2 ^ 16) 0) + off % 2 ^ 16
  else spacePa (r.rank0 + dev) (r.vbase + slot * 2 ^ r.rsh + off)
/-- Read an amplitude. -/
def State.amp (s : State) (r : SvRec) (pages : List (List Nat)) (p : Nat) : Nat := s.mem.nat (s.pooled (s.moved (r.at_ (s.ownDev r) pages p) 16)) 8
/-- Write an amplitude. -/
def State.setAmp (s : State) (r : SvRec) (pages : List (List Nat)) (p v : Nat) : State :=
  s.put [s.pooled (s.moved (r.at_ (s.ownDev r) pages p) 16)] 0 (leBytes 8 v)
/-- A number with a 0 bit inserted at a position. -/
def insertZero (u j : Nat) : Nat := j / 2 ^ u * 2 ^ (u + 1) + j % 2 ^ u
/-- Insert 0 bits at ascending positions. -/
def insertZeros (us : List Nat) (j : Nat) : Nat := us.foldl (fun x u => insertZero u x) j
/-- Numbers in ascending order. -/
def insertSorted (x : Nat) (l : List Nat) : List Nat :=
  match l with
  | [] => [x]
  | y :: rest => if x ≤ y then x :: y :: rest else y :: insertSorted x rest
/-- Chunks of 64 that `n` items fill. -/
def chunksOf (n : Nat) : Nat := (n + 63) / 64
/-- The items of a chunk. -/
def chunkItems (n c : Nat) : List Nat := (List.range' (64 * c) 64).filter (fun j => decide (j < n))

/-! ## Swaps of physical bits (R257, R260) -/

/-- Pairs of each region that a swap of physical bits exchanges. -/
def SvRec.swapCount (r : SvRec) (a b : Nat) : Nat :=
  if a < r.l ∧ b < r.l then 2 ^ (r.l - 2) else if a < r.l ∨ b < r.l then 2 ^ (r.l - 1) else 2 ^ r.l
/-- The pairs of a chunk of a swap: the index with bit `hi` set and bit `lo` clear, and its partner; `lo` < `hi`. -/
def SvRec.swapPairs (r : SvRec) (lo hi c : Nat) : List (Nat × Nat) :=
  let us := [lo, hi].filter (fun u => decide (u < r.l))
  let part := fun (g : Nat) => (lo < r.l || !g.testBit (lo - r.l)) && (hi < r.l || g.testBit (hi - r.l))
  ((List.range (2 ^ (r.s + r.d))).filter part).flatMap (fun g =>
    (chunkItems (r.swapCount lo hi) c).map (fun j =>
      let i := insertZeros us j
      let p := g * 2 ^ r.l + i + (if hi < r.l then 2 ^ hi else 0)
      (p, p - 2 ^ hi + 2 ^ lo)))
/-- Commit a chunk of a swap: each pair trades its amplitudes. -/
def State.swapChunk (s : State) (r : SvRec) (pages : List (List Nat)) (a b c : Nat) : State :=
  (r.swapPairs (min a b) (max a b) c).foldl (fun s p =>
    let x := s.amp r pages p.1
    let y := s.amp r pages p.2
    (s.setAmp r pages p.1 y).setAmp r pages p.2 x) s
/-- The local bit a global target goes to (R256). -/
def exchangeTo (l : Nat) (ts : List Nat) : Nat := ((List.range l).filter (fun u => !ts.contains u)).getLastD 0

/-! ## Gates (R258, R259) -/

/-- Targets of a command. -/
def SvCmd.targets (m : SvCmd) : List Nat :=
  let t := fun k => bitsN (m.w 1) (8 * k + 5) (8 * k)
  match m.op with
  | 0x60 | 0x63 => [t 0]
  | 0x61 => [t 0, t 1]
  | 0x62 => [t 0, t 1, t 2]
  | 0x64 => [t 0, t 1, t 2].take (bitsN (m.w 1) 25 24)
  | _ => []
/-- Targets that are made local first. -/
def SvCmd.exchanged (m : SvCmd) : List Nat := if m.op = 0x64 then [] else m.targets
/-- One row of a gate: the sum of its products in ascending column (R258). -/
def gateRow (row col : List Nat) : Nat :=
  match row, col with
  | u :: us, a :: as => (us.zip as).foldl (fun acc p => (cadd rne acc (cmul rne p.1 p.2).1).1) (cmul rne u a).1
  | _, _ => 0
/-- Apply a matrix to the group whose lowest member is at an index, target bits given with t0 first. -/
def State.gateGroup (s : State) (r : SvRec) (pages : List (List Nat)) (bits mat : List Nat) (p : Nat) : State :=
  let k := 2 ^ bits.length
  let member := fun j => (List.range bits.length).foldl (fun x i => if j.testBit i then x + 2 ^ (bits.getD i 0) else x) p
  let old := (List.range k).map (fun j => s.amp r pages (member j))
  let new := (List.range k).map (fun i => gateRow ((mat.drop (k * i)).take k) old)
  (new.zip (List.range k)).foldl (fun s v => s.setAmp r pages (member v.2) v.1) s
/-- What the local phase of a command works on: items in each region. -/
def SvCmd.items (m : SvCmd) (r : SvRec) : Nat := 2 ^ (r.l - m.exchanged.length)
/-- One item of the local phase at region `g`, item `j`. `sv.norm` takes each half by itself, as R261 writes it: an infinite half times
a factor of 0 is NaN in that half alone, where R77 says of a complex product that a NaN stands in both (DESIGN CHOICE, assumption 104). -/
def State.svItem (s : State) (m : SvCmd) (r : SvRec) (map : List Nat) (pages : List (List Nat)) (g j : Nat) : State :=
  let d := m.data.map (fun w => w.toNat)
  match m.op with
  | 0x60 | 0x61 | 0x62 | 0x63 =>
    let bits := m.targets.map (fun q => map.getD q 0)
    let p := g * 2 ^ r.l + insertZeros (bits.foldl (fun l b => insertSorted b l) []) j
    if m.op = 0x63 ∧ (logicalOf map p) &&& (m.w 3) ≠ m.w 4 then s else s.gateGroup r pages bits d p
  | 0x64 =>
    let p := g * 2 ^ r.l + j
    let x := logicalOf map p
    let i := (List.range m.targets.length).foldl (fun k b => if x.testBit (m.targets.getD b 0) then k + 2 ^ b else k) 0
    s.setAmp r pages p (cmul rne (d.getD i 0) (s.amp r pages p)).1
  | 0x69 =>
    let p := g * 2 ^ r.l + j
    s.setAmp r pages p (if logicalOf map p = m.w 1 then 0x3F800000 else 0)
  | _ =>
    -- `sv.norm`: both halves by the factor
    let p := g * 2 ^ r.l + j
    let a := s.amp r pages p
    let f := d.getD 0 0
    s.setAmp r pages p ((fmul fp32 rne (a % 2 ^ 32) f).1 + 2 ^ 32 * (fmul fp32 rne (a / 2 ^ 32) f).1)

/-! ## Sums (R261) -/

/-- The sum of two ACC48 numbers, rounded. -/
def accAdd (a b : Nat) : Nat := (finish acc48 rne (addVal false (unpack acc48 a) (unpack acc48 b))).1
/-- The squared magnitude of an amplitude, rounded once. -/
def magnitude (a : Nat) : Nat :=
  let re := unpack fp32 (a % 2 ^ 32)
  let im := unpack fp32 (a / 2 ^ 32)
  (finish acc48 rne (addVal false (mulVal re re).1 (mulVal im im).1)).1
/-- The sum of one region carried on over a chunk of it. -/
def State.regionSum (s : State) (m : SvCmd) (r : SvRec) (map : List Nat) (pages : List (List Nat)) (g acc : Nat) : Nat :=
  (chunkItems (2 ^ r.l) m.chunk).foldl (fun acc i =>
    let p := g * 2 ^ r.l + i
    if m.op = 0x68 ∨ (logicalOf map p) &&& (m.w 1) = m.w 2 then accAdd acc (magnitude (s.amp r pages p)) else acc) acc
/-- Stack slots in ascending hub number. -/
def SvRec.byHub (r : SvRec) : List Nat :=
  (List.range 24).filterMap (fun h => (List.range r.hubs.length).find? (fun k => r.hubs.getD k 24 == h))
/-- The total over the vector of the sums of its regions: hubs of a device in ascending number, devices in ascending rank. -/
def SvRec.total (r : SvRec) (sums : List Nat) : Nat :=
  let dev := fun d => match r.byHub.map (fun k => sums.getD (d * 2 ^ r.s + k) 0) with
    | [] => 0
    | x :: rest => rest.foldl accAdd x
  match (List.range (2 ^ r.d)).map dev with
  | [] => 0
  | x :: rest => rest.foldl accAdd x
/-- An ACC48 number rounded to FP32. -/
def toFp32 (x : Nat) : Nat := (finish fp32 rne (unpack acc48 x, 0)).1
/-- 1 ÷ √x of an ACC48 number, correctly rounded to FP32; +∞ for a total of +0. -/
def rsqTotal (x : Nat) : Nat :=
  match unpack acc48 x with
  | .nan _ => fp32.qnan
  | .inf n => if n then fp32.qnan else 0
  | .fin n m e =>
    if m = 0 then fp32.inf
    else if n then fp32.qnan
    else
      let m2 := if e % 2 == 0 then m else 2 * m
      let e2 := if e % 2 == 0 then e else e - 1
      let q := 2 ^ 240 / m2
      let k := isqrt q
      (roundTo fp32 rne false k (-120 - e2 / 2) (k * k * m2 != 2 ^ 240)).1

/-! ## Acceptance (R253 to R255) -/

/-- What the push finds at its record's address (R254). -/
inductive SvSend where
  | fault (cls : Nat)
  | badRec
  | lead (hub pa : Nat)
  | waits
deriving DecidableEq, Repr
/-- Translate the record's address through the pushing core. -/
def State.svSend (s : State) (e : ECmd) : State × SvSend :=
  let a := e.w 0
  if 2 ^ 52 ≤ a then (s, .fault cXLATE)
  else if a < 2 ^ 32 then (s, .badRec)
  else
    match s.lookup e.core e.cont a false with
    | (s, .error n) => (s, if n = 0 then .waits else .fault cXLATE)
    | (s, .ok t) =>
      let pa := s.moved (t.target + (a - t.vbase * 2 ^ 16)) 16
      if !t.rd then (s, .fault cPERM)
      else if s.frameHeld pa then (s, .waits)
      else
        match hbmFrame pa with
        | some (h, _) => (s, .lead h pa)
        | none => (s, .badRec)
/-- Deliver a command's result without a hub; none while it has to wait. -/
def State.svRefuse (s : State) (c : Nat) (e : ECmd) (rest : List ECmd) (status : Nat) : Option State :=
  let n := svResultWords e.op
  let u := s.setCore c { s.core c with qi := fset (s.core c).qi 3 rest }
  ({ u with free := u.free + n }).deliverResult 3 (e.entry status (s.openWords n)) false
/-- Accept a command at a hub: it takes the next place in the order (R254). -/
def State.svEnter (s : State) (h : Nat) (m : SvCmd) : State :=
  { s.setHub h { s.hub h with svq := (s.hub h).svq ++ [{ m with ord := s.nextUid }] } with nextUid := s.nextUid + 1 }
/-- The next command of a core's `qi.sv` is sent to its lead hub and accepted, or completes with SVBODY, SVREC, or SVFLT after an abort
(R253 to R255). -/
def State.svAccept (s : State) (c : Nat) : State :=
  match fget [] (s.core c).qi 3 with
  | [] => s
  | e :: rest =>
    match e.result with
    | some (st, _) => (s.svRefuse c e rest st).getD s
    | none =>
      if e.faulted then s
      else if e.body.length ≠ svWords e.op then (s.svRefuse c e rest 5).getD s
      else
        match s.svSend e with
        | (u, .fault cls) =>
          let u := u.setCore c { u.core c with qi := fset (u.core c).qi 3 ({ e with faulted := true } :: rest) }
          let r : FaultRec := { addr := e.w 0, pc := e.pc, seq := e.seq, lnch := launchWord e.launch, core := e.core, slot := e.slot,
                                stage := e.s.kstage.toNat % 16, cls := cls, opnd := 1, unit := 7 }
          let u := if e.retried then u.countRefault c else u
          (u.postFault (svcIndex c) r e.uid e.launch (.engine 3 e.seq)).1
        | (_, .waits) => s
        | (u, .badRec) => (u.svRefuse c e rest 1).getD s
        | (u, .lead h pa) =>
          let n := u.mem.nat pa 32
          let r := svRecOf n
          if e.w 0 % 32 ≠ 0 ∨ r.bad ∨ r.hubs.headD 24 ≠ h ∨ r.rank0 ≠ s.rank then (u.svRefuse c e rest 1).getD s
          else
            (u.setCore c { u.core c with qi := fset (u.core c).qi 3 rest }).svEnter h
              { hdr := e.hdr, body := e.body, core := c, slot := e.slot, uid := e.uid, pc := e.pc, launch := e.launch,
                cont := e.cont, mapid := r.mapid, record := BitVec.ofNat 256 n, stage := e.s.kstage.toNat % 16 }
/-- A command that the lead hub of another device has accepted reaches hubs[0] here (R254): header v and body words in the record, pushed
by slot t of core q there. Its addresses are translated as core q of this device would, in container k (DESIGN CHOICE, assumption 105);
a vector that this device does not belong to has no hub here. -/
def State.svFar (s : State) : State :=
  let e : ECmd := { hdr := s.ev.v, body := ((List.range 8).map (fun k => s.ev.data.extractLsb' (64 * k) 64)).take (svWords (s.ev.v.toNat / 2 ^ 57)),
                    slot := s.ev.t, uid := 0, pc := 0, launch := none, cont := s.ev.k, s := {} }
  match s.lookup s.ev.q e.cont (e.w 0) false with
  | (_, .error _) => s
  | (u, .ok t) =>
    let pa := u.moved (t.target + (e.w 0 - t.vbase * 2 ^ 16)) 16
    let n := u.mem.nat pa 32
    let r := svRecOf n
    match hbmFrame pa with
    | some (h, _) =>
      if e.w 0 % 32 ≠ 0 ∨ r.bad ∨ r.hubs.headD 24 ≠ h ∨ s.rank ≤ r.rank0 ∨ r.rank0 + 2 ^ r.d ≤ s.rank then s
      else u.svEnter h { hdr := e.hdr, body := e.body, core := s.ev.q, slot := e.slot, uid := 0, pc := 0, launch := none, cont := e.cont,
                         mapid := r.mapid, record := BitVec.ofNat 256 n, far := true }
    | none => s
/-- SPINDLE_ACCEPT at core q (R253 to R255): the next command of `qi.sv` goes to its lead hub; with `on`, a command comes from the lead
hub of another device. -/
def execSpindleAccept (s : State) : Res := .next (if s.ev.on then s.svFar else s.svAccept s.ev.q)

/-! ## Start (R254, R255) -/

/-- Change a command of a lead hub. -/
def State.setSv (s : State) (h k : Nat) (m : SvCmd) : State := s.setHub h { s.hub h with svq := (s.hub h).svq.set k m }
/-- A command is complete with a status and body. -/
def State.svDone (s : State) (h k : Nat) (m : SvCmd) (st : Nat) (b : List Word) : State := s.setSv h k { m with result := some (st, b) }
/-- A command completes with words the spec leaves open. -/
def State.svOpen (s : State) (h k : Nat) (m : SvCmd) (st : Nat) : State :=
  let n := svResultWords m.op
  { s.svDone h k m st (s.openWords n) with free := s.free + n }
/-- Two commands share a hub. -/
def SvCmd.meets (m o : SvCmd) : Bool := m.svrec.hubs.any (fun h => o.svrec.hubs.contains h)
/-- Commands of one lead hub, those saved by launch halts among them (R264). -/
def State.svAccepted (s : State) (h : Nat) : List SvCmd :=
  (s.hub h).svq ++ s.halts.flatMap (fun x => (x.sv.filter (fun p => p.1 == h)).map (fun p => p.2))
/-- A command may start, or go on after a halt (R254, R262): a hub runs one at a time, and those of one map entry run in the order in
which they were accepted. -/
def State.svFree (s : State) (h : Nat) (m : SvCmd) : Bool :=
  !s.hubs.any (fun x => x.2.svq.any (fun o => o.active && o.result.isNone && o.ord != m.ord && o.meets m)) &&
  (s.svAccepted h).all (fun o => o.result.isSome || o.mapid != m.mapid || decide (m.ord ≤ o.ord))
/-- The region's pages as physical bases (R260). An error is true when one is not an HBM page of its hub, false while a walk is held. -/
def State.regionPages (s : State) (m : SvCmd) (r : SvRec) (slot left : Nat) (i : Nat) : Except Bool (List Nat) :=
  match left with
  | 0 => .ok []
  | left + 1 =>
    let a := r.vbase + slot * 2 ^ r.rsh + i * 2 ^ 16
    if 2 ^ 52 ≤ a ∨ a < 2 ^ 32 then .error true
    else
      match (s.lookup m.core m.cont a false).2 with
      | .error n => .error (n != 0)
      | .ok t =>
        let pa := t.target + (a - t.vbase * 2 ^ 16)
        match hbmFrame pa with
        | some (h, _) =>
          if h = r.hubs.getD slot 24 then
            match s.regionPages m r slot left (i + 1) with
            | .ok l => .ok (pa :: l)
            | .error e => .error e
          else .error true
        | none => .error true
/-- Pages of 64 KiB in a region. -/
def SvRec.pageCount (r : SvRec) : Nat := (2 ^ (r.l + 3) + 65535) / 65536
/-- Every region's pages. -/
def State.allPages (s : State) (m : SvCmd) (r : SvRec) (ks : List Nat) : Except Bool (List (List Nat)) :=
  match ks with
  | [] => .ok []
  | k :: rest =>
    match s.regionPages m r k r.pageCount 0 with
    | .error e => .error e
    | .ok p =>
      match s.allPages m r rest with
      | .ok l => .ok (p :: l)
      | .error e => .error e
/-- Bits of W1 that a command names (R253). -/
def svNamed (op : Nat) : Nat :=
  match op with
  | 0x60 | 0x63 => 0x3F
  | 0x61 | 0x65 => 0x3F3F
  | 0x62 => 0x3F3F3F
  | 0x64 => 0x33F3F3F
  | 0x68 => 1
  | _ => 2 ^ 64 - 1
/-- SVQB of the fields of a command on `n` qubits (R255). -/
def SvCmd.badQubits (m : SvCmd) (n : Nat) : Bool :=
  let w1 := m.w 1
  let ts := m.targets
  let named := if m.op = 0x65 then [bitsN w1 5 0, bitsN w1 13 8] else ts
  let mask := if m.op = 0x63 then m.w 3 else if m.op = 0x67 then w1 else 0
  let val := if m.op = 0x63 then m.w 4 else if m.op = 0x67 then m.w 2 else 0
  let k := bitsN w1 25 24
  decide (w1 ≠ w1 &&& svNamed m.op) || named.any (fun t => decide (n ≤ t)) || decide (ts.eraseDups.length < ts.length) ||
    (m.op == 0x64 && (k == 0 || (List.range' k (3 - k)).any (fun i => bitsN w1 (8 * i + 5) (8 * i) != 0))) ||
    decide (2 ^ n ≤ mask) || ts.any (fun t => mask.testBit t) || decide (val ≠ val &&& mask) ||
    (m.op == 0x69 && decide (2 ^ n ≤ w1))
/-- Bytes a command reads at its start and where (R253): none for the commands without an operand in memory. -/
def SvCmd.operand (m : SvCmd) : Option (Nat × Nat) :=
  match m.op with
  | 0x60 => some (m.w 2, 32)
  | 0x61 => some (m.w 2, 128)
  | 0x62 => some (m.w 2, 512)
  | 0x63 => some (m.w 2, 32)
  | 0x64 => some (m.w 2, 8 * 2 ^ bitsN (m.w 1) 25 24)
  | 0x66 => some (m.w 1, 64)
  | _ => none
/-- Read the operand: its bytes, none for SVMEM; it waits for a held frame. -/
def State.svOperand (s : State) (m : SvCmd) : State × Except Bool (List Byte) :=
  match m.operand with
  | none => (s, .ok [])
  | some (a, n) =>
    if a % 8 ≠ 0 ∨ 2 ^ 52 < a + n then (s, .error true)
    else
      match s.readRun m.who a n 8 (n / 8 + 1) with
      | (s, .ok l) => (s, .ok l)
      | (s, .error (.fault _ _)) => (s, .error true)
      | (s, .error _) => (s, .error false)
/-- A target map is a permutation of the qubits with 0xFF above (R255). -/
def targetMapOk (n : Nat) (l : List Byte) : Bool :=
  (List.range n).all (fun q => (l.take n).any (fun b => b.toNat == q)) && (l.drop n).all (fun b => b == 0xFF)
/-- The 64-bit words of bytes. -/
def wordsOf (n : Nat) (l : List Byte) : List Word := (List.range n).map (fun k => BitVec.ofNat 64 (leNat ((l.drop (8 * k)).take 8)))
/-- A memory error or a lost link stops command k of lead hub `h` at its last commit, and hub `q` posts SVFAULT (R266, R350). -/
def State.svFail (s : State) (h k : Nat) (m : SvCmd) (q : Nat) : State :=
  let r := m.svrec
  let slot := ((List.range r.hubs.length).find? (fun i => r.hubs.getD i 24 == q)).getD 0
  let f : FaultRec := { addr := r.vbase + slot * 2 ^ r.rsh, pc := m.pc, seq := m.hdr.toNat % 2 ^ 32, elem := m.chunk,
                        lnch := launchWord m.launch, core := m.core, slot := m.slot, stage := m.stage, cls := cSVFAULT, opnd := 4,
                        unit := 7, aux := q }
  let s := s.setSv h k { m with halted := true }
  let s := if m.retried then s.countRefault m.core else s
  (s.postFault (128 + h) f m.uid m.launch (.spindle h)).1
/-- Start a command (R255): the first check that fails completes it; then a lost link to a device of the vector stops it, unless a reply has
it pass its next chunk (R266, R354); those that move no amplitude are done at once. -/
def State.svStart (s : State) (h k : Nat) (m : SvCmd) : State :=
  let r := m.svrec
  let map := s.svMap h m.mapid
  match if m.op = 0x69 then s.allPages m r (List.range r.hubs.length) else .ok [] with
  | .error false => s
  | .error true => s.svOpen h k m 1
  | .ok pages =>
    if m.badQubits r.n then s.svOpen h k m 2
    else
      match s.svOperand m with
      | (_, .error false) => s
      | (u, .error true) => u.svOpen h k m 3
      | (u, .ok l) =>
        if m.op = 0x66 ∧ targetMapOk r.n l = false then u.svOpen h k m 2
        else if m.op ≠ 0x69 ∧ (map.valid = false ∨ map.recAddr ≠ m.w 0 ∨ map.map.length ≠ r.n) then u.svOpen h k m 4
        else if u.svReached r = false && !m.passes then u.svFail h k m h
        else
          let m := { m with started := true, active := true, retried := false }
          match m.op with
          | 0x65 =>
            let a := map.map.getD (bitsN (m.w 1) 5 0) 0
            let b := map.map.getD (bitsN (m.w 1) 13 8) 0
            (u.setMaps r.hubs m.mapid (fun x => { x with map := mapSwap x.map a b })).svDone h k m 0 [0]
          | 0x6A => u.svDone h k m 0 [0]
          | 0x66 => u.setSv h k { m with phase := 4, pidx := r.n - 1, data := l.map (fun b => BitVec.ofNat 64 b.toNat) }
          | 0x67 | 0x68 => u.setSv h k { m with phase := 5 }
          | 0x69 =>
            (u.setMaps r.hubs m.mapid (fun _ => { valid := true, map := List.range r.n, recAddr := m.w 0, pages := pages })).setSv h k
              { m with phase := 3 }
          | _ => u.setSv h k { m with phase := if m.exchanged.isEmpty then 3 else 0, data := wordsOf (l.length / 8) l }

/-! ## Chunks (R256 to R261) -/

/-- One chunk of a swap committed; after the last one every replica of the map changes, and `next` is the command from there. -/
def State.svSwap (s : State) (h k : Nat) (m next : SvCmd) (a b : Nat) : State :=
  let r := m.svrec
  let u := s.swapChunk r (s.svMap h m.mapid).pages a b m.chunk
  if m.chunk + 1 < chunksOf (r.swapCount a b) then u.setSv h k { m with chunk := m.chunk + 1 }
  else (u.setMaps r.hubs m.mapid (fun x => { x with map := mapSwap x.map a b })).setSv h k
    { next with chunk := 0, count := m.count + 1 }
/-- One chunk of the local phase in every region. -/
def State.svLocal (s : State) (h k : Nat) (m : SvCmd) : State :=
  let r := m.svrec
  let x := s.svMap h m.mapid
  let u := (List.range (2 ^ (r.s + r.d))).foldl (fun s g =>
    (chunkItems (m.items r) m.chunk).foldl (fun s j => s.svItem m r x.map x.pages g j) s) s
  if m.chunk + 1 < chunksOf (m.items r) then u.setSv h k { m with chunk := m.chunk + 1 }
  else
    match m.op with
    | 0x69 => u.svDone h k m 0 [0]
    | 0x68 => u.svDone h k m 0 (m.data.drop 1)
    | _ => u.svDone h k m 0 [BitVec.ofNat 64 m.count]
/-- The p of R260 at which a permutation has work, from `p` down. -/
def permNext (map target : List Nat) (p : Nat) : Option Nat :=
  ((List.range (p + 1)).reverse).find? (fun i => map.getD (qubitAt target i) 0 != i)
/-- One chunk of the summation in every region; after the last, the result or, for `sv.norm` with scale, the factor the local phase
applies (R261). -/
def State.svSum (s : State) (h k : Nat) (m : SvCmd) : State :=
  let r := m.svrec
  let x := s.svMap h m.mapid
  let old := if m.chunk = 0 then List.replicate (2 ^ (r.s + r.d)) 0 else m.sums
  let sums := (old.zip (List.range (2 ^ (r.s + r.d)))).map (fun p => s.regionSum m r x.map x.pages p.2 p.1)
  let t := r.total sums
  let w0 := BitVec.ofNat 64 t
  if m.chunk + 1 < chunksOf (2 ^ r.l) then s.setSv h k { m with chunk := m.chunk + 1, sums := sums }
  else if m.op = 0x67 then s.svDone h k m 0 [w0, BitVec.ofNat 64 (toFp32 t)]
  else
    let scale := m.w 1 % 2 = 1
    let f := if scale then rsqTotal t else 0
    let body := [w0, BitVec.ofNat 64 (toFp32 t * 2 ^ 32 + f)]
    if scale ∧ t ≠ 0 then s.setSv h k { m with phase := 3, chunk := 0, data := BitVec.ofNat 64 f :: body }
    else s.svDone h k m 0 body
/-- The next commit of a started command. -/
def State.svChunk (s : State) (h k : Nat) (m : SvCmd) : State :=
  let r := m.svrec
  let map := (s.svMap h m.mapid).map
  if m.phase ≤ 2 then
    match m.exchanged[m.phase]? with
    | none => s.svLocal h k { m with phase := 3, chunk := 0 }
    | some q =>
      let g := map.getD q 0
      let next := { m with phase := if m.phase + 1 < m.exchanged.length then m.phase + 1 else 3 }
      if g < r.l then s.setSv h k next
      else s.svSwap h k m next g (exchangeTo r.l (m.targets.map (fun t => map.getD t 0)))
  else if m.phase = 3 then s.svLocal h k m
  else if m.phase = 4 then
    let target := m.data.map (fun w => w.toNat)
    match permNext map (target.take r.n) m.pidx with
    | none => s.svDone h k m 0 [BitVec.ofNat 64 m.count]
    | some p => s.svSwap h k { m with pidx := p } { m with pidx := p - 1 } (map.getD (qubitAt (target.take r.n) p) 0) p
  else s.svSum h k m
/-- CHUNK_COMMIT for command k of lead hub f (R254 to R261): it starts when its turn comes, then commits its next chunk; a lost link to
a device of the vector stops it (R266), and a chunk that a skip reply has it pass changes no amplitude (R354). -/
def execChunkCommit (s : State) : Res :=
  let h := s.ev.f
  let k := s.ev.k
  .next (match (s.hub h).svq[k]? with
  | none => s
  | some m =>
    if m.result.isSome || m.halted || s.haltingOf m.launch || !(m.active || s.svFree h m) then s
    else if m.started = false then s.svStart h k m
    else
      let m' := { m with active := true, retried := false, passes := false }
      if m.passes then { s.svChunk h k m' with mem := s.mem }
      else if s.svReached m.svrec = false then s.svFail h k m h
      else s.svChunk h k m')
/-- The result entry of a command. -/
def SvCmd.entry (m : SvCmd) (st : Nat) (b : List Word) : QoEntry :=
  ({ hdr := m.hdr, body := m.body, slot := m.slot, uid := m.uid, pc := m.pc, launch := m.launch, cont := m.cont, s := {} } : ECmd).entry st b
/-- SPINDLE_COMPLETE for command k of lead hub f (R263): its result is sent; that of a command led elsewhere is sent there. -/
def execSpindleComplete (s : State) : Res :=
  let h := s.ev.f
  let x := s.hub h
  .next (match x.svq[s.ev.k]? with
  | some m =>
    match m.result with
    | some (st, b) =>
      let u := s.setHub h { x with svq := dropAt x.svq s.ev.k }
      if m.far then u else (u.deliverResult 3 (m.entry st b) false).getD s
    | none => s
  | none => s)
/-- SVFAULT at hub q during command k of lead hub f (R266): the command halts at its last commit, and the fault is posted. -/
def execSvfault (s : State) : Res :=
  let h := s.ev.f
  .next (match (s.hub h).svq[s.ev.k]? with
  | none => s
  | some m =>
    if !m.active || m.halted || m.result.isSome || !m.svrec.hubs.contains s.ev.q then s
    else s.svFail h s.ev.k m s.ev.q)
/-- Every Spindle command that runs at a hub meets a memory error there (R266). -/
def State.svHubError (s : State) (q : Nat) : State :=
  s.hubs.foldl (fun s x => (List.range x.2.svq.length).foldl (fun s k =>
    match (s.hub x.1).svq[k]? with
    | some m => if m.active && !m.halted && m.result.isNone && m.svrec.hubs.contains q then s.svFail x.1 k m q else s
    | none => s) s) s
/-- MEMORY_ERROR at object k of kind t (R345): corrected, or with `on` not corrected; a Spindle command at a stack hub stops at one that
is not corrected (R266). -/
def execMemoryError (s : State) : Res :=
  let lim := match s.ev.t with
    | 0 => 2240
    | 1 => 12
    | 2 => 24
    | _ => 0
  let q := s.ev.k
  .next (if q < lim then
      let u := s.lifeAdd s.ev.t q (if s.ev.on then 1 else 0)
      if s.ev.on && s.ev.t == 2 then u.svHubError q else u
    else s)

end Sys2Proof.Machine
end

