-- ==== Sys2Proof/Machine/Waits.lean ====
section
/-! DEFINITION. Results that arrive and accesses that are held (R102, R232, R234, R245, R247): landing, the waits of versioned
forms, a held access performed again, its fault record, acknowledgements. -/

namespace Sys2Proof.Machine

/-- LONG_LATENCY_WRITE (R102, R103, R210): result k of slot t of core q lands when its window has run out; with `on`, the envelopes
of core q that are due are renamed. -/
def execLongLatencyWrite (s : State) : Res :=
  let c := s.ev.q
  let t := s.ev.t
  let x := s.core c
  .next (if s.ev.on then s.setCore c x.landEnvs
    else
      match (x.thr t).outs[s.ev.k]? with
      | some o =>
        if o.wait == .ready && o.look == 0 then
          let x := x.landRegs t o.regs o.val
          s.setCore c (x.setThr t { x.thr t with outs := dropAt (x.thr t).outs s.ev.k })
        else s
      | none => s)
/-- STORE_ACKNOWLEDGEMENT k (R245): the store is then visible to every thread. With `on`, the byte of hidden store k becomes visible to
the thread in slot t of core q (R272). -/
def execStoreAcknowledgement (s : State) : Res :=
  .next (if s.ev.on then
      match s.hidden[s.ev.k]? with
      | some x => s.reveal (s.thr s.ev.q s.ev.t).uid x.pa 1
      | none => s
    else { s with acks := dropAt s.acks s.ev.k
                  hidden := match s.acks[s.ev.k]? with
                    | some a => s.hidden.filter (fun x => !(x.writer == a.1 && x.ack == a.2))
                    | none => s.hidden })

/-! ## Held accesses (R247) -/

/-- The unit that reports a fault of an access (R350). -/
def Access.unit (a : Access) : Nat :=
  match a with
  | .ldv _ _ _ _ _ _ _ | .stv _ _ _ _ _ _ _ => 6
  | .eld _ _ _ _ | .est _ _ _ => 5
  | _ => 0
/-- The position of a vector access, for the record's element field (R350). -/
def Access.elem (a : Access) : Nat :=
  match a with
  | .ldv _ p _ _ _ _ _ | .stv _ p _ _ _ _ _ => p
  | _ => 0
/-- The results of a slot's thread that its held access fills arrive, or are dropped when there is no value for them; the header
of a `recv` is there already. The position register of an advance form receives `adv` (R166). -/
def Thread.fillHeld (t : Thread) (v : Option OutVal) (adv : Option (Nat × Word) := none) : Thread :=
  { t with held := none, rowCopy := none, retried := false,
           outs := t.outs.filterMap (fun o =>
             if o.wait != .held then some o
             else if o.val != .words [] then some { o with wait := .ready }
             else match adv with
               | some (r, p) => if o.regs == [.g r] then some { o with wait := .ready, val := .words [p] }
                                else v.map (fun w => { o with wait := .ready, val := w })
               | none => v.map (fun w => { o with wait := .ready, val := w })) }
/-- The position an advance form gives its register: `m` units on. -/
def Access.advTo (a : Access) (m : Nat) : Option (Nat × Word) :=
  match a with
  | .ldv _ p _ _ _ _ (some r) => some (r, BitVec.ofNat 64 (p + m))
  | .stv _ p _ _ _ _ (some r) => some (r, BitVec.ofNat 64 (p + m))
  | _ => none
/-- What a performed access of a slot's thread leaves (R166, R218, R288). -/
def State.finishAccess (s : State) (c t : Nat) (a : Access) (r : AccRes) : State :=
  let th := s.thr c t
  match r with
  | .words ws => s.setThr c t (th.fillHeld (some (.words ws)))
  | .vecs vs m => s.setThr c t (th.fillHeld (some (.vecs vs)) (a.advTo m))
  | .stored m => s.setThr c t (th.fillHeld none (a.advTo m))
  | .bytes l =>
    let s := s.setThr c t (th.fillHeld none)
    match a with
    | .payload uid _ n => s.setCore c ((s.core c).setPayload uid (flitsOf n l))
    | .eld _ d q look =>
      let cur := s.cur
      let u := { s with cur := { core := c, slot := t, addr := BitVec.ofNat 64 th.heldPc } }
      let u := u.rindPush (.eld (Fin.ofNat 4 d) 0 (Fin.ofNat 16 look)) q [] [] l
      { u with cur := cur }
    | _ => s
  | .waits =>
    match a with
    | .ldx ea v _ _ =>
      s.setThr c t { th with held := none,
                             outs := th.outs.map (fun o => if o.wait == .held then
                               { o with wait := .ldx ea v s.cycle (s.core c).kvwait.toNat } else o) }
    | _ => s
  | .stalls p => if s.stalls.any (fun y => y.2.1 == th.uid) then s else { s with stalls := s.stalls ++ [(p, th.uid, s.cycle)] }
  | .shapeRec ra p =>
    let s := s.setThr c t (th.fillHeld none)
    s.late c t th.uid a.seq cSHAPEREC 5 ra p 0 6 th.launch
  | _ => s
/-- Post the fault message of a held access; the thread blocks on its mailbox. A fault after a retry reply is a refault
(R247, R337). -/
def State.postAccess (s : State) (c t : Nat) (a : Access) (cls ea : Nat) : State :=
  let th := s.thr c t
  let r : FaultRec := { recFor c t th th.heldPc with addr := ea, seq := a.seq, elem := a.elem, cls := cls, opnd := 1, unit := a.unit }
  let s := if th.retried then s.countRefault c else s
  let (s, rid) := s.postFault (svcIndex c) r th.uid th.launch .access
  s.mailbox c t th.uid rid
/-- Try the held access of a slot's thread again: what it meets now. -/
def State.retryHeld (s : State) (c t : Nat) (a : Access) : State :=
  let th := s.thr c t
  match s.tryAccess ⟨c, th.cont, th.uid⟩ a with
  | (u, .fault cls ea) => u.postAccess c t a cls ea
  | (_, .held) => s
  | (u, r) => u.finishAccess c t a r
/-- A versioned load whose version the floor has passed is no longer waiting: it is held with its fault (R232, R235). -/
def State.goneLdx (s : State) (c t : Nat) : Option State :=
  let th := s.thr c t
  match th.outs.find? (fun o => match o.wait with
    | .ldx ea v _ _ => (match s.copyAt c th.cont ea with
        | some a => decide (v < (s.line a).f)
        | none => false)
    | _ => false) with
  | some o => match o.wait with
    | .ldx ea v _ _ =>
      some (s.setThr c t { th with held := some (.ldx ea v o.regs o.look),
                                   outs := th.outs.map (fun p => if p.id == o.id then { p with wait := .held } else p) })
    | _ => none
  | none => none
/-- An access of the instruction at position `k` among those a context has left for later, its part `j`, comes after another one that is
not performed yet: of an earlier instruction, or of its own (R167, R229, R270, R271). -/
def State.partWaits (s : State) (w : Who) (l : List Deferred) (k j : Nat) : Bool :=
  match l[k]? with
  | none => true
  | some d =>
    match d.parts[j]? with
    | none => true
    | some p => s.mustFollow w (l.take k) d.rd d.wr [p] ||
        (d.parts.take j).any (fun q => s.keepsOrder w d.rd d.wr q d.rd d.wr p)
/-- The value of a result that an instruction left for later has waited for arrives. -/
def Thread.deliver (t : Thread) (d : Deferred) (got : List (Nat × Nat)) : Thread :=
  { t with outs := t.outs.map (fun o => if o.id == d.out && o.wait == .access then
      { o with wait := .ready, val := d.acc.gathered got } else o) }
/-- Perform part `j` of the instruction a slot's thread has left for later at position `k`, if no other access must come first (R270,
R271). The oldest instruction may be found to fault or be held: it is then the thread's held access, performed again from its start
(R247). -/
def State.performAt (s : State) (c t k j : Nat) : State :=
  let th := s.thr c t
  let w : Who := ⟨c, th.cont, th.uid⟩
  match th.deferred[k]? with
  | none => s
  | some d =>
    match d.parts[j]? with
    | none => s
    | some p =>
      if th.live = false || th.held.isSome || s.partWaits w th.deferred k j then s
      else
        match s.tryPart w d.acc p with
        | (u, .ok n) =>
          let u := if d.wr && !d.rd then s.hideFrom u w d.rel p else u
          let th := u.thr c t
          let d := { d with parts := dropAt d.parts j, got := if d.rd then d.got ++ [(p.lane, n)] else d.got }
          if d.parts.isEmpty then u.setThr c t { th.deliver d d.got with deferred := dropAt th.deferred k }
          else u.setThr c t { th with deferred := th.deferred.set k d }
        | (_, .error _) =>
          if k = 0 then
            s.setThr c t { th with deferred := th.deferred.tail, held := some d.acc, heldPc := d.pc, retried := false,
                                   outs := th.outs.map (fun o => if o.id == d.out && o.wait == .access then { o with wait := .held } else o) }
          else s
/-- ACCESS_FAULT at slot t of core q (R247): the held access is found to fault and its record is posted; one that no longer faults
is performed. With `on`, part f of the instruction left for later at position k is performed (R271). -/
def execAccessFault (s : State) : Res :=
  let c := s.ev.q
  let t := s.ev.t
  let th := s.thr c t
  let stuck := s.stalls.any (fun y => y.2.1 == th.uid) || s.flts.any (fun f => f.uid == th.uid && f.resume == .access)
  .next (if !th.live then s
    else if s.ev.on then s.performAt c t s.ev.k s.ev.f
    else if stuck then s
    else
      match th.held with
      | some a => s.retryHeld c t a
      | none =>
        match s.goneLdx c t with
        | some u => match (u.thr c t).held with
          | some a => u.retryHeld c t a
          | none => s
        | none => s)
/-- VERWAIT at slot t of core q (R132, R232): a versioned load has waited as many cycles as `kvwait` said when it started. -/
def execVerwait (s : State) : Res :=
  let c := s.ev.q
  let t := s.ev.t
  let th := s.thr c t
  .next (match th.outs.find? (fun o => match o.wait with
    | .ldx _ _ st k => k != 0 && decide (st + k ≤ s.cycle)
    | _ => false) with
  | some o => match o.wait with
    | .ldx ea v _ _ =>
      let a : Access := .ldx ea v o.regs o.look
      let s := s.setThr c t { th with held := some a,
                                      outs := th.outs.map (fun p => if p.id == o.id then { p with wait := .held } else p) }
      s.postAccess c t a cVERWAIT ea
    | _ => s
  | none => s)
/-- SHADOWFULL at slot t of core q (R234): a versioned store has stalled `kvwait` cycles. -/
def execShadowfull (s : State) : Res :=
  let c := s.ev.q
  let t := s.ev.t
  let th := s.thr c t
  let k := (s.core c).kvwait.toNat
  .next (match s.stalls.find? (fun y => y.2.1 == th.uid && th.live), th.held with
  | some y, some a =>
    if k != 0 && decide (y.2.2 + k ≤ s.cycle) then
      match a with
      | .stx ea _ _ => ({ s with stalls := s.stalls.erase y }).postAccess c t a cSHADOWFULL ea
      | _ => s
    else s
  | _, _ => s)

end Sys2Proof.Machine
end

