-- ==== Sys2Proof/Machine/Faults.lean ====
section
/-! DEFINITION. Fault records on their way and the replies to them (R344, R351 to R355): arrival at a service core, posting again,
and what each reply code does to what waits. -/

namespace Sys2Proof.Machine

/-! ## Records (R344, R351, R352) -/

/-- FAULT_RECORD_ARRIVAL of network message k (R344, R351): into the lowest empty slot, into the overflow store, or discarded
when its generation is not the core's. Without room it waits at the router, ahead of later messages (R285). -/
def execFaultRecordArrival (s : State) : Res :=
  .next (match s.arriving with
  | none => s.turnedAway
  | some m =>
    match m.sys with
    | .faultRecord r =>
      let c := m.dst
      let x := s.core c
      let u := s.unNet m.uid
      if r.gen ≠ x.gen then u.setCore c { u.core c with discarded := sat32 x.discarded }
      else
        match if x.spillFlt.isEmpty then s.fltSlot c else none with
        | some k => u.putRecord c k r
        | none => if s.spillRoom c (storeBytes 64) then u.setCore c { u.core c with spillFlt := x.spillFlt ++ [r] } else s.atDoor m
    | _ => s)
/-- A fault is of an access that has already received a retry reply (R337). -/
def State.isRefault (s : State) (w : FaultWait) : Bool :=
  let ths := s.threads.map (fun x => x.2.2) ++ s.away
  match w.resume with
  | .access => ths.any (fun t => t.uid == w.uid && t.retried)
  | .fetch => ths.any (fun t => t.uid == w.uid && t.refetch)
  | .engine f q => (fget [] (s.core w.frec.core).qi f ++ s.running w.frec.core f).any (fun e => e.seq == q && e.faulted && e.retried)
  | .matrix => s.cores.any (fun x => match x.2.mrun with
      | some m => m.faulted && m.retried && m.seq == w.frec.seq && m.core == w.frec.core
      | none => false)
  | .spindle h => ((s.hub h).svq ++ s.halts.flatMap (fun x => x.sv.map (fun p => p.2))).any (fun m =>
      m.halted && m.retried && m.core == w.frec.core && m.hdr.toNat % 2 ^ 32 == w.frec.seq)
  | _ => false
/-- FAULT_REPOST of waiting fault k (R352): after `dc.fltto` cycles without a reply the record is posted again, stamped with the
generation the poster reads. -/
def execFaultRepost (s : State) : Res :=
  .next (match s.flts[s.ev.k]? with
  | none => s
  | some w =>
    let c := w.frec.core
    let n := (s.die (dieOf c)).fltto
    if n = 0 ∨ s.cycle < w.postedAt + n then s
    else
      let g := (s.core w.svc).gen
      let r := { w.frec with gen := g }
      let s := s.setCore c { s.core c with learned := fset (s.core c).learned w.svc g }
      let s := if s.isRefault w then s.countRefault c else s
      let s := s.sysMsg 8 c w.svc 0 (.faultRecord r)
      { s with flts := s.flts.set s.ev.k { w with frec := r, postedAt := s.cycle } })

/-! ## Going on (R354) -/

/-- A fault has been answered: it waits no longer. -/
def State.answered (s : State) (w : FaultWait) : State := { s with flts := s.flts.erase w }
/-- The thread of a context goes on, unless another of its faults awaits its reply. -/
def State.unblock (s : State) (uid : Nat) : State :=
  match s.findUid uid with
  | none => s
  | some (c, t) =>
    let th := s.thr c t
    match th.blk with
    | .mailbox _ =>
      s.setThr c t (match s.flts.find? (fun f => f.uid == uid && f.resume.blocks) with
        | some f => { th with blk := .mailbox f.frec.rid }
        | none => { th with blk := .none, readyAt := s.cycle })
    | .none => if s.onMailbox uid then s else s.setThr c t { th with readyAt := s.cycle }
    | _ => s
/-- The thread of a context continues at the next group, with its gang (R354). -/
def State.skipGroup (s : State) (uid pc : Nat) : State :=
  match s.findUid uid with
  | none => s
  | some (c, t) =>
    match (s.thr c t).gang with
    | none => s.setThr c t { s.thr c t with pc := (s.thr c t).pc + 8, refetch := false }
    | some _ => (s.members c t).foldl (fun u m =>
        u.setThr m.1 m.2 { u.thr m.1 m.2 with pc := BitVec.ofNat 64 (pc + 8), refetch := false }) s
/-- The safe-point count that SAFEOVD reached is 0 again (R354). -/
def State.resetSafe (s : State) (uid : Nat) : State :=
  match s.findUid uid with
  | none => s
  | some (c, t) => s.setThr c t { s.thr c t with safeCount := 0 }
/-- Contain what the fault belongs to (R354, R359). -/
def State.containFault (s : State) (w : FaultWait) : State := (s.answered w).endContext w.uid w.launch

/-! ## Groups and late instructions -/

/-- A reply to a precise fault or to a fault of a fetch. -/
def State.replyGroup (s : State) (w : FaultWait) (code : Nat) : State :=
  let u := (s.answered w).unblock w.uid
  match code with
  | 1 => if w.frec.cls = cSAFEOVD then u.resetSafe w.uid else if w.resume = .fetch then u.modUid w.uid (fun t => { t with refetch := true }) else u
  | 2 => u.skipGroup w.uid w.frec.pc
  | _ => s.containFault w
/-- The ring entry of a fault is no longer held. -/
def State.unhold (s : State) (c q : Nat) : State :=
  s.setCore c { s.core c with ring := (s.core c).ring.map (fun r => if r.seq == q then { r with faulted := false } else r) }
/-- The context of a ring entry whose thread is gone, for the instruction to run in. -/
def RingEntry.ghost (e : RingEntry) (launch : Option (Nat × Nat)) : Thread :=
  { live := true, uid := e.uid, g := e.g, p := e.p, kvwin := e.kvwin, launch := launch, cont := e.cont }
/-- Run the instruction of a ring entry again (R354, R355); of a thread that has gone, only what the core's units do. None
while it has to wait. -/
def State.againLate (s : State) (c : Nat) (e : RingEntry) (launch : Option (Nat × Nat)) : State × Bool :=
  let there := s.thr c e.slot
  if there.live && there.uid == e.uid then
    match s.retryLate c e with
    | some u => (u, true)
    | none => (s, false)
  else
    match (s.setThr c e.slot (e.ghost launch)).retryLate c { e with lathe := none } with
    | some u => (if there.live then u.setThr c e.slot there else u.setCore c { u.core c with threads := ferase (u.core c).threads e.slot }, true)
    | none => (s, false)
/-- A reply to a late fault; none while the instruction has to wait. -/
def State.replyLate (s : State) (w : FaultWait) (q code : Nat) : Option State :=
  let c := w.frec.core
  match code with
  | 1 =>
    let e := (s.core c).ring.find? (fun r => r.seq == q)
    let u := ((s.answered w).unhold c q).unblock w.uid
    match e with
    | none => some u
    | some e =>
      match u.againLate c e w.launch with
      | (v, true) => some v
      | (_, false) => none
  | 2 => some (((s.answered w).unhold c q).unblock w.uid)
  | _ => some ((s.unhold c q).containFault w)

/-! ## Accesses of a thread -/

/-- Words the spec leaves open, as a flit. -/
def State.openFlit (s : State) (k : Nat) : BitVec 512 := lineOfWords ((List.range 8).map (fun i => Config.freeWord (s.free + 8 * k + i)))
/-- Pass over the held access of a slot's thread (R354): no destination changes; a payload that could not be read travels with
values the spec leaves open. -/
def State.skipHeld (s : State) (c t : Nat) (a : Access) : State :=
  let th := s.thr c t
  let u := s.setThr c t (th.fillHeld none)
  match a with
  | .again _ => u.setThr c t { u.thr c t with pc := BitVec.ofNat 64 (th.heldPc + 8) }
  | .payload uid _ n =>
    { u.setCore c ((u.core c).setPayload uid ((List.range n).map (fun k => s.openFlit k))) with free := u.free + 8 * n }
  | .eld _ _ q _ => u.setCore c { u.core c with envPend := (u.core c).envPend.filter (fun e => e.seq != q) }
  | _ => u
/-- A reply to the fault of a thread's access. -/
def State.replyAccess (s : State) (w : FaultWait) (code : Nat) : State :=
  match s.findUid w.uid with
  | none => s.answered w
  | some (c, t) =>
    let u := (s.answered w).unblock w.uid
    match code, (u.thr c t).held with
    | 1, some a => (u.setThr c t { u.thr c t with retried := true }).retryHeld c t a
    | 1, none => u
    | 2, some a => u.skipHeld c t a
    | 2, none => u
    | _, _ => s.containFault w

/-! ## Engine commands -/

/-- Bytes a command has written so far (R302). -/
def ECmd.written (e : ECmd) : Nat := if e.op = 0x02 then e.pattern.toNat else e.done
/-- The unit of a command that an access could not perform is passed over: its bytes are not written, and a ring slot whose last unit it
was is published, or released, as it is. Rows whose indices could not be read are passed over whole. -/
def State.passUnit (s : State) (e : ECmd) : State × ECmd :=
  let rb := rowBytes e
  let total := rowCount e * rb
  let leave := fun (w : Nat) (full last : Bool) (e' : ECmd) =>
    if ringWord w && last then (s.leaveSlot e w full, { e' with ringPos := none }) else (s, e')
  match e.op with
  | 0x00 =>
    let n := min 64 (e.w 2 - e.done)
    leave (e.w 1) false (decide (e.w 2 ≤ e.done + n)) (e.advance n (e.w 2) (e.w 2))
  | 0x01 | 0x02 =>
    let (w, full, out) := if e.op = 0x01 then (e.w 3, false, total) else (e.w 0, true, e.pattern.toNat)
    if e.idx.length < rowCount e then (s, { e with idx := e.idx ++ List.replicate e.listPiece none })
    else leave w full (decide (rb ≤ e.done % rb + 64)) (e.advance 64 total out)
  | 0x03 => (s, e.advance (min 64 (e.w 2 - e.done)) (e.w 2) (e.w 2))
  | 0x20 =>
    match patternOf e.pattern (e.w 0) with
    | none => (s, e)
    | some r =>
      let left := if e.rest.isEmpty then unitBytes r.fmt else e.rest.length
      let size := s.slotSize e (e.w 1) r.packed
      let n := if ringWord (e.w 1) then min left (size - e.done % size) else left
      let data := if e.rest.isEmpty then List.replicate left 0 else e.rest
      leave (e.w 1) false (decide (size ≤ e.done % size + n) || decide (r.packed ≤ e.done + n))
        { e.advance n r.packed r.packed with rest := data.drop n }
  | _ => (s, e)
/-- A reply to the fault of an engine command (R302, R354); none while it has to wait. A push that the Spindle path could not send
is the head of its FIFO. -/
def State.replyEngine (s : State) (w : FaultWait) (f q code : Nat) : Option State :=
  let c := w.frec.core
  let u := s.answered w
  if f = 3 then
    match fget [] (s.core c).qi 3 with
    | [] => some u
    | e :: rest =>
      let put := fun (e : ECmd) => u.setCore c { u.core c with qi := fset (u.core c).qi 3 (e :: rest) }
      if e.seq ≠ q then some u
      else
        match code with
        | 1 => some (put { e with faulted := false, retried := true })
        | 2 | 3 => some (put { e with faulted := false, result := some (6, []) })
        | _ => some (if w.launch.isSome then s.containFault w else (put { e with faulted := false, result := some (6, []) }).endContext w.uid none)
  else
    let l := s.running c f
    let k := (List.range l.length).find? (fun k => match l[k]? with
      | some e => e.seq == q && e.faulted
      | none => false)
    match k with
    | none => some u
    | some k =>
      match l[k]? with
      | none => some u
      | some e =>
        let ended := u.setRunning c f (l.set k { e with faulted := false, result := some (6, [BitVec.ofNat 64 e.written]) })
        match code with
        | 1 => some (u.setRunning c f (l.set k { e with faulted := false, retried := true }))
        | 2 =>
          let (v, e') := u.passUnit { e with faulted := false }
          some (v.setRunning c f (l.set k e'))
        | 3 => some ended
        | _ => some (if w.launch.isSome then s.containFault w else ended.endContext w.uid none)

/-! ## Matrix commands -/

/-- A row of A, `n` units, whose elements the spec leaves open. -/
def State.openRow (s : State) (fmt n : Nat) : List Nat :=
  if isBfp fmt then (List.range n).map (fun j => (Config.freeWord (s.free + j)).toNat % 2 ^ (8 * unitBytes fmt))
  else (List.range n).map (fun j => (Config.freeWord (s.free + j)).toNat % 2 ^ elemBits fmt)
/-- The running command without the access it could not make (R354): a row of A holds values the spec leaves open, a row to be
stored is passed, a record that could not be read ends the command or its drain. -/
def State.passMatrix (s : State) (c : Nat) (m : MCmd) : State × MCmd :=
  let m := { m with faulted := false, retried := false }
  match m.ins with
  | .mma a _ _ ks _ _ | .mmas a _ _ ks _ _ _ =>
    if m.shapeRec.isEmpty then (s, { m with done := true, stage := [], due := false })
    else if !m.stage.isEmpty then
      (s, if m.epiRec.isEmpty then { m with stage := [] } else { m with stage := m.stage.drop 1 })
    else
      let r := shapeOf m.shapeRec
      let f := m.fetched ++ [s.openRow r.fmt (unitSpan r.fmt m.k (groupLen ((s.core c).accum a.val).pos m.k ks.toNat)).2]
      ({ s with free := s.free + 32 }, { m with fetched := f, row := f.length })
  | .mdrain _ _ _ _ _ => (s, if m.epiRec.isEmpty then { m with done := true } else { m with row := m.row + 1 })
  | _ => (s, { m with done := true })
/-- End the running command at its last completed group: the accumulator's mode is 3 (R188, R354). -/
def State.abortMatrix (s : State) (c : Nat) (m : MCmd) : State :=
  let x := s.core c
  let x := match accOf m.ins with
    | some a => x.setAccum a { x.accum a with mode := 3 }
    | none => x
  let s := s.setCore c { x with mrun := some { m with faulted := false, done := true, stage := [], due := false, waiting := none, remote := none } }
  match m.remote with
  | none => s
  | some (k, q, _) => s.remoteResult m.far k q 6
/-- A reply to the fault of the matrix unit's command (R205, R354). -/
def State.replyMatrix (s : State) (w : FaultWait) (code : Nat) : State :=
  let u := s.answered w
  -- a remote command runs at its target, which the record does not name
  match s.cores.find? (fun x => match x.2.mrun with
    | some m => m.faulted && m.seq == w.frec.seq && m.core == w.frec.core
    | none => false) with
  | none => u
  | some (c, x) =>
    match x.mrun with
    | none => u
    | some m =>
      match code with
      | 1 => u.setCore c { u.core c with mrun := some { m with faulted := false, retried := true } }
      | 2 =>
        let (v, m') := u.passMatrix c m
        v.setCore c { v.core c with mrun := some m' }
      | 3 => u.abortMatrix c m
      | _ => if w.launch.isSome then s.containFault w else (u.abortMatrix c m).endContext w.uid none

/-! ## Spindle commands and absent contexts -/

/-- The command that a Spindle's fault belongs to. -/
def SvCmd.faultedBy (m : SvCmd) (w : FaultWait) : Bool :=
  m.halted && m.core == w.frec.core && m.hdr.toNat % 2 ^ 32 == w.frec.seq
/-- The halted command of a lead hub that a fault belongs to. -/
def State.haltedSv (s : State) (h : Nat) (w : FaultWait) : Option Nat :=
  (List.range (s.hub h).svq.length).find? (fun k => match (s.hub h).svq[k]? with
    | some m => m.faultedBy w
    | none => false)
/-- A command of a halted launch whose fault is answered: it goes on at resume, or its result is ready then (R264, R266). -/
def State.replyHaltedSv (s : State) (w : FaultWait) (h code : Nat) : State :=
  let f := fun (m : SvCmd) =>
    if code = 3 then { m with halted := false, result := some (6, s.openWords (svResultWords m.op)) }
    else { m with halted := false, retried := code == 1, passes := code == 2 }
  { s with free := s.free + 2, halts := s.halts.map (fun (x : HaltSave) =>
      { x with sv := x.sv.map (fun p => if p.1 == h && p.2.faultedBy w then (p.1, f p.2) else p) }) }
/-- A reply to SVFAULT (R266): the command resumes at its progress, passes the chunk without applying it, or completes with
SVFLT. -/
def State.replySpindle (s : State) (w : FaultWait) (h code : Nat) : State :=
  let u := s.answered w
  match s.haltedSv h w with
  | none =>
    if code = 0 ∨ 3 < code then (if w.launch.isSome then s.containFault w else u.endContext w.uid none)
    else u.replyHaltedSv w h code
  | some k =>
    match (s.hub h).svq[k]? with
    | none => u
    | some m =>
      let m := { m with halted := false, retried := code == 1, passes := code == 2 }
      match code with
      | 1 | 2 => u.setSv h k m
      | 3 => u.svOpen h k m 6
      | _ => if w.launch.isSome then s.containFault w else (u.svOpen h k m 6).endContext w.uid none
/-- A reply to SCHED (R354, R358): a retry resumes the context. -/
def State.replySched (s : State) (w : FaultWait) (uid code : Nat) : State :=
  match code with
  | 1 => { s.answered w with cores := fvals s.cores (fun x => { x with absent := x.absent.map (fun (a : Absent) =>
      if a.thr.uid == uid then { a with wake := true } else a) }) }
  | 2 | 3 => s.answered w
  | _ => s.containFault w

/-- What a reply does to the fault that waits (R354); none while it has to wait. -/
def State.reply (s : State) (w : FaultWait) (code : Nat) : Option State :=
  match w.resume with
  | .group | .fetch => some (s.replyGroup w code)
  | .late q => s.replyLate w q code
  | .access => some (s.replyAccess w code)
  | .engine f q => s.replyEngine w f q code
  | .matrix => some (s.replyMatrix w code)
  | .spindle h => some (s.replySpindle w h code)
  | .sched u => some (s.replySched w u code)
/-- FAULT_REPLY_ARRIVAL of network message k (R352 to R354): the poster learns the generation; what waits under the request number is
acted on, and a reply that finds none is dropped. -/
def execFaultReplyArrival (s : State) : Res :=
  .next (match s.arriving with
  | none => s.turnedAway
  | some m =>
    match m.sys with
    | .faultReply rid unit code gen svc =>
      let c := m.dst
      let u := s.unNet m.uid
      let u := u.setCore c { u.core c with learned := fset (u.core c).learned svc gen }
      match u.flts.find? (fun f => f.frec.core == c && f.frec.unit == unit && f.frec.rid == rid) with
      | none => u
      | some w => (u.reply w code).getD s
    | _ => s)

end Sys2Proof.Machine
end

