-- ==== Sys2Proof/Machine/Loader.lean ====
section
/-! DEFINITION. Management commands that deal in containers (R119 to R122, R363, R369, R371): loading and unloading, the
attestation report, and the command register. -/

namespace Sys2Proof.Machine

/-! ## The command register (R362, R363) -/

/-- A command is being performed. -/
def State.mwBusy (s : State) : Bool := s.mwCst.toNat / 2 ^ 63 == 1
/-- The last command has ended with a status and a result handle. -/
def State.mwDone (s : State) (status handle : Nat) : State :=
  { s with mwCst := BitVec.ofNat 64 (status % 256 + handle % 2 ^ 16 * 2 ^ 16), mwCmd := none }
/-- The command whose block is `b` goes on: `mw.cst` shows busy until it ends. -/
def State.mwGoes (s : State) (b : BitVec 512) : State := { s with mwCst := BitVec.ofNat 64 (2 ^ 63), mwCmd := some b }
/-- Operand word `k` of a command block (R363). -/
def cmdW (b : BitVec 512) (k : Nat) : Nat := (lineWord b k).toNat
/-- The block that an event of a command acts on: the one written, or with `on` the one being performed; none when the write has to wait
for the command before it (R363). -/
def State.cmdBlock (s : State) : Option (BitVec 512) :=
  if s.ev.on then (if s.mwBusy then s.mwCmd else none) else if s.mwBusy then none else some s.ev.data
/-- The command of a block, by the opcode in its bits 7:0 (R363). -/
def commandOf (b : BitVec 512) : Instr :=
  match b.toNat % 2 ^ 8 with
  | 1 => .loadContainer
  | 2 => .unload
  | 3 => .launchHalt
  | 4 => .resume
  | 5 => .checkpoint
  | 6 => .restore
  | 7 => .frameMoveBegin
  | 8 => .frameMoveEnd
  | 9 => .attest
  | _ => .unknownCommand
/-- UNKNOWN_COMMAND (R363). -/
def execUnknownCommand (s : State) : Res := .next (if s.mwBusy then s else s.mwDone 0xFF 0)

/-! ## The container file (R121) -/

/-- A section table entry. -/
structure Section where
  kind : Nat
  role : Nat
  krole : Nat
  comm : Bool
  entry : Nat
  off : Nat
  size : Nat
  addr : Nat
deriving DecidableEq, Repr
/-- The fields of a section table entry. -/
def sectionOf (n : Nat) : Section :=
  { kind := bitsN n 15 0, role := bitsN n 31 16, krole := bitsN n 33 32, comm := n.testBit 34, entry := bitsN n 63 35,
    off := bitsN n 127 64, size := bitsN n 191 128, addr := bitsN n 255 192 }
/-- The section table of the file at a host address. -/
def State.sections (s : State) (a : Nat) : List Section :=
  (List.range (s.mem.nat (hostPa a + 6) 2)).map (fun i => sectionOf (s.mem.nat (hostPa a + 64 + 32 * i) 32))
/-- Bytes of a section. -/
def State.secBytes (s : State) (a : Nat) (x : Section) : List Byte := s.mem.bytes (hostPa a + x.off) x.size
/-- The section's kind, place in the file, behind the table, and load address are legal (R119, R121): a fixed address of a loaded section
below 2^32 or past 2^52 is not (assumption 115), nor an entry past a text section's end (assumption 116); sections may share bytes of the
file (assumption 116). -/
def Section.ok (x : Section) (len roles nsec : Nat) : Bool :=
  decide (1 ≤ x.kind) && decide (x.kind ≤ 10) && x.off % 64 == 0 && decide (x.off + x.size ≤ len) &&
  (x.size == 0 || decide (64 + 32 * nsec ≤ x.off)) &&
  (decide (x.role < roles) || x.role == 0xFFFF) &&
  (x.addr == 0 || !(decide (1 ≤ x.kind) && decide (x.kind ≤ 3)) || (decide (2 ^ 32 ≤ x.addr) && decide (x.addr + x.size ≤ 2 ^ 52))) &&
  (x.kind != 1 || decide (8 * x.entry < x.size))
/-- Status 1 does not hold: magic, version, length and section table are right (R121, R369). -/
def State.fileOk (s : State) (a len : Nat) : Bool :=
  let h := s.mem.nat (hostPa a) 64
  let l := s.sections a
  let roles := bitsN h 159 144
  bitsN h 31 0 == 0x30435254 && bitsN h 47 32 == 1 && bitsN h 127 64 == len && bitsN h 143 128 == 0 && bitsN h 511 176 == 0 &&
  decide (1 ≤ bitsN h 63 48) && decide (bitsN h 63 48 ≤ 256) && decide (64 + 32 * bitsN h 63 48 ≤ len) &&
  decide (1 ≤ roles) && decide (roles ≤ 64) && l.all (fun x => x.ok len roles (bitsN h 63 48)) &&
  decide ((l.filter (fun x => x.kind == 1 && x.comm)).length ≤ 1)
/-- Sections of a kind, in table order. -/
def ofKind (l : List Section) (k : Nat) : List Section := l.filter (fun x => x.kind == k)
/-- The digests that the measurement section must hold, as bytes (R122). -/
def State.digests (s : State) (a : Nat) : List Byte :=
  let l := s.sections a
  let one := fun (b : List Byte) => leBytes 32 (Config.shake256 b).toNat
  one (s.mem.bytes (hostPa a) (64 + 32 * l.length)) ++
    (l.filter (fun x => x.kind != 9 && x.kind != 10)).flatMap (fun x => one (s.secBytes a x))
/-- The measurement section's bytes. -/
def State.measurement (s : State) (a : Nat) : List Byte := (ofKind (s.sections a) 9).flatMap (s.secBytes a)
/-- The signature is present and verifies (R122, R369). -/
def State.signed (s : State) (a : Nat) : Bool :=
  match ofKind (s.sections a) 10 with
  | x :: _ => x.size == 3309 && Config.mldsaVerify (s.measurement a) (s.secBytes a x)
  | [] => false
/-- 64-bit words of bytes. -/
def words64 (b : List Byte) : List (BitVec 64) :=
  (List.range (b.length / 8)).map (fun i => BitVec.ofNat 64 (leNat ((b.drop (8 * i)).take 8)))
/-- The placement entries in file order (R121). -/
def State.placement (s : State) (a : Nat) : List (BitVec 64) := words64 ((ofKind (s.sections a) 5).flatMap (s.secBytes a))
/-- The lowest handle that is free (R369). -/
def State.freeHandle (s : State) : Option Nat := (List.range' 1 255).find? (fun k => (fget? s.conts k).isNone)
/-- The status of a load (R369): the first check that fails, 0 when none does. A placement number is above 2,047 when its entry's
bits 42:22 are not zero. -/
def State.loadStatus (s : State) (a len : Nat) : Nat :=
  if s.fileOk a len = false then 1
  else if s.measurement a ≠ s.digests a then 2
  else if s.signed a = false ∧ s.mwPol.toNat % 2 = 0 then 3
  else if s.freeHandle.isNone then 4
  else if (s.placement a).any (fun w => bitsN w.toNat 42 22 != 0) then 5
  else 0

/-! ## Placement of sections and page tables (R119, R319, R320) -/

/-- 64 KiB pages that `n` bytes from a page's start take. -/
def pagesOf (n : Nat) : Nat := (n + 65535) / 65536
/-- A section that is loaded into pages: text, rodata and hbm (R119). -/
def Section.paged (x : Section) : Bool := decide (1 ≤ x.kind) && decide (x.kind ≤ 3) && x.size != 0
/-- The pages of a placed section as a range of addresses. -/
def span (at_ size : Nat) : Nat × Nat := (at_ / 65536 * 65536, (at_ + size + 65535) / 65536 * 65536)
/-- The lowest address from `cur`, or else from the start, at which `n` bytes from a page's start meet none of some ranges and stay below
2^52 (R119). -/
def placeFor (taken : List (Nat × Nat)) (cur n : Nat) : Option Nat :=
  let fits := fun (v : Nat) => decide (2 ^ 32 ≤ v) && decide (v + n ≤ 2 ^ 52) && !taken.any (fun t => decide (v < t.2) && decide (t.1 < v + n))
  (cur :: (taken.map (fun (t : Nat × Nat) => t.2) ++ [2 ^ 32])).find? fits
/-- Sections that are loaded into pages, with their addresses: fixed ones at theirs, the others each where it fits from `cur` on (R119);
none where one fits nowhere. -/
def assign (l : List (Nat × Section)) (taken : List (Nat × Nat)) (cur : Nat) : Option (List (Nat × Section × Nat)) :=
  match l with
  | [] => some []
  | (i, x) :: rest =>
    if !x.paged then assign rest taken cur
    else if x.addr ≠ 0 then (assign rest taken cur).map (fun m => (i, x, x.addr) :: m)
    else
      match placeFor taken cur (65536 * pagesOf x.size) with
      | some v => (assign rest (taken ++ [span v x.size]) (v + 65536 * pagesOf x.size)).map (fun m => (i, x, v) :: m)
      | none => none
/-- Addresses of the sections of a file, from the one the schedule chose (R119). -/
def places (l : List Section) (want : Nat) : Option (List (Nat × Section × Nat)) :=
  assign ((List.range l.length).zip l) ((l.filter (fun x => x.paged && x.addr != 0)).map (fun x => span x.addr x.size)) (want / 65536 * 65536)
/-- Rights of a section's pages: x 4, w 2, rd 1 (R119). -/
def kindRights (k : Nat) : Nat :=
  match k with
  | 1 => 5
  | 2 => 1
  | _ => 3
/-- The pages that a section at an address touches. -/
def pageRange (at_ size : Nat) : List Nat := List.range' (at_ / 65536) ((at_ + size - 1) / 65536 + 1 - at_ / 65536)
/-- Rights by virtual page, of all sections. -/
def pageRights (l : List (Nat × Section × Nat)) : FMap Nat :=
  l.foldl (fun m x => (pageRange x.2.2 x.2.1.size).foldl (fun m p => fset m p (fget 0 m p ||| kindRights x.2.1.kind)) m) []
/-- HBM frames of the device; frame x of them is frame x mod 2^20 of stack x / 2^20. -/
def frameCount : Nat := 24 * 2 ^ 20
/-- Physical address of a frame so numbered. -/
def framePa (x : Nat) : Nat := hbmPa (x / 2 ^ 20) (x % 2 ^ 20 * 65536)
/-- Runs of frames that loaded containers take. -/
def State.busyFrames (s : State) : List (Nat × Nat) := s.conts.flatMap (fun (k : Nat × Container) => k.2.taken)
/-- A frame lies in a run. -/
def inRun (x : Nat) (t : Nat × Nat) : Bool := decide (t.1 ≤ x) && decide (x < t.1 + t.2)
/-- The first of a free pair of frames for a level-0 table, which takes 128 KiB: from `want`, else the lowest. -/
def rootFrame (busy : List (Nat × Nat)) (want : Nat) : Option Nat :=
  ((want + 1) / 2 * 2 :: 0 :: busy.map (fun t => (t.1 + t.2 + 1) / 2 * 2)).find? (fun x =>
    decide (x + 2 ≤ frameCount) && !busy.any (fun t => inRun x t || inRun (x + 1) t))
/-- The next `n` free frames from `x` on, and round to the first one; `k` bounds the steps. -/
def takeFrames (busy : List (Nat × Nat)) (x n k : Nat) : List Nat :=
  match k with
  | 0 => []
  | k + 1 =>
    if n = 0 then []
    else if frameCount ≤ x then takeFrames busy 0 n k
    else
      match busy.find? (inRun x) with
      | some t => takeFrames busy (t.1 + t.2) n k
      | none => x :: takeFrames busy (x + 1) (n - 1) k
/-- The frames of a load, of whatever stacks, from the one the schedule chose (R119): the two of the level-0 table, then `n` others; none
when so many are not free. -/
def State.framesAt (s : State) (want n : Nat) : Option (List Nat) :=
  let busy := s.busyFrames
  if frameCount < (busy.map (fun t => t.2)).sum + 2 + n then none
  else (rootFrame busy want).map (fun r => [r, r + 1] ++ takeFrames ((r, 2) :: busy) (r + 2) n (n + 2 * busy.length + 5))
/-- Frames as runs. -/
def runsOf (l : List Nat) : List (Nat × Nat) :=
  l.foldr (fun x rs => match rs with
    | (y, n) :: rest => if x + 1 = y then (x, n + 1) :: rest else (x, 1) :: rs
    | [] => [(x, 1)]) []
/-- A valid entry that names the next table (R320). -/
def tableEntry (x : Nat) : Nat := 2 ^ 63 + x / 2 ^ 20 * 2 ^ 40 + x % 2 ^ 20 * 2 ^ 20
/-- A valid leaf of an HBM page with rights, rcm 0 and ver 0 (R119, R320). -/
def leafEntry (x rights : Nat) : Nat :=
  2 ^ 63 + 2 ^ 62 + rights / 4 * 2 ^ 61 + rights / 2 % 2 * 2 ^ 60 + rights % 2 * 2 ^ 59 + x / 2 ^ 20 * 2 ^ 36 + x % 2 ^ 20 * 2 ^ 16
/-- Position of a value in a list. -/
def posOf (l : List Nat) (x : Nat) : Nat := (l.takeWhile (fun y => y != x)).length
/-- Write the page tables of pages into frames `fs`: the root in the first two, then the level-1 tables, the level-2 tables and the pages,
a frame each. -/
def tablesMem (m : Memory) (fs : List Nat) (pages : FMap Nat) : Memory :=
  let ps := fkeys pages
  let t1 := (ps.map (fun p => p / 2 ^ 22)).eraseDups
  let t2 := (ps.map (fun p => p / 2 ^ 9)).eraseDups
  let fr := fun (k : Nat) => fs.getD k 0
  let at_ := fun (k : Nat) => framePa (fr k)
  let f2 := 2 + t1.length
  let fd := f2 + t2.length
  let m := (List.range fd).foldl (fun m k => m.clear (at_ k) 65536) m
  let m := t1.foldl (fun m x => m.setNat (at_ 0 + 8 * (x % 2 ^ 14)) 8 (tableEntry (fr (2 + posOf t1 x)))) m
  let m := t2.foldl (fun m x => m.setNat (at_ (2 + posOf t1 (x / 2 ^ 13)) + 8 * (x % 2 ^ 13)) 8 (tableEntry (fr (f2 + posOf t2 x)))) m
  (pages.zip (List.range pages.length)).foldl (fun m p =>
    m.setNat (at_ (f2 + posOf t2 (p.1.1 / 2 ^ 9)) + 8 * (p.1.1 % 2 ^ 9)) 8 (leafEntry (fr (fd + p.2)) p.1.2)) m
/-- Frames that the tables and pages take beside the level-0 table. -/
def framesFor (pages : FMap Nat) : Nat :=
  let ps := fkeys pages
  (ps.map (fun p => p / 2 ^ 22)).eraseDups.length + (ps.map (fun p => p / 2 ^ 9)).eraseDups.length + ps.length
/-- Copy bytes that lie at a virtual address into the frames `fs` of the pages `ps`. -/
def pagesMem (m : Memory) (fs ps : List Nat) (at_ : Nat) (b : List Byte) : Memory :=
  (pageRange at_ b.length).foldl (fun m p =>
    let lo := max at_ (p * 65536)
    let hi := min (at_ + b.length) ((p + 1) * 65536)
    m.setBytes (framePa (fs.getD (posOf ps p) 0) + lo % 65536) ((b.drop (lo - at_)).take (hi - lo))) m
/-- Write a value over bits `pos` to `pos + n − 1` of bytes; bits past their end are lost. -/
def setField (b : List Byte) (pos n v : Nat) : List Byte :=
  let i := pos / 8
  let k := min ((pos % 8 + n + 7) / 8) (b.length - i)
  let old := leNat ((b.drop i).take k)
  let r := pos % 8
  b.take i ++ leBytes k (old % 2 ^ r + v % 2 ^ n * 2 ^ r + old / 2 ^ (r + n) * 2 ^ (r + n)) ++ b.drop (i + k)
/-- Bytes of section `i` as loaded (R119): those of the file, with the addresses of labels, where the sections are placed, written over
them. -/
def State.loaded (s : State) (a len : Nat) (secs : List (Nat × Section × Nat)) (i : Nat) (x : Section) : List Byte :=
  (Config.relocations (s.mem.bytes (hostPa a) len)).foldl (fun b r =>
    match secs.find? (fun y => y.1 == r.target) with
    | some y => if r.sec = i then setField b r.pos r.width ((y.2.2 + r.off) / 2 ^ r.shift) else b
    | none => b) (s.secBytes a x)
/-- The fanout of a file's boot tree: 4 when none is given (R370). -/
def State.fanoutOf (s : State) (a : Nat) : Nat :=
  match ofKind (s.sections a) 6 with
  | x :: _ =>
    let n := leNat ((s.secBytes a x).take 8)
    if 2 ≤ n ∧ n ≤ 8 then n else 4
  | [] => 4
/-- Load the file of `len` bytes at host address `a` under a handle, its sections placed at their addresses and in frames (R119, R121): of
two sections that overlap there the later keeps its bytes (assumption 115), and of two images of a role the first is the role's (assumption
116). The vault image is cut at 32 MiB (assumption 115). -/
def State.loadAt (s : State) (a len hd : Nat) (secs : List (Nat × Section × Nat)) (fs : List Nat) : State :=
  let l := s.sections a
  let pages := pageRights secs
  let ps := fkeys pages
  let m := tablesMem s.mem fs pages
  let m := secs.foldl (fun m x => pagesMem m (fs.drop (fs.length - ps.length)) ps x.2.2 (s.loaded a len secs x.1 x.2.1)) m
  let roles := secs.filterMap (fun x =>
    if x.2.1.kind == 1 then some ({ idx := x.2.1.role, text := x.2.2, size := x.2.1.size, entry := x.2.2 + 8 * x.2.1.entry,
                                    krole := x.2.1.krole, comm := x.2.1.comm } : Role)
    else none)
  let vault := (((List.range l.length).zip l).filter (fun x => x.2.kind == 4)).flatMap (fun x => s.loaded a len secs x.1 x.2)
  let k : Container := { root := framePa (fs.headD 0), roles := roles, place := s.placement a, fanout := s.fanoutOf a,
                         vault := vault.take (2 ^ 25), verified := s.signed a,
                         measure := s.measurement a, taken := runsOf fs }
  ({ s with mem := m, conts := fset s.conts hd k } : State).mwDone 0 hd
/-- LOAD_CONTAINER (R119, R121, R363, R369) of W2 bytes at host address W1; v and w are where the loader chooses to place it: a virtual
address and a frame. A file for which there is no room is not loaded (assumption 70). -/
def execLoadContainer (s : State) : Res :=
  let a := cmdW s.ev.data 1 / 64 * 64
  let len := cmdW s.ev.data 2
  .next (if s.mwBusy then s
    else
      let st := s.loadStatus a len
      if st ≠ 0 then s.mwDone st 0
      else
        match s.freeHandle, places (s.sections a) s.ev.v.toNat with
        | some hd, some secs =>
          match s.framesAt s.ev.w.toNat (framesFor (pageRights secs)) with
          | some fs => s.loadAt a len hd secs fs
          | none => s
        | _, _ => s)

/-! ## Unloading (R363) -/

/-- A launch of a container is queued or running; a halted one is neither (R363, R366). -/
def State.contBusy (s : State) (hd : Nat) : Bool :=
  s.fifos.any (fun x => x.2.queue.any (fun q => bitsN q.2.toNat 47 32 == hd) || (match x.2.running with
    | some l => !l.halted && bitsN l.record.toNat 47 32 == hd
    | none => false))
/-- UNLOAD of handle W1 (R363): nothing translated or cached under the handle is left. -/
def execUnload (s : State) : Res :=
  let hd := cmdW s.ev.data 1
  let keep := fun (e : TlbEntry) => e.handle != hd
  .next (if s.mwBusy then s
    else if s.contBusy hd then s.mwDone 1 0
    else
      ({ s with
        conts := ferase s.conts hd
        cores := fvals s.cores (fun x => { x with
          itlb := x.itlb.filter keep, dtlb := x.dtlb.filter keep
          icache := match x.icache with
            | some (h, r) => if h == hd then none else some (h, r)
            | none => none })
        clusters := fvals s.clusters (fun k => { k with l2tlb := fvals k.l2tlb (fun l => l.filter keep) }) } : State).mwDone 0 0)

/-! ## Attestation (R371) -/

/-- What the attestation signature covers. -/
def State.attestReport (s : State) (nonce : BitVec 512) : List Byte :=
  leBytes 32 nonce.toNat ++
  leBytes 32 (Config.shake256 ((List.range 1952).map Config.identityKey)).toNat ++
  (List.range 32).map Config.firmwareMeasurement ++
  leBytes 8 (if s.conts.all (fun k => k.2.verified) then 1 else 0) ++ leBytes 8 s.conts.length ++ List.replicate 16 0 ++
  s.conts.flatMap (fun k => leBytes 32 (Config.shake256 k.2.measure).toNat)
/-- ATTEST (R363, R371) with the nonce in W1 to W4, to host address W5. -/
def execAttest (s : State) : Res :=
  .next (if s.mwBusy then s
    else
      let b := s.attestReport (s.ev.data >>> 64)
      let sig := (List.range 3309).map (Config.attestSign b)
      ({ s with mem := s.mem.setBytes (hostPa (cmdW s.ev.data 5 % 2 ^ 52)) (b ++ sig) } : State).mwDone 0 0)

end Sys2Proof.Machine
end

