-- ==== Sys2Proof/Machine/Halt.lean ====
section
/-! DEFINITION. Launch halt and resume (R48, R264, R360, R363). -/

namespace Sys2Proof.Machine

/-! ## Saving threads -/

/-- A group in which a thread blocked may be saved (R360). -/
def waitGroup (g : Group) : Bool :=
  match g with
  | .pair (.recv _ _ _ _) _ | .pair (.recvt _ _ _ _) _ | .pair (.wait _ _ _) _ | .pair (.cbwait _ _ _) _ | .pair (.cbacq _ _ _) _
  | .pair (.bar _) _ | .pair (.grpst _ _) _ => true
  | _ => false
/-- Everything the thread has in flight has landed, but an access that is held and versioned loads that wait (R103, R360). -/
def State.settled (s : State) (c t : Nat) : Bool :=
  let th := s.thr c t
  let u := s.closeWindows c t
  (u.thr c t).outs.all (fun o => match o.wait with
    | .held | .ldx _ _ _ _ => true
    | _ => false) &&
  !(u.core c).envPend.any (fun e => e.uid == th.uid) &&
  s.latheIdle c t && th.deferred.isEmpty && th.after == .none && !s.stalls.any (fun y => y.2.1 == th.uid) &&
  (match th.blk with
   | .none | .retry | .mailbox _ => true
   | _ => false)
/-- A versioned load of the thread waits for its version. -/
def Thread.ldxWaits (th : Thread) : Bool :=
  th.outs.any (fun o => match o.wait with
    | .ldx _ _ _ _ => true
    | _ => false)
/-- A thread, with its gang, is blocked where a launch halt saves it (R360). -/
def State.haltSaves (s : State) (c t : Nat) : Bool :=
  let ms := s.members c t
  let ths := ms.map (fun m => s.thr m.1 m.2)
  (s.thr c t).leads && s.gathered c t && ms.all (fun m => s.settled m.1 m.2) &&
  (ths.any (fun th => s.onMailbox th.uid) ||
   (ths.any (fun th => th.blk == .retry) &&
    (ths.any Thread.ldxWaits || (match (s.fetch c t).2 with
      | .group g => waitGroup g
      | _ => false))))
/-- An outstanding result as it is saved: a waiting versioned load is a held access. -/
def Out.atHalt (o : Out) : Out :=
  match o.wait with
  | .ldx _ _ _ _ => { o with wait := .held }
  | _ => o
/-- The access a context holds when it is saved. -/
def Thread.heldAtHalt (th : Thread) : Option Access :=
  match th.held with
  | some a => some a
  | none => th.outs.findSome? (fun o => match o.wait with
    | .ldx ea v _ _ => some (.ldx ea v o.regs o.look)
    | _ => none)
/-- Save a slot's thread as though a `safe` with every register live stood before its group; the access it holds is made again at
resume (R48, R360). -/
def State.haltThread (s : State) (c t : Nat) : State :=
  let u := s.closeWindows c t
  let th := u.thr c t
  let v := u.saveContext c t th.pc (BitVec.allOnes 16) (BitVec.allOnes 8) (BitVec.allOnes 32) none
  v.setCore c { v.core c with absent := (v.core c).absent.map (fun (a : Absent) =>
    if a.thr.uid == th.uid then
      { a with thr := { a.thr with outs := th.outs.map Out.atHalt, held := th.heldAtHalt, heldPc := th.heldPc } }
    else a) }
/-- Save every thread of a launch that can be saved now. -/
def State.haltThreads (s : State) (l : Nat × Nat) : State :=
  (s.threads.filter (fun x => x.2.2.launch == some l)).foldl (fun u x =>
    let th := u.thr x.1 x.2.1
    if th.live && th.uid == x.2.2.uid && u.haltSaves x.1 x.2.1 then (u.members x.1 x.2.1).foldl (fun w m => w.haltThread m.1 m.2) u
    else u) s

/-! ## Quiet and copied (R264, R360) -/

/-- The matrix unit of a core keeps a drain of the launch whose rows wait for threads. -/
def Core.drainStuck (x : Core) (l : Nat × Nat) : Bool :=
  match x.mrun with
  | some m => m.launch == some l && (m.waiting.isSome || x.freeRow.isNone)
  | none => false
/-- No unit of a core works for the launch any more, but a drain whose rows wait. -/
def Core.quiet (x : Core) (l : Nat × Nat) : Bool :=
  let mine := fun (o : Option (Nat × Nat)) => o == some l
  !x.qi.any (fun q => q.2.any (fun e => mine e.launch)) && !x.qrun.any (fun q => q.2.any (fun e => mine e.launch)) &&
  !x.rq.any (fun r => mine r.launch) &&
  (x.drainStuck l || (!x.mq.any (fun m => mine m.launch) && (match x.mrun with
    | some m => !mine m.launch
    | none => true)))
/-- The launch stands still: no thread in a slot or on its way, no unit at work. -/
def State.quiet (s : State) (l : Nat × Nat) : Bool :=
  !s.threads.any (fun x => x.2.2.launch == some l) && !s.net.any (fun m => m.carries l) && s.cores.all (fun x => x.2.quiet l) &&
  s.hubs.all (fun h => h.2.svq.all (fun m => m.launch != some l || m.result.isNone))
/-- Messages in a core's inbox that name the slot of an absent context that still owns it. -/
def Core.inboxOf (x : Core) (a : Absent) : List InboxEntry :=
  if a.lost then [] else x.inbox.filter (fun e => e.msg.dslot == a.slot && !e.parked && (e.msg.kind == 0 || e.msg.kind == 3))
/-- What a core parks for a context at a halt: messages unread, results not taken, items parked, in their order. -/
def Core.haltItems (x : Core) (a : Absent) : List Parked :=
  let u := a.thr.uid
  (x.inboxOf a).map (fun e => { uid := u, msg := some e.msg, res := none }) ++
  x.qo.flatMap (fun q => (q.2.filter (fun e => e.uid == u)).map (fun e => { uid := u, msg := none, res := some (q.1, e) })) ++
  (x.spillRes.filter (fun r => r.2.uid == u)).map (fun r => { uid := u, msg := none, res := some r }) ++
  x.parked.filter (fun p => p.uid == u)
/-- A core without what a halt takes from it: the contexts of the launch and their items. -/
def Core.haltTake (x : Core) (l : Nat × Nat) : Core :=
  let as := x.absent.filter (fun a => a.thr.launch == some l)
  let us := as.map (fun a => a.thr.uid)
  { x with
    absent := x.absent.filter (fun a => a.thr.launch != some l)
    inbox := x.inbox.filter (fun e => !as.any (fun a => (x.inboxOf a).contains e))
    qo := fvals x.qo (fun q => q.filter (fun e => !us.contains e.uid))
    spillRes := x.spillRes.filter (fun r => !us.contains r.2.uid)
    parked := x.parked.filter (fun p => !us.contains p.uid) }
/-- Map entries that halted Spindle commands use in the hubs that take part, by hub and number (R264). -/
def State.haltMaps (s : State) (cs : List (Nat × SvCmd)) : List (Nat × Nat × SvMap) :=
  (cs.flatMap (fun c => c.2.svrec.hubs.map (fun h => (h, c.2.mapid)))).eraseDups.map (fun k => (k.1, k.2, s.svMap k.1 k.2))
/-- Bytes that what a halt saves takes in the halt area (R360): records, items, images of accumulators and envelopes, progress records
and map entries. -/
def HaltSave.bytes (h : HaltSave) : Nat :=
  4608 * h.contexts.length + 16448 * h.accs.length + 32 * h.sv.length + 64 * h.maps.length +
  (h.envs.map (fun e => e.2.2.image.length)).sum +
  (h.parked.map (fun p => (match p.2.msg with
    | some m => m.stored
    | none => 0) + (match p.2.res with
    | some r => r.2.stored
    | none => 0))).sum
/-- Where a halt area lies: the stack in bits 40:36, its offset below (PRESUMED, assumption 62). -/
def areaPa (k : Nat) : Nat := hbmPa (k / 2 ^ 36) (k % 2 ^ 36)
/-- The halt area takes what a halt saves (R360), in a layout the spec does not give: its bytes hold free values. -/
def State.fillArea (s : State) (h : HaltSave) : State :=
  if h.area / 2 ^ 36 < 24 then
    { s with mem := s.mem.setBytes (areaPa h.area) ((List.range h.bytes).map (fun i => Config.freeByte (s.free + i))), free := s.free + h.bytes }
  else s
/-- A fault of a context saved by a halt that its late instruction waits for. -/
def FaultWait.lateOf (w : FaultWait) (us : List Nat) : Bool :=
  match w.resume with
  | .late _ => us.contains w.uid
  | _ => false
/-- Copy the launch into the halt area: it is halted (R360). -/
def State.haltDone (s : State) (f area : Nat) (r : Launch) : State :=
  let l := (f, r.sq)
  let as := s.cores.flatMap (fun x => (x.2.absent.filter (fun a => a.thr.launch == some l)).map (fun a => (x.1, a)))
  let us := as.map (fun p => p.2.thr.uid)
  let cs := s.hubs.flatMap (fun h => (h.2.svq.filter (fun m => m.launch == some l)).map (fun m => (h.1, m)))
  let save : HaltSave := {
    area := area, fifo := f, run := r, contexts := as
    parked := as.flatMap (fun p => ((s.core p.1).haltItems p.2).map (fun i => (p.1, i)))
    accs := s.cores.flatMap (fun x => (x.2.acc.filter (fun a => a.2.pin && a.2.owner == some l)).map (fun a => (x.1, a.1, a.2)))
    envs := s.cores.flatMap (fun x => (x.2.env.filter (fun e => e.2.owner == some l)).map (fun e => (x.1, e.1, e.2)))
    sv := cs, maps := s.haltMaps cs
    late := (s.flts.filter (fun w => w.lateOf us)).map (fun w => (w.frec.core, w)) }
  let s := (s.setFifo f { s.fifo f with running := some { r with halted := true } }).fillArea save
  { s with
    halts := s.halts ++ [save]
    cores := fvals s.cores (fun x => x.haltTake l)
    hubs := fvals s.hubs (fun h => { h with svq := h.svq.filter (fun m => m.launch != some l) })
    flts := s.flts.filter (fun w => !us.contains w.uid || (match w.resume with
      | .late _ | .sched _ => false
      | _ => true)) }
/-- One step of the halt of a FIFO's launch into an area (R360): it begins with a switch request to every thread; it goes on until the
launch stands still and is copied. A launch that has retired, or is contained, ends the command at once; one that is queued keeps it
waiting (assumption 62). -/
def State.haltStep (s : State) (f sq area : Nat) : State :=
  let x := s.fifo f
  match x.running.filter (fun r => r.sq == sq) with
  | some r =>
    if r.halted then s.mwDone 0 0
    else if r.contained then s.mwDone Config.retiredStatus.toNat 0
    else if r.halting.isSome then
      let u := s.haltThreads (f, sq)
      if u.quiet (f, sq) then (u.haltDone f area r).mwDone 0 0 else u
    else
      let u := s.setFifo f { x with running := some { r with halting := some area } }
      (u.threads.filter (fun y => y.2.2.launch == some (f, sq))).foldl (fun u y => u.signal y.1 y.2.1 5) u
  | none => if x.queue.any (fun q => q.1 == sq) then s else s.mwDone Config.retiredStatus.toNat 0
/-- LAUNCH_HALT of sequence number W2 of FIFO W1 into area W3 (R360, R363): the command begins, and with `on` goes on. -/
def execLaunchHalt (s : State) : Res :=
  .next (match s.cmdBlock with
  | some b => (s.mwGoes b).haltStep (cmdW b 1) (cmdW b 2) (cmdW b 3)
  | none => s)

/-! ## Resume (R264, R360) -/

/-- Post a saved late fault again (R360). -/
def State.repostLate (s : State) (w : FaultWait) : State :=
  (s.postFault (svcIndex w.frec.core) w.frec w.uid w.launch w.resume).1
/-- Put back what a halt area holds: contexts come back into any free slots, and what was parked follows them (R360). -/
def State.haltBack (s : State) (h : HaltSave) : State :=
  let s := h.contexts.foldl (fun s p => s.setCore p.1 { s.core p.1 with absent := (s.core p.1).absent ++ [p.2] }) s
  let s := h.parked.foldl (fun s p => s.setCore p.1 { s.core p.1 with parked := (s.core p.1).parked ++ [p.2] }) s
  let s := h.accs.foldl (fun s p => s.setCore p.1 ((s.core p.1).setAccum p.2.1 p.2.2)) s
  let s := h.envs.foldl (fun s p => s.setCore p.1 { s.core p.1 with env := fset (s.core p.1).env p.2.1 p.2.2 }) s
  let s := h.sv.foldl (fun s p => s.setHub p.1 { s.hub p.1 with svq := (s.hub p.1).svq ++ [{ p.2 with active := false }] }) s
  let s := h.maps.foldl (fun s p => s.setHub p.1 { s.hub p.1 with maps := fset (s.hub p.1).maps p.2.1 p.2.2 }) s
  let s := s.setFifo h.fifo { s.fifo h.fifo with running := some { h.run with halting := none, halted := false } }
  h.late.foldl (fun s p => s.repostLate p.2) { s with halts := s.halts.erase h }
/-- RESUME from area W1 (R363): status 1 when it holds no halted launch, or one in whose FIFO another now runs (assumption 62). -/
def execResume (s : State) : Res :=
  .next (if s.mwBusy then s
    else
      match s.halts.find? (fun h => h.area == cmdW s.ev.data 1) with
      | none => s.mwDone 1 0
      | some h =>
        let busy := match (s.fifo h.fifo).running with
          | some r => r.sq != h.run.sq
          | none => false
        if busy then s.mwDone 1 0 else (s.haltBack h).mwDone 0 0)

end Sys2Proof.Machine
end

