-- ==== Sys2Proof/Machine/Launch.lean ====
section
/-! DEFINITION. Launches and the scheduler (R37 to R47, R357, R358, R370): FIFOs, start, boot-tree delivery, placed threads, the
communication reserve, retirement, switch requests and the return of contexts. -/

namespace Sys2Proof.Machine

/-! ## Launch records (R38, R39, R43) -/

/-- A field of a launch record. -/
def recField (r : BitVec 512) (hi lo : Nat) : Nat := bitsN r.toNat hi lo
/-- The container handle of a record. -/
def recCont (r : BitVec 512) : Nat := recField r 47 32
/-- The argument block's address. -/
def recArgs (r : BitVec 512) : Nat := recField r 255 192
/-- The cluster mask. -/
def recRegion (r : BitVec 512) : Nat := recField r 191 64
/-- The wait tokens that are present: FIFO and sequence number. -/
def recTokens (r : BitVec 512) : List (Nat × Nat) :=
  (List.range 4).filterMap (fun i =>
    let t := recField r (287 + 32 * i) (256 + 32 * i)
    if t.testBit 31 then some (bitsN t 30 27, t % 2 ^ 27) else none)
/-- (x − y) mod 2^27 < 2^26 (R39, R43). -/
def seqReached (x y : Nat) : Bool := decide ((x + 2 ^ 27 - y) % 2 ^ 27 < 2 ^ 26)
/-- A token is satisfied (R39). -/
def State.tokenMet (s : State) (t : Nat × Nat) : Bool := seqReached (s.fifo t.1).done t.2
/-- A record is rejected (R43). -/
def State.rejects (s : State) (f sq : Nat) (r : BitVec 512) : Bool :=
  recField r 447 384 != 0 || recField r 63 48 != 0 || recField r 31 0 != 0 || recRegion r == 0 ||
  decide (2 ^ 52 ≤ recArgs r) || recArgs r % 8 != 0 || (fget? s.conts (recCont r)).isNone ||
  (recTokens r).any (fun t => t.1 == f && seqReached t.2 sq)
/-- A record has retired (R39, R42): the done count advances, and the completion word goes to the host. -/
def State.complete (s : State) (f sq status : Nat) (r : BitVec 512) : State :=
  let x := s.fifo f
  let s := s.setFifo f { x with done := (x.done + 1) % 2 ^ 27 }
  let a := recField r 511 448
  if a = 0 then s else { s with mem := s.mem.setNat (hostPa (a % 2 ^ 52)) 8 (sq + f * 2 ^ 27 + status * 2 ^ 32) }
/-- LAUNCH_PUSH of the record in `data` into FIFO f (R37, R39); a full FIFO keeps the host waiting. -/
def execLaunchPush (s : State) : Res :=
  let f := s.ev.f
  let x := s.fifo f
  .next (if 16 ≤ f ∨ 32 ≤ x.queue.length then s
    else
      let n := (x.pushed + 1) % 2 ^ 27
      s.setFifo f { x with queue := x.queue ++ [(n, s.ev.data)], pushed := n })

/-! ## Start (R40, R41, R370) -/

/-- FIFOs in the order in which they are served (R40, R47). -/
def fifoOrder : List Nat := [12, 13, 14, 15, 8, 9, 10, 11, 4, 5, 6, 7, 0, 1, 2, 3]
/-- The role image of an index: the first in table order (assumption 116). -/
def Container.role (k : Container) (i : Nat) : Option Role := k.roles.find? (fun r => r.idx == i)
/-- The placed cores in ascending linear number: core, role, stage (R41). A core that several entries name has one thread, of the first
of them (assumption 94). -/
def Container.placed (k : Container) (region : Nat) : List (Nat × Nat × Nat) :=
  (List.range 2048).filterMap (fun c =>
    if region.testBit (clusterOf c) then
      k.place.findSome? (fun w =>
        let e := w.toNat
        if bitsN e 10 0 ≤ c && c ≤ bitsN e 21 11 && (k.role (bitsN e 63 48)).isSome then
          some (c, bitsN e 63 48, if e.testBit 43 then bitsN e 47 44 else 0)
        else none)
    else none)
/-- Blocks of a role's share of an instruction cache (R370). -/
def Role.blocks (r : Role) : Nat := (min r.size 32768 + 63) / 64
/-- A core's instruction cache still holds its share (R389). -/
def State.hasImage (s : State) (c cont role : Nat) : Bool := (s.core c).icache == some (cont, role)
/-- Each selected cluster's vault receives the vault image (R119). -/
def State.fillVaults (s : State) (region : Nat) (img : List Byte) : State :=
  { s with mem := ((List.range 128).filter (fun k => region.testBit k)).foldl (fun m k => m.setBytes (k * 2 ^ 25) img) s.mem }
/-- Start a launch (R40, R41, R370). -/
def State.startLaunch (s : State) (f sq : Nat) (r : BitVec 512) (k : Container) : State :=
  let ps := k.placed (recRegion r)
  let ranks := ps.zip (List.range ps.length)
  let here := ranks.map (fun p =>
    (p.2, match k.role p.1.2.1 with
      | some o => if s.hasImage p.1.1 (recCont r) o.idx then o.blocks else 0
      | none => 0))
  let s := s.fillVaults (recRegion r) k.vault
  let s := s.setFifo f { s.fifo f with running := some {
    sq := sq, record := r, placed := ps.length
    toPlace := ranks.map (fun p => (p.1.1, p.1.2.1, p.2, p.1.2.2)) } }
  { s with boot := fset s.boot f here }
/-- The head record of a FIFO may start, or is rejected (R40, R43). -/
def State.headReady (s : State) (f : Nat) : Bool :=
  match (s.fifo f).running, (s.fifo f).queue with
  | none, (sq, r) :: _ => s.rejects f sq r || (recTokens r).all s.tokenMet
  | _, _ => false
/-- LAUNCH_START at FIFO f (R40, R43): the head record starts, or retires with status 2; FIFOs served before it go first. -/
def execLaunchStart (s : State) : Res :=
  let f := s.ev.f
  let x := s.fifo f
  .next (match x.running, if (fifoOrder.takeWhile (fun g => g != f)).any s.headReady then [] else x.queue with
  | none, (sq, r) :: rest =>
    let u := s.setFifo f { x with queue := rest }
    if s.rejects f sq r then u.complete f sq 2 r
    else if (recTokens r).all s.tokenMet then
      match fget? s.conts (recCont r) with
      | some k => u.startLaunch f sq r k
      | none => s
    else s
  | _, _ => s)

/-! ## Boot tree (R370, R389) -/

/-- The cores of one role in its tree: rank and core. -/
def Container.tree (k : Container) (region role : Nat) : List (Nat × Nat) :=
  let ps := k.placed region
  (ps.zip (List.range ps.length)).filterMap (fun p => if p.1.2.1 == role then some (p.2, p.1.1) else none)
/-- Blocks present at a rank. -/
def State.blocksAt (s : State) (f rank : Nat) : Nat := fget 0 (fget [] s.boot f) rank
/-- BOOT_BLOCK for rank k of FIFO f's launch (R370, R389): the next block of the image arrives, at rank 0 of the role's tree from
memory, at another once its parent has it. -/
def execBootBlock (s : State) : Res :=
  let f := s.ev.f
  let rank := s.ev.k
  .next (match (s.fifo f).running with
  | none => s
  | some l =>
    match fget? s.conts (recCont l.record), l.toPlace.find? (fun p => p.2.2.1 == rank) with
    | some k, some (c, role, _, _) =>
      match k.role role with
      | none => s
      | some o =>
        let tree := k.tree (recRegion l.record) role
        let i := ((List.range tree.length).find? (fun j => (tree.getD j (0, 0)).1 == rank)).getD 0
        let n := s.blocksAt f rank
        let above := if i = 0 then o.blocks else s.blocksAt f (tree.getD ((i - 1) / max 1 k.fanout) (0, 0)).1
        if o.blocks ≤ n ∨ above ≤ n then s
        else
          let s := { s with boot := fset s.boot f (fset (fget [] s.boot f) rank (n + 1)) }
          if n + 1 = o.blocks then s.setCore c { s.core c with icache := some (recCont l.record, o.idx) } else s
    | _, _ => s)
/-- A placed core has its share of the image. -/
def State.booted (s : State) (f rank : Nat) (o : Role) : Bool := decide (o.blocks ≤ s.blocksAt f rank)

/-! ## Placed threads (R41, R46, R47) -/

/-- The thread of a placed core (R41). -/
def placedThread (f : Nat) (l : Launch) (o : Role) (rank stage n : Nat) : Thread :=
  { g := Vector.ofFn (fun i =>
      if i.val = 8 then BitVec.ofNat 64 (recArgs l.record)
      else if i.val = 9 then BitVec.ofNat 64 rank
      else if i.val = 10 then BitVec.ofNat 64 n
      else 0)
    pc := BitVec.ofNat 64 o.entry, krole := BitVec.ofNat 64 (o.krole + if o.comm then 4 else 0)
    kstage := BitVec.ofNat 64 stage, launch := some (f, l.sq), cont := recCont l.record }
/-- The next thread a launch has to start on a core, and its image: rank and stage. -/
def State.nextPlaced (s : State) (f q : Nat) : Option (Launch × Role × Nat × Nat) :=
  match (s.fifo f).running with
  | none => none
  | some l =>
    if l.halting.isSome then none
    else
      match fget? s.conts (recCont l.record) with
      | none => none
      | some k =>
        l.toPlace.findSome? (fun p =>
          if p.1 == q then
            match k.role p.2.1 with
            | some o => if s.booted f p.2.2.1 o && (!s.reserved q || o.comm) then some (l, o, p.2.2.1, p.2.2.2) else none
            | none => none
          else none)
/-- PLACED_THREAD_START of FIFO f's launch on core q (R41, R46): in a free slot, when no launch of higher order waits for it. -/
def execPlacedThreadStart (s : State) : Res :=
  let f := s.ev.f
  let q := s.ev.q
  .next (match s.nextPlaced f q, s.freeSlot q with
  | some (l, o, rank, stage), some t =>
    if (fifoOrder.takeWhile (fun g => g != f)).any (fun g => (s.nextPlaced g q).isSome) then s
    else
      let l' := { l with toPlace := l.toPlace.filter (fun p => p.2.2.1 != rank) }
      (s.setFifo f { s.fifo f with running := some l' }).startThread q t (placedThread f l o rank stage l.placed)
  | _, _ => s)
/-- The communication image that starts on a core of the reserve (R47): of the first running launch that has one. -/
def State.commImage (s : State) (q : Nat) : Option (Nat × Launch × Role) :=
  fifoOrder.findSome? (fun f =>
    match (s.fifo f).running with
    | none => none
    | some l =>
      if l.halting.isSome || l.contained || !(recRegion l.record).testBit (clusterOf q) then none
      else
        match fget? s.conts (recCont l.record) with
        | none => none
        | some k => match k.roles.find? (fun o => o.comm) with
          | some o => some (f, l, o)
          | none => none)
/-- COMM_IMAGE_START in slot t of core q (R47): the slot of a reserve core has become free; `kstage` is 0 (assumption 113). -/
def execCommImageStart (s : State) : Res :=
  let q := s.ev.q
  let t := s.ev.t
  let x := s.core q
  .next (if !x.freed.contains t then s
    else
      let u := s.setCore q { x with freed := x.freed.filter (fun k => k != t) }
      if !s.reserved q || !x.free t then u
      else
        match s.commImage q with
        | some (f, l, o) => u.startThread q t (placedThread f l o 0 0 0)
        | none => u)

/-! ## Retirement (R40, R42) -/

/-- A thread of a launch exists somewhere, or a record that will start one (R40). -/
def State.launchLives (s : State) (l : Nat × Nat) : Bool :=
  s.threads.any (fun x => x.2.2.launch == some l) || s.away.any (fun t => t.launch == some l) ||
  s.messages.any (fun m => m.carries l) ||
  s.clusters.any (fun k => (k.2.taskq ++ k.2.taskOver ++ k.2.taskWait).any (fun r => r.launch == some l))
/-- The launch of a context that still exists. -/
def State.launchOf (s : State) (uid : Nat) : Option (Nat × Nat) :=
  match s.findUid uid with
  | some (c, t) => (s.thr c t).launch
  | none => match s.absentOf uid with
    | some (_, a) => a.thr.launch
    | none => none
/-- Every store of a launch has been released at device scope (R40): each store not acknowledged is of a context of another. -/
def State.storesDone (s : State) (l : Nat × Nat) : Bool :=
  s.acks.all (fun a => match s.launchOf a.1 with
    | some k => k != l
    | none => false)
/-- A unit still has a command of a launch, whose accesses are its threads' (R40, R268, R278). -/
def State.unitsWork (s : State) (l : Nat × Nat) : Bool :=
  let mine := fun (o : Option (Nat × Nat)) => o == some l
  s.cores.any (fun x =>
    (x.2.qi ++ x.2.qrun).any (fun q => q.2.any (fun e => mine e.launch)) || x.2.mq.any (fun m => mine m.launch) ||
    (match x.2.mrun with
     | some m => mine m.launch
     | none => false) || x.2.rq.any (fun r => mine r.launch)) ||
  s.hubs.any (fun h => h.2.svq.any (fun m => mine m.launch))
/-- The running launch of a FIFO retires (R40, R42, R309). -/
def State.retireLaunch (s : State) (f : Nat) (l : Launch) : State :=
  let s := (s.setFifo f { s.fifo f with running := none }).freeRings (f, l.sq)
  ({ s with boot := ferase s.boot f }).complete f l.sq (if l.contained then 1 else 0) l.record
/-- LAUNCH_RETIRE at FIFO f (R40, R42). -/
def execLaunchRetire (s : State) : Res :=
  let f := s.ev.f
  .next (match (s.fifo f).running with
  | none => s
  | some l =>
    if l.halting.isSome || !l.toPlace.isEmpty || s.launchLives (f, l.sq) || s.unitsWork (f, l.sq) || !s.storesDone (f, l.sq) then s
    else s.retireLaunch f l)

/-! ## The communication reserve (R45) -/

/-- Messages that wait in the `vn.tok` buffers of a die, of its cores' inboxes and of the routers to them (assumption 112), and in the
gradient-queue windows that start there: the elements its cores have pushed that are not popped (R45, R313). -/
def State.pressure (s : State) (d : Nat) : Nat :=
  (s.net.filter (fun m => m.vn == 2 && dieOf m.dst == d)).length +
  (s.cores.map (fun x => (if dieOf x.1 == d then (x.2.inbox.filter (fun e => e.msg.vn == 2)).length else 0) +
    (x.2.gradq.filter (fun e => !e.ending && dieOf e.src == d)).length)).foldl (· + ·) 0
/-- The size of a die's reserve after a sample of its pressure (R45). -/
def Die.sized (x : Die) (p : Nat) : Nat :=
  let up := decide (x.rsvhi < p) && decide (x.n < x.rsvmax)
  let down := decide (p < x.rsvlo) && decide (min x.rsvmin x.rsvmax < x.n)
  if up == down then x.n else if up then x.n + 1 else x.n - 1
/-- The first cycle at or after `now` in which N may change: a multiple of 256, 4,096 cycles after its last change (R45). -/
def Die.nextSample (x : Die) (now : Nat) : Nat :=
  let m := match x.changed with
    | some c => max now (c + 4096)
    | none => now
  (m + 255) / 256 * 256
/-- The samples of a die in the cycles from `now` to `last`, through which its pressure stays the same (R45): at most `k` of them change N. -/
def Die.sampleTo (x : Die) (p now last k : Nat) : Die :=
  match k with
  | 0 => x
  | k + 1 =>
    let m := x.nextSample now
    if last < m ∨ x.sized p = x.n then x else ({ x with n := x.sized p, changed := some m } : Die).sampleTo p m last k
/-- Every die samples its pressure in the cycles from `now` to `last` (R45). -/
def State.sampleDies (s : State) (now last : Nat) : State :=
  (List.range 8).foldl (fun u d =>
    let x := (s.die d).sampleTo (s.pressure d) now last 64
    if x = s.die d then u else u.setDie d x) s
/-- RESERVE_SAMPLE at die q (R45): in a cycle whose number is a multiple of 256. -/
def execReserveSample (s : State) : Res :=
  let d := s.ev.q
  .next (if d < 8 ∧ s.cycle % 256 = 0 then s.setDie d ((s.die d).sampleTo (s.pressure d) s.cycle s.cycle 1) else s)

/-! ## Switches (R357, R358) -/

/-- MW_SWITCH_REQUEST (R357, R362): `mw.sw` of slot t of core q is written; a new request sets pending bit 5 (R142). -/
def execMwSwitchRequest (s : State) : Res :=
  let q := s.ev.q
  let t := s.ev.t
  let k := 8 * q + t
  .next (if !coreExists q || slotCount q ≤ t then s
    else if s.ev.on then
      if fget false s.mwSw k then s else ({ s with mwSw := fset s.mwSw k true } : State).signal q t 5
    else { s with mwSw := ferase s.mwSw k })
/-- Write the window registers of a slot's thread from a list. -/
def Core.setWindow (x : Core) (base : Nat) (l : List VReg) : Core :=
  match l with
  | [] => x
  | v :: rest => (x.setV base v).setWindow (base + 1) rest
/-- A context returns to a slot (R48, R357, R358): unmarked registers hold free values; a context that moves to another slot or core
leaves a forwarding entry for the slot it left, whoever has been there since. -/
def State.resumeIn (s : State) (q k : Nat) (a : Absent) (c t : Nat) : State :=
  let th := a.thr
  let n := s.free
  -- a late fault of the context that still awaits its reply keeps it blocked (R360)
  let blk := match s.flts.find? (fun f => f.uid == th.uid && (match f.resume with
      | .late _ => true
      | _ => false)) with
    | some f => Block.mailbox f.frec.rid
    | none => .none
  let th := { th with g := resumeG n th.g a.glive, p := resumeP n th.p a.plive, blk := blk }
  let th := match a.target with
    | some (_, d) => th.setReg d (BitVec.ofNat 64 c)
    | none => th
  let u := s.setCore q { s.core q with absent := dropAt (s.core q).absent k }
  let u := u.placeThread c t th
  let u := u.setCore c ((u.core c).setWindow (winBase th.kvwin) (resumeV n 0 a.win a.vlive))
  let u := u.setCore q { u.core q with ring := (u.core q).ring.map (fun r => if r.uid == th.uid then { r with slot := t } else r) }
  let u := { u with free := n + 64 }
  if c == q && t == a.slot then u
  else u.addFwd q { thread := true, key := a.slot, core := c, slot := t, expires := s.cycle + (s.core q).fwMig * 256, launch := th.launch }
/-- The core an absent context goes to: a core of the cluster `migr` chose with room, else its own (R21, R357). -/
def State.resumeCore (s : State) (q : Nat) (a : Absent) : Nat :=
  match a.target with
  | some (k, _) => match s.roomIn k with
    | some m => if (s.core m).windowFits a.thr.kvwin none then m else q
    | none => q
  | none => q
/-- An absent context may come back (R357): its request is withdrawn, a SCHED retry has arrived, or `migr` saved it; not while its
launch is being halted (R360). -/
def State.mayResume (s : State) (q : Nat) (a : Absent) : Bool :=
  (a.wake || a.target.isSome || !fget false s.mwSw (8 * q + a.slot)) && !s.haltingOf a.thr.launch
/-- Deliver an item parked for a context that is back (R358); what no context is left for is refused. -/
def State.unpark (s : State) (q k : Nat) (p : Parked) : State :=
  let u := s.setCore q { s.core q with parked := dropAt (s.core q).parked k }
  if ((s.core q).parked.take k).any (fun o => o.uid == p.uid) then s
  else
    match s.findUid p.uid with
    | some (c, t) =>
      match p.msg, p.res with
      | some m, _ => (u.enter c { m with dst := c, dslot := t } false).getD s
      | none, some r => (u.enterResult c t r.1 r.2 false).getD s
      | none, none => u
    | none =>
      if (s.absentOf p.uid).isSome || s.travelling p.uid then s
      else
        match p.msg with
        | some m => u.refuse m q 6
        | none => u
/-- CONTEXT_RESUME at core q (R357, R358): absent context k comes back; with `on`, parked item k is delivered. -/
def execContextResume (s : State) : Res :=
  let q := s.ev.q
  let k := s.ev.k
  .next (if s.ev.on then
      match (s.core q).parked[k]? with
      | some p => s.unpark q k p
      | none => s
    else
      match (s.core q).absent[k]? with
      | none => s
      | some a =>
        let c := s.resumeCore q a
        match if s.mayResume q a && (s.core c).windowFits a.thr.kvwin none then s.freeSlot c else none with
        | none => s
        | some t => if !(c == q && t == a.slot) && s.fwdFull q then s else s.resumeIn q k a c t)

end Sys2Proof.Machine
end

