-- ==== Sys2Proof/Machine/Manage.lean ====
section
/-! DEFINITION. The rest of the management window (R362 to R368): checkpoint and restore, frame moves, registers. -/

namespace Sys2Proof.Machine

/-! ## Checkpoint (R366) -/

/-- Offsets of the parts of a checkpoint: vaults, vault versions, vault pools, hub pools, HBM version records. -/
def ckVaults : Nat := 24 * 2 ^ 36
def ckVersions : Nat := ckVaults + 2 ^ 32
def ckPools : Nat := ckVersions + 2 ^ 29
def ckHubPools : Nat := ckPools + 128 * 16384 * 72
def ckRecords : Nat := ckHubPools + 24 * 2 ^ 20 * 72
/-- The size T with `n` records (R366). -/
def ckSize (n : Nat) : Nat := ckRecords + 16 * n + 64
/-- The physical address of a line in HBM, from its index. -/
def lineHub (i : Nat) : Option (Nat × Nat) :=
  match hbmFrame (64 * i) with
  | some (h, _) => some (h, 64 * i % 2 ^ 36)
  | none => none
/-- HBM lines with version state, in ascending stack and offset: stack, offset, state (R366). -/
def State.hbmLines (s : State) : List (Nat × Nat × LineVer) :=
  s.ver.filterMap (fun x => match lineHub x.1 with
    | some (h, o) => if x.2.c != 0 || x.2.f != 0 then some (h, o, x.2) else none
    | none => none)
/-- Every launch of the device is retired or halted (R366): none is queued or runs. -/
def State.stands (s : State) : Bool :=
  s.fifos.all (fun x => x.2.queue.isEmpty && (match x.2.running with
    | some l => l.halted
    | none => true))
/-- A region holds `n` bytes from an offset (R365, R366). -/
def State.regionHolds (s : State) (r off n : Nat) : Bool :=
  let v := (fget 0 s.mwCxl r).toNat
  decide (r < 16) && bitsN v 63 63 == 1 && decide (off + n ≤ v / 2 ^ 64)
/-- The used lines of a pool: index of the line, version, contents, oldest version of a line first. -/
def poolLines (ver : FMap LineVer) (idx : Nat → Option Nat) : List (Nat × Nat × BitVec 512) :=
  ver.flatMap (fun x => match idx x.1 with
    | some i => x.2.shadows.map (fun y => (i, y.1, y.2))
    | none => [])
/-- Write a pool of `n` lines (R366): 72 bytes a line, the free ones with index 0xFFFF_FFFF. -/
def writePool (m : Memory) (at_ n : Nat) (ls : List (Nat × Nat × BitVec 512)) : Memory :=
  let m := (ls.zip (List.range ls.length)).foldl (fun m p =>
    ((m.setBytes (at_ + 72 * p.2) (lineBytes p.1.2.2)).setNat (at_ + 72 * p.2 + 64) 4 p.1.2.1).setNat (at_ + 72 * p.2 + 68) 4 p.1.1) m
  (List.range' ls.length (n - ls.length)).foldl (fun m i => m.setNat (at_ + 72 * i + 68) 4 (2 ^ 32 - 1)) m
/-- Index of a line within vault `k`. -/
def inVault (k i : Nat) : Option Nat := if i / 2 ^ 19 = k then some (i % 2 ^ 19) else none
/-- Index of a line within stack `h`. -/
def inStack (h i : Nat) : Option Nat :=
  match lineHub i with
  | some (g, o) => if g = h then some (o / 64) else none
  | none => none
/-- Write every part of a checkpoint but its trailer (R366). -/
def State.checkpointMem (s : State) (b : Nat) : Memory :=
  let ls := s.hbmLines
  let m := s.mem.clear b (ckSize ls.length)
  let m := (List.range 24).foldl (fun m h => m.copy (b + h * 2 ^ 36) (hbmPa h 0) (2 ^ 36)) m
  let m := m.copy (b + ckVaults) 0 (2 ^ 32)
  let m := s.ver.foldl (fun m x => if x.1 < 2 ^ 26 then m.setNat (b + ckVersions + 8 * x.1) 8 (x.2.c + x.2.f * 2 ^ 32) else m) m
  let m := (List.range 128).foldl (fun m k => writePool m (b + ckPools + k * 16384 * 72) 16384 (poolLines s.ver (inVault k))) m
  let m := (List.range 24).foldl (fun m h => writePool m (b + ckHubPools + h * 2 ^ 20 * 72) (2 ^ 20) (poolLines s.ver (inStack h))) m
  (ls.zip (List.range ls.length)).foldl (fun m p =>
    m.setNat (b + ckRecords + 16 * p.2) 16 (p.1.1 * 2 ^ 59 + p.1.2.1 + p.1.2.2.c * 2 ^ 64 + p.1.2.2.f * 2 ^ 96)) m
/-- The digest of a checkpoint of `n` records at an address: over the bytes before its trailer. -/
def ckDigest (m : Memory) (b n : Nat) : Nat :=
  (Config.checkpointDigest ((m.range b (ckSize n - 64)).map (fun c => (c.1 - b, c.2)))).toNat
/-- CHECKPOINT into region W1 at offset W2 (R366). -/
def execCheckpoint (s : State) : Res :=
  let g := cmdW s.ev.data 1
  let o := cmdW s.ev.data 2
  let b := s.poolAt g o
  let n := s.hbmLines.length
  .next (if s.mwBusy then s
    else if s.stands = false then s.mwDone 1 0
    else if s.regionHolds g o (ckSize n) = false then s.mwDone 2 0
    else
      let m := s.checkpointMem b
      ({ s with mem := m.setNat (b + ckSize n - 64) 64 (ckDigest m b n),
                ckHalts := s.ckHalts.filter (fun p => p.1 != b) ++ [(b, s.halts)] } : State).mwDone 0 0)
/-- The number of records of a checkpoint at an address: the one for which the trailer is right, within the region. -/
def State.checkpointAt (s : State) (r off : Nat) : Option Nat :=
  let b := s.poolAt r off
  (List.range (s.mem.length + 1)).find? (fun n =>
    s.regionHolds r off (ckSize n) && s.mem.nat (b + ckSize n - 64) 64 == ckDigest s.mem b n)
/-- Put back the shadows of a pool of `n` lines. -/
def readPool (m : Memory) (v : FMap LineVer) (at_ n : Nat) (line : Nat → Nat) : FMap LineVer :=
  (List.range n).foldl (fun v i =>
    let k := m.nat (at_ + 72 * i + 68) 4
    if k = 2 ^ 32 - 1 then v
    else
      let l := fget {} v (line k)
      fset v (line k) { l with shadows := l.shadows ++ [(m.nat (at_ + 72 * i + 64) 4, lineOf (m.bytes (at_ + 72 * i) 64))] }) v
/-- Version state of a line read back. -/
def putVer (v : FMap LineVer) (i c f : Nat) : FMap LineVer := fset v i { fget {} v i with c := c, f := f }
/-- Write back every part of a checkpoint of `n` records (R366). -/
def State.restoreFrom (s : State) (b n : Nat) : State :=
  let m := (List.range 24).foldl (fun m h => m.copy (hbmPa h 0) (b + h * 2 ^ 36) (2 ^ 36)) s.mem
  let m := m.copy 0 (b + ckVaults) (2 ^ 32)
  let v := s.ver.filter (fun x => !(decide (x.1 < 2 ^ 26)) && (lineHub x.1).isNone)
  let ks := ((s.mem.range (b + ckVersions) (2 ^ 29)).map (fun c => (c.1 - (b + ckVersions)) / 8)).eraseDups
  let v := ks.foldl (fun v i =>
    let w := s.mem.nat (b + ckVersions + 8 * i) 8
    putVer v i (w % 2 ^ 32) (w / 2 ^ 32)) v
  let v := (List.range n).foldl (fun v i =>
    let w := s.mem.nat (b + ckRecords + 16 * i) 16
    putVer v (hbmPa (bitsN w 63 59) (bitsN w 35 0) / 64) (bitsN w 95 64) (bitsN w 127 96)) v
  let v := (List.range 128).foldl (fun v k => readPool s.mem v (b + ckPools + k * 16384 * 72) 16384 (fun i => k * 2 ^ 19 + i)) v
  let v := (List.range 24).foldl (fun v h => readPool s.mem v (b + ckHubPools + h * 2 ^ 20 * 72) (2 ^ 20) (fun i => hbmPa h 0 / 64 + i)) v
  { s with mem := m, ver := v }
/-- RESTORE from region W1 at offset W2 (R366); the halt areas among the HBM bytes hold what they held. A region that holds no checkpoint for
want of size gives status 2 (assumption 119). -/
def execRestore (s : State) : Res :=
  let g := cmdW s.ev.data 1
  let o := cmdW s.ev.data 2
  .next (if s.mwBusy then s
    else if s.stands = false then s.mwDone 1 0
    else if s.regionHolds g o (ckSize 0) = false then s.mwDone 2 0
    else
      match s.checkpointAt g o with
      | none => s.mwDone 3 0
      | some n =>
        let b := s.poolAt g o
        let hs := match s.ckHalts.find? (fun p => p.1 == b) with
          | some p => p.2
          | none => []
        ({ s.restoreFrom b n with halts := hs } : State).mwDone 0 0)

/-! ## Frame moves (R368) -/

/-- FRAME_MOVE_BEGIN of frame W2 of hub W1 (R226, R227, R368): its requests are held, copies and leases of it recalled. -/
def execFrameMoveBegin (s : State) : Res :=
  let h := cmdW s.ev.data 1
  let k := cmdW s.ev.data 2
  .next (if s.mwBusy then s
    else if 24 ≤ h ∨ 2 ^ 20 ≤ k then s.mwDone 0 0
    else
      let x := s.hub h
      let mine := fun (p : Nat × Nat × Nat × Bool) => p.2.1 == h && p.2.2.1 == k
      let s := s.setHub h { x with heldFrames := if x.heldFrames.contains k then x.heldFrames else x.heldFrames ++ [k] }
      ({ s with
        peerInval := s.peerInval ++ (s.peerCopies.filter mine).map (fun p => (p.1, h, k))
        -- a lease ends when its piece comes back
        peerCopies := s.peerCopies.filter (fun p => !(mine p && !p.2.2.2)) } : State).mwDone 0 0)
/-- Install the forwarding pointer of frame `k` of hub `h` to a target and its type (R368): the version state and shadows move, and requests
go on. Status 1 when the hub's pointer area is full, or the target is none. -/
def State.moveFrame (s : State) (h k tgt ty : Nat) : State :=
  match s.targetBase tgt (ty % 4) with
  | none => s.mwDone 1 0
  | some b =>
    let x := s.hub h
    if (fget? x.pointers k).isNone && decide (65536 ≤ x.pointers.length) then s.mwDone 1 0
    else
      let a := hbmPa h (k * 2 ^ 16)
      let s := s.copyPiece (s.pooled b) a
      let s := { s with ver := s.ver.filter (fun v => !(decide (a / 64 ≤ v.1) && decide (v.1 < a / 64 + 1024))) }
      let x := s.hub h
      (s.setHub h { x with heldFrames := x.heldFrames.filter (fun j => j != k), pointers := fset x.pointers k b }).mwDone 0 0
/-- FRAME_MOVE_END of frame W2 of hub W1 to target W3 of type W4 (R363, R368); a lease still out keeps it waiting, and with `on` it goes
on. -/
def execFrameMoveEnd (s : State) : Res :=
  .next (match s.cmdBlock with
  | none => s
  | some b =>
    let h := cmdW b 1
    let k := cmdW b 2
    if 24 ≤ h ∨ 2 ^ 20 ≤ k then s.mwDone 0 0
    else if s.peerCopies.any (fun p => p.2.1 == h && p.2.2.1 == k && p.2.2.2) then s.mwGoes b
    else s.moveFrame h k (cmdW b 3) (cmdW b 4))

/-! ## Registers (R362, R367) -/

/-- MW_FAB_WRITE of v (R367): ignored when the sizes make more than 8,192 devices. -/
def execMwFabWrite (s : State) : Res :=
  .next (if (fabSizes s.ev.v).foldl (· * ·) 1 ≤ 8192 then { s with mwFab := s.ev.v } else s)
/-- A launch is queued, running or halted. -/
def State.anyLaunch (s : State) : Bool := s.fifos.any (fun x => !x.2.queue.isEmpty || x.2.running.isSome)
/-- Set the page-cache area of a hub: what it held is dropped, leased pieces written back (R225, R227). -/
def State.setPcsz (s : State) (h n : Nat) : State :=
  let ts := (s.hub h).tags.flatMap (fun t => t.2)
  ts.foldl (fun s t => s.dropPiece t) (s.setHub h { s.hub h with pcsz := n, tags := [] })
/-- N stays within its bounds when they are written (R45). -/
def Die.bounded (d : Die) : Die := { d with n := max (min d.rsvmin d.rsvmax) (min d.n d.rsvmax) }
/-- Write word `w` of a die's controls (R45, R293, R352, R372); a value outside the register's range is ignored. -/
def Die.write (d : Die) (w v : Nat) : Die :=
  match w with
  | 0 => if v ≤ 32 then ({ d with rsvmin := v } : Die).bounded else d
  | 1 => if v ≤ 32 then ({ d with rsvmax := v } : Die).bounded else d
  | 2 => if v < 2 ^ 16 then { d with rsvhi := v } else d
  | 3 => if v < 2 ^ 16 then { d with rsvlo := v } else d
  | 4 => if v < 2 ^ 20 then { d with dlto := v } else d
  | 5 => if v < 2 ^ 20 then { d with fltto := v } else d
  | 6 => { d with thr := v % 2 ^ 16 }
  | _ => d
/-- Write a 64-bit half of a 128-bit register. -/
def setHalf (x : BitVec 128) (hi : Bool) (v : Word) : BitVec 128 :=
  BitVec.ofNat 128 (if hi then x.toNat % 2 ^ 64 + v.toNat * 2 ^ 64 else x.toNat / 2 ^ 64 * 2 ^ 64 + v.toNat)
/-- MW_REGISTER_WRITE of v at offset k of the window (R362). -/
def execMwRegisterWrite (s : State) : Res :=
  let a := s.ev.k
  let v := s.ev.v.toNat
  .next (if a % 8 ≠ 0 then s
    else if 0x1000 ≤ a ∧ a < 0x10C0 then
      (if s.anyLaunch ∨ 524288 < v ∨ v % 8 ≠ 0 then s else s.setPcsz ((a - 0x1000) / 8) v)
    else if a = 0x1100 then { s with mwFltoff := BitVec.ofNat 64 (v / 65536 * 65536) }
    else if a = 0x1110 then { s with mwPol := BitVec.ofNat 64 (v % 2) }
    else if 0x1200 ≤ a ∧ a < 0x1200 + 8 * 2240 then
      (if s.anyLaunch ∨ 256 < v then s else { s with mwOvf := fset s.mwOvf ((a - 0x1200) / 8) s.ev.v })
    else if 0x30000 ≤ a ∧ a < 0x30200 then
      s.setDie ((a - 0x30000) / 64) ((s.die ((a - 0x30000) / 64)).write ((a - 0x30000) / 8 % 8) v)
    else if 0x31000 ≤ a ∧ a < 0x31100 then
      (let r := (a - 0x31000) / 16
       { s with mwCxl := fset s.mwCxl r (setHalf (fget 0 s.mwCxl r) ((a - 0x31000) / 8 % 2 == 1) s.ev.v) })
    else s)

/-- Word `w` of a die's controls, the eighth zero (R362). -/
def Die.read (d : Die) (w : Nat) : Nat :=
  match w with
  | 0 => d.rsvmin
  | 1 => d.rsvmax
  | 2 => d.rsvhi
  | 3 => d.rsvlo
  | 4 => d.dlto
  | 5 => d.fltto
  | 6 => d.thr
  | _ => 0
/-- The word the host reads at an offset of the management window (R10, R37, R362): 0 where nothing is listed, and at the push and command
blocks, of which no read is described (DESIGN CHOICE, assumption 108). A read changes nothing. -/
def State.mwRead (s : State) (a : Nat) : Word :=
  let n :=
    if a % 8 ≠ 0 then 0
    else if 0x400 ≤ a ∧ a < 0x500 then
      let x := s.fifo ((a - 0x400) / 16)
      if a / 8 % 2 = 0 then x.pushed % 2 ^ 27 + (32 - x.queue.length) * 2 ^ 32 else x.done % 2 ^ 27
    else if a = 0x840 then s.mwCst.toNat
    else if 0x1000 ≤ a ∧ a < 0x10C0 then (s.hub ((a - 0x1000) / 8)).pcsz
    else if a = 0x1100 then s.mwFltoff.toNat
    else if a = 0x1108 then s.mwFab.toNat
    else if a = 0x1110 then s.mwPol.toNat
    else if 0x1200 ≤ a ∧ a < 0x1200 + 8 * 2240 then (fget 1 s.mwOvf ((a - 0x1200) / 8)).toNat
    else if 0x6000 ≤ a ∧ a < 0x6000 + 8 * 8 * 2240 then (if fget false s.mwSw ((a - 0x6000) / 8) then 1 else 0)
    else if 0x30000 ≤ a ∧ a < 0x30200 then (s.die ((a - 0x30000) / 64)).read ((a - 0x30000) / 8 % 8)
    else if 0x31000 ≤ a ∧ a < 0x31100 then (fget 0 s.mwCxl ((a - 0x31000) / 16)).toNat / 2 ^ (64 * (a / 8 % 2)) % 2 ^ 64
    else if 0x32000 ≤ a ∧ a < 0x32000 + 1952 then leNat ((List.range 8).map (fun i => Config.identityKey (a - 0x32000 + i)))
    else 0
  BitVec.ofNat 64 n

end Sys2Proof.Machine
end

