-- ==== Sys2Proof/Machine/Outside.lean ====
section
/-! DEFINITION. What reaches the device from outside (R224 to R227, R345 to R347, R365, R367, R368, R372): other devices' accesses and
messages, leases, links, temperature, errors, reset and power. -/

namespace Sys2Proof.Machine

/-! ## Copies this device holds (R225 to R227) -/

/-- Drop the copy of a piece that this device holds, a read-only one or a lease, with the tag of every hub. -/
def State.dropCopies (s : State) (r h f : Nat) (lease : Bool) : State :=
  match s.tagOf r h f with
  | some t =>
    if t.lease == lease then
      ({ s with hubs := fvals s.hubs (fun x => { x with tags := fvals x.tags (fun l => l.filter (fun y => !y.holds r h f)) }) } : State).dropPiece t
    else s
  | none => s
/-- INVALIDATION from the owner, rank q, of frame k of hub f (R226): the read-only copy is dropped. -/
def execInvalidation (s : State) : Res := .next (s.dropCopies s.ev.q s.ev.f s.ev.k false)
/-- LEASE_RECALL (R227): the owner, rank q, recalls the lease of frame k of its hub f, which is written back with its version state
and dropped; with `on`, rank q gives back its lease of frame k of this device's hub f. -/
def execLeaseRecall (s : State) : Res :=
  .next (if s.ev.on then { s with peerCopies := s.peerCopies.filter (fun p => p != (s.ev.q, s.ev.f, s.ev.k, true)) }
    else s.dropCopies s.ev.q s.ev.f s.ev.k true)
/-- PAGE_CACHE_FILL of fill k (R225, R246): the piece a prefetch asked for arrives; one that cannot be reached is dropped. -/
def execPageCacheFill (s : State) : Res :=
  .next (match s.fills[s.ev.k]? with
  | none => s
  | some (g, p, r, h, f, lease) =>
    let u := { s with fills := dropAt s.fills s.ev.k }
    if s.reachable r && (s.hub g).pcsz != 0 then u.fillPiece g p r h f lease else u)

/-! ## Accesses of other devices (R226, R227, R243, R368) -/

/-- A write of rank `q` to an HBM frame: the other devices' read-only copies are invalidated (R226). -/
def State.peerNote (s : State) (q pa : Nat) : State :=
  match hbmFrame pa with
  | none => s
  | some (h, f) =>
    let hit := fun (x : Nat × Nat × Nat × Bool) => x.1 != q && x.2.1 == h && x.2.2.1 == f && !x.2.2.2
    { s with peerInval := s.peerInval ++ (s.peerCopies.filter hit).map (fun x => (x.1, h, f)),
             peerCopies := s.peerCopies.filter (fun x => !hit x) }
/-- Write bytes for rank `q`. -/
def State.peerWrite (s : State) (q pa : Nat) (b : List Byte) : State :=
  ({ s with mem := s.mem.setBytes pa b } : State).peerNote q pa
/-- Perform a request of another device at an address (R226, R227, R231 to R243): op 0 load, 1 store, 2 to 9 the atomics of R240, 10
`acas`, 11 `stx`, 12 `vrcl` of one line, 13 `ldx` or `vqry`, 14 a read-only copy, 15 a lease. A versioned store that finds the shadow
pool full has to wait. -/
def State.peerDo (s : State) (a : EvArgs) (pa : Nat) : Option State :=
  let op := a.t % 16
  let line := pa / 64 * 64
  if op = 0 ∨ op = 13 then some s
  else if op = 1 then some (s.peerWrite a.q pa (leBytes (2 ^ (a.t / 16 % 4)) a.v.toNat))
  else if op ≤ 10 then
    let pa := pa / 8 * 8
    some (match atomicNew (op - 2) (BitVec.ofNat 64 (s.mem.nat pa 8)) a.v a.w with
      | some w => s.peerWrite a.q pa (leBytes 8 w.toNat)
      | none => s)
  else if op = 11 then
    let l := s.line line
    let v := a.v.toNat % 2 ^ 32
    if v ≤ l.c then some s
    else if l.f < v ∧ s.poolFull (s.poolOf line) = true then none
    else
      let sh := if l.f < v then l.shadows ++ [(l.c, s.lineData line)] else l.shadows
      some (((s.peerWrite a.q line (lineBytes a.data)).setLine line { l with c := v, shadows := sh }).wakeLdx line)
  else if op = 12 then
    let l := s.line line
    let v := a.v.toNat % 2 ^ 32
    let s := s.setLine line { l with f := max l.f v, shadows := keepShadows l.shadows l.c v }
    some (s.releaseStalls s.stalls)
  else
    match hbmFrame pa with
    | none => some s
    | some (h, f) =>
      let c := (a.q, h, f, op == 15)
      some (if s.peerCopies.contains c then s else { s with peerCopies := s.peerCopies ++ [c] })
/-- A request finds its frame held by a move, or leased by another device (R227, R368). -/
def State.peerWaits (s : State) (a : EvArgs) (pa : Nat) : Bool :=
  match hbmFrame pa with
  | none => false
  | some (h, f) =>
    (s.hub h).heldFrames.contains f || s.peerCopies.any (fun x => x.2.1 == h && x.2.2.1 == f && x.2.2.2 && x.1 != a.q)
/-- Memory that other agents share with the device, by the event's f: 24 the host's, 32 to 47 a region of the pool, 64 and up a
stack of rank q. -/
def State.sharedAt (s : State) (a : EvArgs) : Option Nat :=
  if a.f = 24 then some (hostPa (a.k % 2 ^ 52))
  else if 32 ≤ a.f ∧ a.f < 48 then some (s.poolAt (a.f - 32) (a.k % 2 ^ 52))
  else if 64 ≤ a.f ∧ a.f < 88 then some (peerPa a.q (a.f - 64) (a.k % 2 ^ 36))
  else none
/-- The device holds a lease of a peer's piece: other users of it wait for the recall (R227). -/
def State.leasedHere (s : State) (pa : Nat) : Bool :=
  match peerFrame pa with
  | some (r, h, f) => (s.tagOf r h f).any (fun t => t.lease)
  | none => false
/-- PEER_ACCESS_REQUEST (R226, R227, R243, R368): rank q accesses offset k of stack f; held while its frame is being moved or is
leased by another, and after a move performed at the new holder. With `on`, held request k is served. An f above the stacks is
memory outside the device that its other users change: by plain stores, atomics, and on a peer's stack versioned stores (R272, R275). -/
def execPeerAccessRequest (s : State) : Res :=
  let one := fun (s : State) (a : EvArgs) =>
    match s.sharedAt a with
    | some pa =>
      if s.leasedHere pa then none
      else if (11 ≤ a.t % 16 ∧ a.f < 64) then some s else s.peerDo a pa
    | none =>
      if 24 ≤ a.f ∨ 2 ^ 36 ≤ a.k ∨ a.q = s.rank ∨ s.rankExists a.q = false then some s
      else
        let pa := s.pooled (s.moved (hbmPa a.f a.k) 16)
        if s.peerWaits a pa then none else s.peerDo a pa
  .next (if s.ev.on then
      match s.peerHeld[s.ev.k]? with
      | some a => (one { s with peerHeld := dropAt s.peerHeld s.ev.k } a).getD s
      | none => s
    else (one s s.ev).getD { s with peerHeld := s.peerHeld ++ [{ s.ev with on := false }] })

/-! ## Links (R345, R367) -/

/-- LINK_RETRAIN of link k (R345, R367). -/
def execLinkRetrain (s : State) : Res := .next (if s.ev.k < 12 then s.lifeAdd 1 s.ev.k 5 else s)
/-- LINK_DOWN (R365, R367): link k, the node of rank k − 4,096, or from 2^20 on link k mod 16 of the device of rank (k − 2^20) / 16, goes
down, or the pool device at port k − 16,384 refuses accesses for lack of capacity; without `on`, it is up again. -/
def execLinkDown (s : State) : Res :=
  let k := s.ev.k
  .next (if s.ev.on then (if s.linksDown.contains k then s else { s with linksDown := s.linksDown ++ [k] })
    else { s with linksDown := s.linksDown.filter (fun j => j != k) })
/-! ## Temperature and power (R347, R372) -/

/-- THERMAL_THROTTLE (R345, R372): the sensor of die f, or with k = 1 of hub f, reads t °C; crossing the throttle temperature, up or
down, is a thermal excursion. -/
def execThermalThrottle (s : State) : Res :=
  let hub := s.ev.k == 1
  let d := if hub then s.ev.f / 3 else s.ev.f
  let id := if hub then 1 + s.ev.f else 0
  let x := s.die d
  .next (if 8 ≤ d then s
    else
      let u := s.setDie d { x with temps := fset x.temps id s.ev.t }
      if x.above (fget 0 x.temps id) = x.above s.ev.t then u
      else if hub then (List.range 8).foldl (fun s i => s.lifeAdd 0 (ocore s.ev.f i) 4) (u.lifeAdd 2 s.ev.f 4)
      else (List.range 256).foldl (fun s i => s.lifeAdd 0 (256 * d + i) 4) u)
/-- Contain the running launch of every FIFO, which retires with status 1 (R42, R359). -/
def State.containAll (s : State) : State :=
  (List.range 16).foldl (fun s f => match (s.fifo f).running with
    | some l => (s.containLaunch (f, l.sq)).retireLaunch f { l with contained := true }
    | none => s) s
/-- THERMAL_SHUTDOWN (R372): with a sensor at the shutdown temperature of its die, every launch is contained, the lifetime record
written, and the device powers down. -/
def execThermalShutdown (s : State) : Res :=
  let u := s.containAll
  .next (if s.dies.any (fun d => d.2.tooHot) then { u with lifeLog := u.life, on := false } else s)
/-- LIFETIME_LOG (R347): the live counts are written to the persistent log in each cycle whose number is a multiple of 2^24. -/
def execLifetimeLog (s : State) : Res := .next (if s.cycle % 2 ^ 24 = 0 then { s with lifeLog := s.life } else s)
/-- LOSS_OF_POWER (R347): the record is as it was last written. -/
def execLossOfPower (s : State) : Res := .next { s with life := s.lifeLog, on := false }
/-- An address outside the device. -/
def outside (a : Nat) : Bool := (decide (2 ^ 60 ≤ a) && decide (a < 2 ^ 80)) || decide (2 ^ 90 ≤ a)
/-- DEVICE_RESET: the state after reset; the lifetime record, power-on time (R347) and temperatures stand, and what lies outside the
device. -/
def execDeviceReset (s : State) : Res :=
  .next { State.reset with
    mem := s.mem.filter (fun c => outside c.1), ver := s.ver.filter (fun x => outside (64 * x.1))
    dies := s.dies.map (fun d => (d.1, { temps := d.2.temps })), life := s.life, lifeLog := s.lifeLog, powerOn := s.powerOn + s.cycle
    ckHalts := s.ckHalts, linksDown := s.linksDown, inputs := s.inputs, sched := s.sched, free := s.free, nextUid := s.nextUid }

end Sys2Proof.Machine
end

