-- ==== Sys2Proof/Machine/Queues.lean ====
section
/-! DEFINITION. Gradient queues (R313 to R315) and task queues (R34 to R36, R316). -/

namespace Sys2Proof.Machine

/-! ## Gradient queues -/

/-- Credits of a thread at an optimiser core (R313). -/
def Thread.credit (t : Thread) (oc : Nat) : Nat := fget 64 t.credits oc
/-- A thread with a number of credits. -/
def Thread.setCredit (t : Thread) (oc n : Nat) : Thread := { t with credits := fset t.credits oc n }
/-- How the pushing core judges a push by its copies (R314): its slot's activation, or a refusal's reason. -/
def Core.judgePush (x : Core) (name st : Nat) : Except Nat Activation :=
  match fget? x.acts name with
  | none => .error 4
  | some a => if st < a.wver || (st == a.wver && a.fin) then .error 2 else if a.wver < st then .error 3 else .ok a
/-- `gqpush` (R286, R313, R314): judged at the pushing core; without a credit at the core of the slot's owner stack it blocks. A push
that is refused never leaves, and gives its credit back. -/
def execGqpush (a : GOp) (b : GPair) (s : State) : Res :=
  let d0 := s.rdN (2 * b.val)
  let d1 := s.rdN (2 * b.val + 1)
  let name := d0 % 2 ^ 20
  let st := d0 / 2 ^ 20 % 2 ^ 32
  let line := d1 % 2 ^ 32
  let last := d1 / 2 ^ 63 == 1
  let ea := s.rd a.n.val
  let j := s.here.judgePush name st
  let oc := match j with
    | .ok act => ocore act.ostack (line % 8)
    | .error _ => s.cur.core
  let broke := match fget? s.here.acts name with
    | some act => s.me.credit (ocore act.ostack (line % 8)) == 0
    | none => false
  let reason := match j with
    | .ok _ => 0
    | .error r => r
  .next (if a.w.val = 0 ∧ badRange ea then s.fault cADDRRNG 1 ea.toNat 0
    else if a.w.val = 0 ∧ ea.toNat % 64 ≠ 0 then s.fault cALIGN 1 ea.toNat 0
    else if broke then s.waits
    else if s.outFull then s.sqfull 2
    else if s.me.unsettled then s.waits
    else
      let (s, mid) := (s.released s.me.uid).nextMid
      let body : SysMsg := match j with
        | .ok act => .gradient name st line last act.j act.gfmt false
        | .error _ => .none
      let m : Msg := { kind := 0, vn := 2, tag := name, mid := mid, reason := reason, ddev := s.rank, dst := oc, dslot := 15, sys := body }
      let s := match j with
        | .ok act =>
          let s := s.modMe (fun t => t.setCredit oc (t.credit oc - 1))
          if last then s.modHere (fun x => { x with acts := fset x.acts name { act with fin := true } }) else s
        | .error _ => s
      if a.w.val = 0 then s.postFrom m ea.toNat 1 false
      else s.post { m with flits := [s.regFlit a] } true false)
/-- An element of a queue on its way to an optimiser core: in the network, or in an outbox. -/
def Msg.elementFor (m : Msg) (oc name st : Nat) : Bool :=
  m.reason == 0 && m.dst == oc && (match m.sys with
    | .gradient n t _ _ _ _ e => n == name && t == st && !e
    | _ => false)
/-- GRADIENT_ELEMENT_ARRIVAL of network message k (R313, R315): into the gradient queue; an end element comes after every element
routed to the core. -/
def execGradientElementArrival (s : State) : Res :=
  .next (match s.arriving with
  | some m =>
    match m.sys with
    | .gradient name st line last j gfmt ending =>
      let c := m.dst
      if ending && (s.net.any (fun o => o.elementFor c name st) ||
          s.cores.any (fun x => x.2.outbox.any (fun o => o.msg.elementFor c name st))) then s
      else
        let s := s.unNet m.uid
        let s := if ending || last then s else { s with pushes := s.pushes.erase (m.suid, name, st) }
        s.setCore c { s.core c with gradq := (s.core c).gradq ++
          [{ name := name, step := st, line := line, last := last, j := j, gfmt := gfmt, ending := ending, data := m.flits.headD 0,
             suid := m.suid, src := m.src }] }
    | _ => s
  | none => s.turnedAway)
/-- A credit goes back to the context that pushed, wherever it is (R313). -/
def State.returnCredit (s : State) (uid oc : Nat) : State :=
  s.modUid uid (fun t => t.setCredit oc (min 64 (t.credit oc + 1)))
/-- The descriptor `gqpop` writes (R315). -/
def GradElem.word (e : GradElem) : Word :=
  BitVec.ofNat 64 (e.line % 2 ^ 32 + e.gfmt % 16 * 2 ^ 32 + e.j % 8 * 2 ^ 40 + (if e.last then 2 ^ 62 else 0) +
    (if e.ending then 2 ^ 63 else 0))
/-- `gqpop` (R315): the oldest matching element; it returns a credit. -/
def execGqpop (d : GOct) (a b : R) (look : Look) (s : State) : Res :=
  let sel := s.rdN a.val
  .next (if !isOpt s.cur.core then s.faultSelf cGQCORE
    else
      match s.here.gradq.find? (fun e => e.name == sel % 2 ^ 20 && e.step == sel / 2 ^ 20 % 2 ^ 32) with
      | none => s.waits
      | some e =>
        let u := s.modHere (fun x => { x with gradq := x.gradq.erase e })
        let u := if e.ending then u else u.returnCredit e.suid s.cur.core
        u.addOut ((List.range 8).map (fun k => .g (8 * d.val + k)) ++ [.g b.val]) look.val .ready
          (.words ((List.range 8).map (fun k => lineWord e.data k) ++ [e.word])))

/-! ## Task queues -/

/-- The cluster a key address selects (R35). -/
def State.keyCluster (s : State) (c h a : Nat) : Nat :=
  let other := (bitsN a 22 16) ^^^ (bitsN a 29 23) ^^^ (bitsN a 36 30) ^^^ (bitsN a 43 37) ^^^ (bitsN a 50 44) ^^^ (bitsN a 51 51)
  if a < 2 ^ 32 then a / 2 ^ 25
  else if 2 ^ 52 ≤ a then other
  else
    match s.lookup c h a false with
    | (_, .ok e) => (match hbmFrame (e.target + (a - e.vbase * 2 ^ 16)) with
      | some (j, _) => hubCluster j
      | none => other)
    | (_, .error _) => other
/-- A record of a queue comes after one that arrives in its cycle from a core of lower number (R36). -/
def TaskRec.after (o r : TaskRec) : Bool := o.since == r.since && decide (r.src < o.src)
/-- A record among those that have arrived before it (R36). -/
def insertTask (l : List TaskRec) (r : TaskRec) : List TaskRec :=
  l.filter (fun o => !o.after r) ++ r :: l.filter (fun o => o.after r)
/-- The records of a queue spread over it, its overflow store and the network as they were, in another order. -/
def Cluster.respread (x : Cluster) (l : List TaskRec) : Cluster :=
  { x with
    taskq := l.take x.taskq.length
    taskOver := (l.drop x.taskq.length).take x.taskOver.length
    taskWait := l.drop (x.taskq.length + x.taskOver.length) }
/-- A record arrives at its cluster's queue (R36, R316): beyond 512 records it waits in the overflow store of the lowest core. -/
def State.joinLast (s : State) (k : Nat) (r : TaskRec) : State :=
  let x := s.cluster k
  if x.taskq.length < 512 && x.taskOver.isEmpty && x.taskWait.isEmpty then s.setCluster k { x with taskq := x.taskq ++ [r] }
  else if x.taskWait.isEmpty && s.spillRoom (coreAt k 0) (storeBytes 64) then s.setCluster k { x with taskOver := x.taskOver ++ [r] }
  else s.setCluster k { x with taskWait := x.taskWait ++ [r] }
/-- A record joins its cluster's queue in its place: records of one cycle are ordered by their cores' numbers (R36). -/
def State.joinTask (s : State) (k : Nat) (r : TaskRec) : State :=
  let x := s.cluster k
  let l := x.taskq ++ x.taskOver ++ x.taskWait
  let u := s.joinLast k r
  if l.any (fun o => o.after r) then u.setCluster k ((u.cluster k).respread (insertTask l r)) else u
/-- TASK_QUEUE_JOIN for cluster k (R316): the oldest record outside the queue moves on as room frees. -/
def execTaskQueueJoin (s : State) : Res :=
  let k := s.ev.k
  let x := s.cluster k
  .next (if x.taskq.length < 512 then
      match x.taskOver, x.taskWait with
      | r :: rest, _ => s.setCluster k { x with taskq := x.taskq ++ [r], taskOver := rest }
      | [], r :: rest => s.setCluster k { x with taskq := x.taskq ++ [r], taskWait := rest }
      | [], [] => s
    else
      match x.taskWait with
      | r :: rest =>
        if s.spillRoom (coreAt k 0) (storeBytes 64) then s.setCluster k { x with taskOver := x.taskOver ++ [r], taskWait := rest } else s
      | [] => s)
/-- A continuation record from its eight words (R34, R316). -/
def State.taskRec (s : State) (ws : List Word) : TaskRec :=
  { pc := ws.getD 0 0, key := ws.getD 1 0, args := ws.drop 2, launch := s.me.launch, cont := s.me.cont, since := s.cycle, src := s.cur.core }
/-- Post records in order. -/
def State.postTasks (s : State) (rs : List TaskRec) : State :=
  match rs with
  | [] => s
  | r :: rest => (s.joinTask (s.keyCluster s.cur.core s.me.cont r.key.toNat) r).postTasks rest
/-- `postc` (R34, R35, R316): the records go to their clusters' queues and the thread retires. -/
def execPostc (a : GOp) (b : R) (s : State) : Res :=
  let ea := s.rd a.n.val
  let count := s.rdN b.val
  let post := fun (u : State) (rs : List (List Word)) =>
    if rs.any (fun ws => decide ((ws.getD 1 0).toNat < 2 ^ 52) && u.walkHeld u.cur.core u.me.cont (ws.getD 1 0).toNat) then s.waits
    else s.thenGo ((u.released u.me.uid).postTasks (rs.map u.taskRec)) (fun v => v.retire)
  .next (if s.taskCap s.cur.core = false then s.faultSelf cCAPTASK
    else if a.w.val ≠ 0 then (if s.me.unsettled then s.waits else post s [s.rdG a])
    else if badRange ea then s.fault cADDRRNG 1 ea.toNat 0
    else if ea.toNat % 64 ≠ 0 then s.fault cALIGN 1 ea.toNat 0
    else if count < 1 ∨ 4 < count then s.fault cTQREC 2 0 0
    else
      match s.image ea.toNat (64 * count) with
      | (u, none) => u
      | (u, some l) => post u ((List.range count).map (fun k =>
          (List.range 8).map (fun i => BitVec.ofNat 64 (leNat ((l.drop (64 * k + 8 * i)).take 8))))))
/-- `tqtake` (R36, R46, R316): 0 started, 1 empty, 2 no slot free; a reserved core starts none, nor does a
launch that is being halted (R360). -/
def execTqtake (d : R) (s : State) : Res :=
  let c := s.cur.core
  let k := clusterOf c
  let x := s.cluster k
  .next (match x.taskq with
  | [] => s.wrN d.val 1
  | r :: rest =>
    match if s.reserved c || s.haltingOf r.launch then none else s.freeSlot c with
    | none => s.wrN d.val 2
    | some t =>
      let regs := [r.key] ++ r.args.take 5 ++ [0, r.args.getD 5 0]
      let th : Thread := { g := octetRegs regs, pc := r.pc, krole := 1, launch := r.launch, cont := r.cont }
      ((s.setCluster k { x with taskq := rest }).startThread c t th).wrN d.val 0)

end Sys2Proof.Machine
end

