-- ==== Sys2Proof/Machine/Dispatch.lean ====
section
/-! DEFINITION. One arm per constructor of Instr: each calls its meaning. -/

namespace Sys2Proof.Machine

/-- What an instruction or event does. -/
def exec (i : Instr) (s : State) : Host.Outcome State Fault Refusal :=
  match i with
  | .add d a b => Sys2Proof.Machine.execAdd d a b s
  | .sub d a b => Sys2Proof.Machine.execSub d a b s
  | .and d a b => Sys2Proof.Machine.execAnd d a b s
  | .or d a b => Sys2Proof.Machine.execOr d a b s
  | .xor d a b => Sys2Proof.Machine.execXor d a b s
  | .shl d a b => Sys2Proof.Machine.execShl d a b s
  | .shr d a b => Sys2Proof.Machine.execShr d a b s
  | .sra d a b => Sys2Proof.Machine.execSra d a b s
  | .shli d a sh => Sys2Proof.Machine.execShli d a sh s
  | .shri d a sh => Sys2Proof.Machine.execShri d a sh s
  | .srai d a sh => Sys2Proof.Machine.execSrai d a sh s
  | .slt d a b => Sys2Proof.Machine.execSlt d a b s
  | .sltu d a b => Sys2Proof.Machine.execSltu d a b s
  | .seq d a b => Sys2Proof.Machine.execSeq d a b s
  | .min d a b => Sys2Proof.Machine.execMin d a b s
  | .minu d a b => Sys2Proof.Machine.execMinu d a b s
  | .max d a b => Sys2Proof.Machine.execMax d a b s
  | .maxu d a b => Sys2Proof.Machine.execMaxu d a b s
  | .mul d a b => Sys2Proof.Machine.execMul d a b s
  | .mulh d a b => Sys2Proof.Machine.execMulh d a b s
  | .mulhu d a b => Sys2Proof.Machine.execMulhu d a b s
  | .clz d a => Sys2Proof.Machine.execClz d a s
  | .popc d a => Sys2Proof.Machine.execPopc d a s
  | .bext d a b => Sys2Proof.Machine.execBext d a b s
  | .bdep d a b => Sys2Proof.Machine.execBdep d a b s
  | .sel d a b => Sys2Proof.Machine.execSel d a b s
  | .lea k d a b => Sys2Proof.Machine.execLea k d a b s
  | .addsat lw sg d a b => Sys2Proof.Machine.execAddsat lw sg d a b s
  | .subsat lw sg d a b => Sys2Proof.Machine.execSubsat lw sg d a b s
  | .addi d a imm => Sys2Proof.Machine.execAddi d a imm s
  | .andi d a imm => Sys2Proof.Machine.execAndi d a imm s
  | .ori d a imm => Sys2Proof.Machine.execOri d a imm s
  | .xori d a imm => Sys2Proof.Machine.execXori d a imm s
  | .slti d a imm => Sys2Proof.Machine.execSlti d a imm s
  | .movi d imm => Sys2Proof.Machine.execMovi d imm s
  | .movhi d imm => Sys2Proof.Machine.execMovhi d imm s
  | .addl d a imm => Sys2Proof.Machine.execAddl d a imm s
  | .andl d a imm => Sys2Proof.Machine.execAndl d a imm s
  | .orl d a imm => Sys2Proof.Machine.execOrl d a imm s
  | .xorl d a imm => Sys2Proof.Machine.execXorl d a imm s
  | .div d a b look => Sys2Proof.Machine.execDiv d a b look s
  | .divu d a b look => Sys2Proof.Machine.execDivu d a b look s
  | .rem d a b look => Sys2Proof.Machine.execRem d a b look s
  | .remu d a b look => Sys2Proof.Machine.execRemu d a b look s
  | .br disp => Sys2Proof.Machine.execBr disp s
  | .bz a disp => Sys2Proof.Machine.execBz a disp s
  | .bnz a disp => Sys2Proof.Machine.execBnz a disp s
  | .brdec a disp => Sys2Proof.Machine.execBrdec a disp s
  | .call disp => Sys2Proof.Machine.execCall disp s
  | .jr d a => Sys2Proof.Machine.execJr d a s
  | .jmp disp => Sys2Proof.Machine.execJmp disp s
  | .callLong disp => Sys2Proof.Machine.execCallLong disp s
  | .ld t base look sz off => Sys2Proof.Machine.execLd t base look sz off s
  | .ldAcq t base look sz off => Sys2Proof.Machine.execLdAcq t base look sz off s
  | .st t base sz off => Sys2Proof.Machine.execSt t base sz off s
  | .stRel t base sz off => Sys2Proof.Machine.execStRel t base sz off s
  | .ldLong t base look sz acq off => Sys2Proof.Machine.execLdLong t base look sz acq off s
  | .stLong t base sz rel off => Sys2Proof.Machine.execStLong t base sz rel off s
  | .ldx d a b look => Sys2Proof.Machine.execLdx d a b look s
  | .stx d a b => Sys2Proof.Machine.execStx d a b s
  | .vrcl a b => Sys2Proof.Machine.execVrcl a b s
  | .vqry d a look => Sys2Proof.Machine.execVqry d a look s
  | .aadd d a b look => Sys2Proof.Machine.execAadd d a b look s
  | .afadd d a b look => Sys2Proof.Machine.execAfadd d a b look s
  | .amin d a b look => Sys2Proof.Machine.execAmin d a b look s
  | .amax d a b look => Sys2Proof.Machine.execAmax d a b look s
  | .aand d a b look => Sys2Proof.Machine.execAand d a b look s
  | .aor d a b look => Sys2Proof.Machine.execAor d a b look s
  | .axor d a b look => Sys2Proof.Machine.execAxor d a b look s
  | .axch d a b look => Sys2Proof.Machine.execAxch d a b look s
  | .acas d a look => Sys2Proof.Machine.execAcas d a look s
  | .ldv v k look => Sys2Proof.Machine.execLdv v k look s
  | .stv v k => Sys2Proof.Machine.execStv v k s
  | .ldvAdv v k look => Sys2Proof.Machine.execLdvAdv v k look s
  | .stvAdv v k => Sys2Proof.Machine.execStvAdv v k s
  | .fenceFull scope => Sys2Proof.Machine.execFenceFull scope s
  | .fenceAcq scope => Sys2Proof.Machine.execFenceAcq scope s
  | .fenceRel scope => Sys2Proof.Machine.execFenceRel scope s
  | .pfetchTlb a => Sys2Proof.Machine.execPfetchTlb a s
  | .pfetchPc a => Sys2Proof.Machine.execPfetchPc a s
  | .pfetchOwn a => Sys2Proof.Machine.execPfetchOwn a s
  | .kget d kn => Sys2Proof.Machine.execKget d kn s
  | .kset a kn v6 => Sys2Proof.Machine.execKset a kn v6 s
  | .wait d a b => Sys2Proof.Machine.execWait d a b s
  | .migr d a => Sys2Proof.Machine.execMigr d a s
  | .trap code => Sys2Proof.Machine.execTrap code s
  | .gang d n => Sys2Proof.Machine.execGang d n s
  | .safe glive plive vlive => Sys2Proof.Machine.execSafe glive plive vlive s
  | .lathe n1 stride cg count => Sys2Proof.Machine.execLathe n1 stride cg count s
  | .vadd ty d a b => Sys2Proof.Machine.execVadd ty d a b s
  | .vsub ty d a b => Sys2Proof.Machine.execVsub ty d a b s
  | .vmul ty d a b => Sys2Proof.Machine.execVmul ty d a b s
  | .vfma ty d a b => Sys2Proof.Machine.execVfma ty d a b s
  | .vmin ty d a b => Sys2Proof.Machine.execVmin ty d a b s
  | .vmax ty d a b => Sys2Proof.Machine.execVmax ty d a b s
  | .vminp ty d a b => Sys2Proof.Machine.execVminp ty d a b s
  | .vmaxp ty d a b => Sys2Proof.Machine.execVmaxp ty d a b s
  | .vand d a b => Sys2Proof.Machine.execVand d a b s
  | .vor d a b => Sys2Proof.Machine.execVor d a b s
  | .vxor d a b => Sys2Proof.Machine.execVxor d a b s
  | .vandn d a b => Sys2Proof.Machine.execVandn d a b s
  | .vshl sz d a b => Sys2Proof.Machine.execVshl sz d a b s
  | .vshr sz d a b => Sys2Proof.Machine.execVshr sz d a b s
  | .vsra sz d a b => Sys2Proof.Machine.execVsra sz d a b s
  | .vcvt ty dty d a => Sys2Proof.Machine.execVcvt ty dty d a s
  | .vrcp ty look d a => Sys2Proof.Machine.execVrcp ty look d a s
  | .vrsq ty look d a => Sys2Proof.Machine.execVrsq ty look d a s
  | .vexp2 ty look d a => Sys2Proof.Machine.execVexp2 ty look d a s
  | .vlog2 ty look d a => Sys2Proof.Machine.execVlog2 ty look d a s
  | .vtanh ty look d a => Sys2Proof.Machine.execVtanh ty look d a s
  | .vsigm ty look d a => Sys2Proof.Machine.execVsigm ty look d a s
  | .vperm sz d a b => Sys2Proof.Machine.execVperm sz d a b s
  | .vbcast sz d a k => Sys2Proof.Machine.execVbcast sz d a k s
  | .vshuf sz d a k => Sys2Proof.Machine.execVshuf sz d a k s
  | .vred ty op d a => Sys2Proof.Machine.execVred ty op d a s
  | .vscan ty op ex d a => Sys2Proof.Machine.execVscan ty op ex d a s
  | .vrng ty d a b => Sys2Proof.Machine.execVrng ty d a b s
  | .vquant ty d a => Sys2Proof.Machine.execVquant ty d a s
  | .vdeq ty d a => Sys2Proof.Machine.execVdeq ty d a s
  | .vcmul d a b => Sys2Proof.Machine.execVcmul d a b s
  | .vsel ty d a b => Sys2Proof.Machine.execVsel ty d a b s
  | .vxall ty d a => Sys2Proof.Machine.execVxall ty d a s
  | .vcmp pd ty cc a b => Sys2Proof.Machine.execVcmp pd ty cc a b s
  | .pand pd pa pb => Sys2Proof.Machine.execPand pd pa pb s
  | .por pd pa pb => Sys2Proof.Machine.execPor pd pa pb s
  | .pnot pd pa => Sys2Proof.Machine.execPnot pd pa s
  | .pcnt g pa => Sys2Proof.Machine.execPcnt g pa s
  | .pfirst g pa => Sys2Proof.Machine.execPfirst g pa s
  | .plim pd g => Sys2Proof.Machine.execPlim pd g s
  | .vaddLV ty d a b x => Sys2Proof.Machine.execVaddLV ty d a b x s
  | .vsubLV ty d a b x => Sys2Proof.Machine.execVsubLV ty d a b x s
  | .vmulLV ty d a b x => Sys2Proof.Machine.execVmulLV ty d a b x s
  | .vfmaLV ty d a b x => Sys2Proof.Machine.execVfmaLV ty d a b x s
  | .vminLV ty d a b x => Sys2Proof.Machine.execVminLV ty d a b x s
  | .vmaxLV ty d a b x => Sys2Proof.Machine.execVmaxLV ty d a b x s
  | .vminpLV ty d a b x => Sys2Proof.Machine.execVminpLV ty d a b x s
  | .vmaxpLV ty d a b x => Sys2Proof.Machine.execVmaxpLV ty d a b x s
  | .vandLV d a b x => Sys2Proof.Machine.execVandLV d a b x s
  | .vorLV d a b x => Sys2Proof.Machine.execVorLV d a b x s
  | .vxorLV d a b x => Sys2Proof.Machine.execVxorLV d a b x s
  | .vandnLV d a b x => Sys2Proof.Machine.execVandnLV d a b x s
  | .vshlLV sz d a b x => Sys2Proof.Machine.execVshlLV sz d a b x s
  | .vshrLV sz d a b x => Sys2Proof.Machine.execVshrLV sz d a b x s
  | .vsraLV sz d a b x => Sys2Proof.Machine.execVsraLV sz d a b x s
  | .vcvtLV ty dty d a x => Sys2Proof.Machine.execVcvtLV ty dty d a x s
  | .vrcpLV ty look d a x => Sys2Proof.Machine.execVrcpLV ty look d a x s
  | .vrsqLV ty look d a x => Sys2Proof.Machine.execVrsqLV ty look d a x s
  | .vexp2LV ty look d a x => Sys2Proof.Machine.execVexp2LV ty look d a x s
  | .vlog2LV ty look d a x => Sys2Proof.Machine.execVlog2LV ty look d a x s
  | .vtanhLV ty look d a x => Sys2Proof.Machine.execVtanhLV ty look d a x s
  | .vsigmLV ty look d a x => Sys2Proof.Machine.execVsigmLV ty look d a x s
  | .vpermLV sz d a b x => Sys2Proof.Machine.execVpermLV sz d a b x s
  | .vbcastLV sz d a k x => Sys2Proof.Machine.execVbcastLV sz d a k x s
  | .vshufLV sz d a k x => Sys2Proof.Machine.execVshufLV sz d a k x s
  | .vredLV ty op d a x => Sys2Proof.Machine.execVredLV ty op d a x s
  | .vscanLV ty op ex d a x => Sys2Proof.Machine.execVscanLV ty op ex d a x s
  | .vrngLV ty d a b x => Sys2Proof.Machine.execVrngLV ty d a b x s
  | .vquantLV ty d a x => Sys2Proof.Machine.execVquantLV ty d a x s
  | .vdeqLV ty d a x => Sys2Proof.Machine.execVdeqLV ty d a x s
  | .vcmulLV d a b x => Sys2Proof.Machine.execVcmulLV d a b x s
  | .vselLV ty d a b x => Sys2Proof.Machine.execVselLV ty d a b x s
  | .vxallLV ty d a x => Sys2Proof.Machine.execVxallLV ty d a x s
  | .mma acc ga gb ksteps rows1 cols1 => Sys2Proof.Machine.execMma acc ga gb ksteps rows1 cols1 s
  | .mmas acc ga gb ksteps rows1 cols1 last => Sys2Proof.Machine.execMmas acc ga gb ksteps rows1 cols1 last s
  | .mzero acc pin => Sys2Proof.Machine.execMzero acc pin s
  | .mwb ga gb => Sys2Proof.Machine.execMwb ga gb s
  | .mdrain acc ga rows1 cols1 keep => Sys2Proof.Machine.execMdrain acc ga rows1 cols1 keep s
  | .rowout acc ga gb => Sys2Proof.Machine.execRowout acc ga gb s
  | .asave acc ga => Sys2Proof.Machine.execAsave acc ga s
  | .arest acc ga => Sys2Proof.Machine.execArest acc ga s
  | .mstat acc ga look => Sys2Proof.Machine.execMstat acc ga look s
  | .mfence all => Sys2Proof.Machine.execMfence all s
  | .eclr d g => Sys2Proof.Machine.execEclr d g s
  | .eline d a g look => Sys2Proof.Machine.execEline d a g look s
  | .eadd d a b look => Sys2Proof.Machine.execEadd d a b look s
  | .emax d a b look => Sys2Proof.Machine.execEmax d a b look s
  | .einf d a b look => Sys2Proof.Machine.execEinf d a b look s
  | .econj d a look => Sys2Proof.Machine.execEconj d a look s
  | .esimp d a look => Sys2Proof.Machine.execEsimp d a look s
  | .ecnt a g => Sys2Proof.Machine.execEcnt a g s
  | .eeval a g look => Sys2Proof.Machine.execEeval a g look s
  | .earg a g look => Sys2Proof.Machine.execEarg a g look s
  | .eget a g => Sys2Proof.Machine.execEget a g s
  | .eld d a look => Sys2Proof.Machine.execEld d a look s
  | .est d a => Sys2Proof.Machine.execEst d a s
  | .send d a b vn nf tag => Sys2Proof.Machine.execSend d a b vn nf tag s
  | .sendd d a b nf tag => Sys2Proof.Machine.execSendd d a b nf tag s
  | .sendx d a b nf look => Sys2Proof.Machine.execSendx d a b nf look s
  | .spawn d a b => Sys2Proof.Machine.execSpawn d a b s
  | .recv d a b look => Sys2Proof.Machine.execRecv d a b look s
  | .recvt d a b look => Sys2Proof.Machine.execRecvt d a b look s
  | .peek d b => Sys2Proof.Machine.execPeek d b s
  | .qpush d a b => Sys2Proof.Machine.execQpush d a b s
  | .qpop d a look => Sys2Proof.Machine.execQpop d a look s
  | .qstat d a => Sys2Proof.Machine.execQstat d a s
  | .cbinit d a b => Sys2Proof.Machine.execCbinit d a b s
  | .cbwait d a look => Sys2Proof.Machine.execCbwait d a look s
  | .cbacq d a look => Sys2Proof.Machine.execCbacq d a look s
  | .cbrel a b => Sys2Proof.Machine.execCbrel a b s
  | .bar n => Sys2Proof.Machine.execBar n s
  | .grpst n a => Sys2Proof.Machine.execGrpst n a s
  | .grpld d n look => Sys2Proof.Machine.execGrpld d n look s
  | .gqpush a b => Sys2Proof.Machine.execGqpush a b s
  | .gqpop d a b look => Sys2Proof.Machine.execGqpop d a b look s
  | .tqtake d => Sys2Proof.Machine.execTqtake d s
  | .postc a b => Sys2Proof.Machine.execPostc a b s
  | .cpCopy d a b => Sys2Proof.Machine.execCpCopy d a b s
  | .cpGather d a b => Sys2Proof.Machine.execCpGather d a b s
  | .cpScatter d a b => Sys2Proof.Machine.execCpScatter d a b s
  | .cpFill d a b => Sys2Proof.Machine.execCpFill d a b s
  | .cpToken d a b => Sys2Proof.Machine.execCpToken d a b s
  | .sgRead d a b => Sys2Proof.Machine.execSgRead d a b s
  | .mremote d a b => Sys2Proof.Machine.execMremote d a b s
  | .svG1 d a b => Sys2Proof.Machine.execSvG1 d a b s
  | .svG2 d a b => Sys2Proof.Machine.execSvG2 d a b s
  | .svG3 d a b => Sys2Proof.Machine.execSvG3 d a b s
  | .svCg d a b => Sys2Proof.Machine.execSvCg d a b s
  | .svDiag d a b => Sys2Proof.Machine.execSvDiag d a b s
  | .svSwapq d a b => Sys2Proof.Machine.execSvSwapq d a b s
  | .svPerm d a b => Sys2Proof.Machine.execSvPerm d a b s
  | .svProb d a b => Sys2Proof.Machine.execSvProb d a b s
  | .svNorm d a b => Sys2Proof.Machine.execSvNorm d a b s
  | .svInit d a b => Sys2Proof.Machine.execSvInit d a b s
  | .svSync d a b => Sys2Proof.Machine.execSvSync d a b s
  | .tlbinv a b => Sys2Proof.Machine.execTlbinv a b s
  | .tlbinva b => Sys2Proof.Machine.execTlbinva b s
  | .dirset d a b => Sys2Proof.Machine.execDirset d a b s
  | .repnew d a => Sys2Proof.Machine.execRepnew d a s
  | .repret d a b => Sys2Proof.Machine.execRepret d a b s
  | .capset d a b => Sys2Proof.Machine.execCapset d a b s
  | .treeset d a b => Sys2Proof.Machine.execTreeset d a b s
  | .fwdset d a b => Sys2Proof.Machine.execFwdset d a b s
  | .sptset d a b => Sys2Proof.Machine.execSptset d a b s
  | .svcset a b => Sys2Proof.Machine.execSvcset a b s
  | .placeq d a b => Sys2Proof.Machine.execPlaceq d a b s
  | .ctrget d a => Sys2Proof.Machine.execCtrget d a s
  | .ctrclr a => Sys2Proof.Machine.execCtrclr a s
  | .meter d a b => Sys2Proof.Machine.execMeter d a b s
  | .genget d b => Sys2Proof.Machine.execGenget d b s
  | .lifeget d a b => Sys2Proof.Machine.execLifeget d a b s
  | .nopC => Sys2Proof.Machine.execNopC s
  | .nopA => Sys2Proof.Machine.execNopA s
  | .ret => Sys2Proof.Machine.execRet s
  | .yield => Sys2Proof.Machine.execYield s
  | .split => Sys2Proof.Machine.execSplit s
  | .lwait => Sys2Proof.Machine.execLwait s
  | .eret => Sys2Proof.Machine.execEret s
  | .halt => Sys2Proof.Machine.execHalt s
  | .hdone => Sys2Proof.Machine.execHdone s
  | .verwait => Sys2Proof.Machine.execVerwait s
  | .shadowfull => Sys2Proof.Machine.execShadowfull s
  | .waitTimeout => Sys2Proof.Machine.execWaitTimeout s
  | .safeovd => Sys2Proof.Machine.execSafeovd s
  | .latheRepeat => Sys2Proof.Machine.execLatheRepeat s
  | .agePromotion => Sys2Proof.Machine.execAgePromotion s
  | .longLatencyWrite => Sys2Proof.Machine.execLongLatencyWrite s
  | .vxallExchange => Sys2Proof.Machine.execVxallExchange s
  | .matrixCommandStart => Sys2Proof.Machine.execMatrixCommandStart s
  | .matrixCommandComplete => Sys2Proof.Machine.execMatrixCommandComplete s
  | .segmentEnd => Sys2Proof.Machine.execSegmentEnd s
  | .drainRowStage => Sys2Proof.Machine.execDrainRowStage s
  | .rindStart => Sys2Proof.Machine.execRindStart s
  | .recvtTimeout => Sys2Proof.Machine.execRecvtTimeout s
  | .groupRoundResult => Sys2Proof.Machine.execGroupRoundResult s
  | .messageArrival => Sys2Proof.Machine.execMessageArrival s
  | .spillReturn => Sys2Proof.Machine.execSpillReturn s
  | .refusalArrival => Sys2Proof.Machine.execRefusalArrival s
  | .drupeArrival => Sys2Proof.Machine.execDrupeArrival s
  | .outboxEntryFree => Sys2Proof.Machine.execOutboxEntryFree s
  | .deadlockEscape => Sys2Proof.Machine.execDeadlockEscape s
  | .spawnRequest => Sys2Proof.Machine.execSpawnRequest s
  | .spawnReply => Sys2Proof.Machine.execSpawnReply s
  | .migrationArrival => Sys2Proof.Machine.execMigrationArrival s
  | .migrationAck => Sys2Proof.Machine.execMigrationAck s
  | .forwardExpiry => Sys2Proof.Machine.execForwardExpiry s
  | .mwSwitchRequest => Sys2Proof.Machine.execMwSwitchRequest s
  | .contextResume => Sys2Proof.Machine.execContextResume s
  | .launchPush => Sys2Proof.Machine.execLaunchPush s
  | .launchStart => Sys2Proof.Machine.execLaunchStart s
  | .placedThreadStart => Sys2Proof.Machine.execPlacedThreadStart s
  | .commImageStart => Sys2Proof.Machine.execCommImageStart s
  | .launchRetire => Sys2Proof.Machine.execLaunchRetire s
  | .reserveSample => Sys2Proof.Machine.execReserveSample s
  | .taskQueueJoin => Sys2Proof.Machine.execTaskQueueJoin s
  | .tokenArrival => Sys2Proof.Machine.execTokenArrival s
  | .meterMessage => Sys2Proof.Machine.execMeterMessage s
  | .claimRequest => Sys2Proof.Machine.execClaimRequest s
  | .claimReply => Sys2Proof.Machine.execClaimReply s
  | .copyComplete => Sys2Proof.Machine.execCopyComplete s
  | .copyAbort => Sys2Proof.Machine.execCopyAbort s
  | .activation => Sys2Proof.Machine.execActivation s
  | .directoryChange => Sys2Proof.Machine.execDirectoryChange s
  | .changeAck => Sys2Proof.Machine.execChangeAck s
  | .directoryFetchReply => Sys2Proof.Machine.execDirectoryFetchReply s
  | .evictionMessage => Sys2Proof.Machine.execEvictionMessage s
  | .windowEnd => Sys2Proof.Machine.execWindowEnd s
  | .servedRequest => Sys2Proof.Machine.execServedRequest s
  | .servedAnswer => Sys2Proof.Machine.execServedAnswer s
  | .finalPushNotice => Sys2Proof.Machine.execFinalPushNotice s
  | .drainComplete => Sys2Proof.Machine.execDrainComplete s
  | .depthReport => Sys2Proof.Machine.execDepthReport s
  | .depthUpdate => Sys2Proof.Machine.execDepthUpdate s
  | .gradientElementArrival => Sys2Proof.Machine.execGradientElementArrival s
  | .engineCommandStart => Sys2Proof.Machine.execEngineCommandStart s
  | .engineResult => Sys2Proof.Machine.execEngineResult s
  | .cpTokenComplete => Sys2Proof.Machine.execCpTokenComplete s
  | .remoteMatrixAccept => Sys2Proof.Machine.execRemoteMatrixAccept s
  | .spindleAccept => Sys2Proof.Machine.execSpindleAccept s
  | .chunkCommit => Sys2Proof.Machine.execChunkCommit s
  | .spindleComplete => Sys2Proof.Machine.execSpindleComplete s
  | .svfault => Sys2Proof.Machine.execSvfault s
  | .faultRecordArrival => Sys2Proof.Machine.execFaultRecordArrival s
  | .faultRepost => Sys2Proof.Machine.execFaultRepost s
  | .faultReplyArrival => Sys2Proof.Machine.execFaultReplyArrival s
  | .invalidation => Sys2Proof.Machine.execInvalidation s
  | .leaseRecall => Sys2Proof.Machine.execLeaseRecall s
  | .pageCacheFill => Sys2Proof.Machine.execPageCacheFill s
  | .loadContainer => Sys2Proof.Machine.execLoadContainer s
  | .unload => Sys2Proof.Machine.execUnload s
  | .launchHalt => Sys2Proof.Machine.execLaunchHalt s
  | .resume => Sys2Proof.Machine.execResume s
  | .checkpoint => Sys2Proof.Machine.execCheckpoint s
  | .restore => Sys2Proof.Machine.execRestore s
  | .frameMoveBegin => Sys2Proof.Machine.execFrameMoveBegin s
  | .frameMoveEnd => Sys2Proof.Machine.execFrameMoveEnd s
  | .attest => Sys2Proof.Machine.execAttest s
  | .unknownCommand => Sys2Proof.Machine.execUnknownCommand s
  | .mwFabWrite => Sys2Proof.Machine.execMwFabWrite s
  | .mwRegisterWrite => Sys2Proof.Machine.execMwRegisterWrite s
  | .bootBlock => Sys2Proof.Machine.execBootBlock s
  | .linkRetrain => Sys2Proof.Machine.execLinkRetrain s
  | .thermalThrottle => Sys2Proof.Machine.execThermalThrottle s
  | .thermalShutdown => Sys2Proof.Machine.execThermalShutdown s
  | .lifetimeLog => Sys2Proof.Machine.execLifetimeLog s
  | .deviceReset => Sys2Proof.Machine.execDeviceReset s
  | .accessFault => Sys2Proof.Machine.execAccessFault s
  | .storeAcknowledgement => Sys2Proof.Machine.execStoreAcknowledgement s
  | .peerAccessRequest => Sys2Proof.Machine.execPeerAccessRequest s
  | .linkDown => Sys2Proof.Machine.execLinkDown s
  | .lossOfPower => Sys2Proof.Machine.execLossOfPower s
  | .memoryError => Sys2Proof.Machine.execMemoryError s

end Sys2Proof.Machine
end

