-- ==== Sys2Proof/Machine/Issue.lean ====
section
/-! DEFINITION. Issuing one group (R22, R23, R26, R99 to R103, R152): interlocks, both slots of a pair from one set of sources,
whole or not at all, the members of a gang together; choosing the thread that issues. -/

namespace Sys2Proof.Machine

/-- Continue with the state a meaning answers. -/
def andThen (r : Res) (f : State → Res) : Res :=
  match r with
  | .next s => f s
  | .fault e => .fault e
  | .refused e => .refused e

/-! ## Interlocks -/

/-- Registers of a group by name, vector registers as core registers of the thread's window (R20). -/
def absOf (kv : Word) (rs : List Reg) : List Reg :=
  rs.map (fun r => match r with
    | .v n => .v (winBase kv + n)
    | r => r)
/-- Registers a group reads. -/
def groupReads (g : Group) : List Reg :=
  match g with
  | .pair c a => c.reads ++ a.reads
  | .lone i => i.reads
/-- Registers a group writes. -/
def groupWrites (g : Group) : List Reg :=
  match g with
  | .pair c a => c.writes ++ a.writes
  | .lone i => i.writes
/-- A lone group that stands for an A-slot instruction: an LV form (R106), which alone of the lone groups a running Lathe holds (assumption
117). -/
def loneVector (i : Instr) : Bool := (lvSplit i).isSome
/-- The thread's own Lathe holds the group (R154): another A-slot instruction than `nop`, or a register of the footprint. -/
def Core.latheHolds (x : Core) (th : Thread) (g : Group) : Bool :=
  match x.lathe with
  | none => false
  | some l => l.uid == th.uid && l.left == 0 &&
    (match g with
     | .pair _ a => a != .nopA
     | .lone i => loneVector i) ||
    (l.uid == th.uid && l.left == 0 &&
      meets l.footprint (absOf th.kvwin (groupReads g) ++ absOf th.kvwin (groupWrites g)))
/-- The instructions of a group. -/
def groupInstrs (g : Group) : List Instr :=
  match g with
  | .pair c a => [c, a]
  | .lone i => [i]
/-- The group dissolves a gang. -/
def groupSplits (g : Group) : Bool :=
  match g with
  | .pair .split _ => true
  | _ => false
/-- Registers a group reads on a slot's thread: at a `split` each follower reads its own `g13` (R28). -/
def Thread.readsOf (th : Thread) (g : Group) : List Reg :=
  absOf th.kvwin (groupReads g) ++ (if groupSplits g && !th.leads then [.g 13] else [])
/-- A member of the issuing gang, or the thread alone, is held by an interlock. -/
def State.groupHeld (s : State) (c t : Nat) (g : Group) : Bool :=
  let th := s.thr c t
  th.interlocked (th.readsOf g) (absOf th.kvwin (groupWrites g)) || (s.core c).latheHolds th g ||
  (groupInstrs g).any (fun i => s.srHeld c t i)

/-! ## One group on one thread -/

/-- C-slot instructions after which the thread may be elsewhere or gone: the A-slot partner goes first (R99, R101). -/
def goesLast (c : Instr) : Bool :=
  match c with
  | .br _ | .bz _ _ | .bnz _ _ | .brdec _ _ | .call _ | .jr _ _ | .ret | .halt | .hdone | .postc _ _ | .trap _ | .eret | .split
  | .gang _ _ | .migr _ _ => true
  | _ => false
/-- The group has issued from a slot (R22, R23, R49, R102): the PC moves on, the count and the counters advance, windows of
lookahead run down, later results have one group less to wait. -/
def State.begin (s : State) (c t : Nat) (pc : Word) : State :=
  let x := s.core c
  let th := x.thr t
  s.setCore c { (x.setThr t { th with
    pc := pc + 8, safeCount := min (th.safeCount + 1) 65535, age := 0, promoted := false, blk := .none, part := none, refetch := false,
    outs := th.outs.map (fun o => if o.lathe then o else { o with look := o.look - 1 }) }) with
      issued := (x.issued + 1) % 2 ^ 64
      envPend := x.envPend.map (fun e => if e.uid == th.uid && !e.lathe then { e with look := e.look - 1 } else e) }
/-- An instruction that does not execute after all leaves what it leaves when it runs alone; when it would run alone, the group
waits (R101). -/
def refuseGroup (s : State) (cur : Cur) (i : Instr) : Res :=
  andThen (exec i { s with cur := cur }) (fun u => if u.cur.stop then .next u else .next ({ s with cur := cur } : State).waits)
/-- An instruction of a slot's thread that has run from `u` to `v` took a dispatch number: it is the partner whose writes a retirement
waits for (R101). -/
def State.notePartner (u v : State) (c t : Nat) : State :=
  if (u.core c).dispSeq == (v.core c).dispSeq then v else v.setThr c t { v.thr c t with part := some (v.core c).dispSeq }
/-- Run two instructions of a pair in an order, both from the sources of the group (R99); `s` is the state before the group. -/
def runBoth (s u : State) (cur : Cur) (l : Latch) (i j : Instr) : Res :=
  andThen (exec i { u with cur := { cur with latch := some l } }) (fun v =>
    if v.cur.stop then refuseGroup s cur i
    else
      andThen (exec j { u.notePartner v cur.core cur.slot with cur := { cur with latch := some l } }) (fun w =>
        if w.cur.stop then refuseGroup s cur j else .next w))
/-- The counter a `ctrget` names, in the state before its group (R338). -/
def State.countFor (s : State) (cur : Cur) (c : Instr) : Option Word :=
  match c with
  | .ctrget _ a =>
    let s : State := { s with cur := cur }
    let k := s.ctrSel (s.rdN a.val)
    some (BitVec.ofNat 64 (s.ctrValue k (s.ctrRing k)))
  | _ => none
/-- `g13` of the members of a slot's gang at a `split`, in the state before its group (R28, R99). -/
def State.headsFor (s : State) (cur : Cur) (c : Instr) : List (Nat × Nat × Word) :=
  match c with
  | .split => (s.members cur.core cur.slot).map (fun m => (m.1, m.2, (s.thr m.1 m.2).reg 13))
  | _ => []
/-- Run a group on one slot: `s` before the group, `u` with the group begun. Where both slots raise precise faults, the record names the
slot that runs first: C, or A with a C-slot instruction that goes last (assumption 114). -/
def runGroup (s u : State) (cur : Cur) (g : Group) : Res :=
  match g with
  | .lone i => andThen (exec i { u with cur := cur }) (fun v => if v.cur.stop then refuseGroup s cur i else .next v)
  | .pair c a =>
    let l : Latch := { thr := u.thr cur.core cur.slot, v := (u.core cur.core).v, heads := s.headsFor cur c, count := s.countFor cur c }
    if goesLast c then runBoth s u cur l a c else runBoth s u cur l c a

/-! ## A thread or a gang -/

/-- Capture a group on one slot (R152, R153). -/
def State.captureAt (s : State) (c t : Nat) (pc : Word) (l : Lathe) (g : Group) : State :=
  (s.begin c t pc).captured c (l.take g)
/-- What the Lathe of a slot's thread is after capturing a group. -/
def State.latheAfter (s : State) (c t : Nat) (g : Group) : Option Lathe :=
  match (s.core c).capturing (s.thr c t).uid with
  | some l => some (l.take g)
  | none => none
/-- Capture a group on every member (R146); a failed check at the end is LATHEOP on each member whose check fails, and the
others drop the capture. -/
def State.captureGroup (s : State) (c t : Nat) (g : Group) (ms : List (Nat × Nat)) : State :=
  let pc := (s.thr c t).pc
  let done := ms.filterMap (fun m => match s.latheAfter m.1 m.2 g with
    | some l => some (m, l)
    | none => none)
  let bad := done.filter (fun p => p.2.left == 0 && !p.2.ok)
  if bad.isEmpty then
    ms.foldl (fun u m => match (u.core m.1).capturing (u.thr m.1 m.2).uid with
      | some l => u.captureAt m.1 m.2 pc l g
      | none => u.begin m.1 m.2 pc) s
  else
    let u := ms.foldl (fun u m => u.setCore m.1 { u.core m.1 with lathe := none }) s
    let u := bad.foldl (fun u p => u.latheop p.1.1 p.1.2 p.2) u
    match done.head? with
    | some (_, l) => u.setThr c t { u.thr c t with pc := BitVec.ofNat 64 l.pc }
    | none => u

/-- The place a member runs a group at. -/
def curOf (c t : Nat) (pc : Word) (m : Nat × Nat) : Cur :=
  { core := m.1, slot := m.2, addr := pc, follows := !(m.1 == c && m.2 == t) }
/-- Run a group on each member in turn; none when some member stops (R26, R101). -/
def runMembers (s u : State) (c t : Nat) (pc : Word) (g : Group) (ms : List (Nat × Nat)) : Res :=
  match ms with
  | [] => .next { u with cur := {} }
  | m :: rest =>
    andThen (runGroup s u (curOf c t pc m) g) (fun v =>
      if v.cur.stop then .next v else runMembers s v c t pc g rest)
/-- A gang's `wait` that some member stops arms the timer of a member whose own condition holds, too (R142). -/
def State.armWait (s : State) (c t : Nat) (g : Group) : State :=
  match g with
  | .pair (.wait _ _ b) _ =>
    let th := s.thr c t
    if th.gang.isNone || th.timer.isSome || th.reg b.val == 0 then s
    else s.setThr c t { th with timer := some (s.cycle + (th.reg b.val).toNat) }
  | _ => s
/-- A group that some member stops: every member that stops by itself is left as it stops (R26). -/
def stopMembers (s : State) (c t : Nat) (pc : Word) (g : Group) (ms : List (Nat × Nat)) : Res :=
  match ms with
  | [] => .next { s with cur := {} }
  | m :: rest =>
    andThen (runGroup s (s.begin m.1 m.2 pc) (curOf c t pc m) g) (fun v =>
      stopMembers (if v.cur.stop then { v with cur := {} } else s.armWait m.1 m.2 g) c t pc g rest)
/-- After a group, the followers of a gang stand where their leader stands (R26). -/
def State.gather (s : State) (c t : Nat) : State :=
  let lead := s.thr c t
  match lead.gang with
  | none => s
  | some _ => (s.members c t).foldl (fun u m => u.setThr m.1 m.2 { u.thr m.1 m.2 with pc := lead.pc }) s

/-- A member takes no part in a `split` that its own misaligned `g13` stops: it leaves the gang and raises BADPC at the group, of which
neither slot executes on it (R101, R145). -/
def State.splitsBad (s : State) (c t : Nat) (g : Group) : Bool :=
  groupSplits g && !(s.thr c t).leads && ((s.thr c t).reg 13).toNat % 8 != 0
/-- Try to issue the next group of a slot's thread, with its gang (R22, R26, R49, R101). -/
def attempt (s : State) (c t : Nat) : Res :=
  let ms := (s.members c t).filter (fun m => !(m.1 == c && m.2 == t)) ++ [(c, t)]
  let pc := (s.thr c t).pc
  match s.fetch c t with
  | (u, .group g) =>
    if ((u.core c).capturing (u.thr c t).uid).isSome then
      .next (if u.overdueAt c t g then u.safeovd c t else u.captureGroup c t g ms)
    else
      let u := ms.foldl (fun u m => u.landFor m.1 m.2 (absOf (u.thr m.1 m.2).kvwin (groupWrites g))) u
      if ms.any (fun m => u.groupHeld m.1 m.2 g) then .next (u.setThr c t { u.thr c t with blk := .retry })
      else if u.overdueAt c t g then .next (u.safeovd c t)
      else
        let part := ms.filter (fun m => !u.splitsBad m.1 m.2 g)
        let v := part.foldl (fun v m => v.begin m.1 m.2 pc) u
        andThen (runMembers u v c t pc g part) (fun w =>
          if w.cur.stop then
            if ms.length = 1 then .next { w with cur := {} } else stopMembers u c t pc g part
          else .next (w.gather c t))
  | (u, f) => .next (u.fetchFails c t f)

/-! ## Choosing (R22, R23) -/

/-- A slot's thread is not blocked on anything the hardware waits for (R22, R184, R234, R348), and its latest group is through (R101,
R147). -/
def State.unblocked (s : State) (c t : Nat) : Bool :=
  let th := s.thr c t
  th.live && (th.blk == .none || th.blk == .retry) && th.after == .none && !s.onMailbox th.uid &&
  !(s.core c).vxq.any (fun v => v.uid == th.uid && !v.lathe) && !s.stalls.any (fun y => y.2.1 == th.uid)
/-- A slot may be tried: its thread leads its group and no member is blocked. -/
def State.candidate (s : State) (c t : Nat) : Bool :=
  (s.thr c t).leads && (s.thr c t).live && s.gathered c t && (s.members c t).all (fun m => s.unblocked m.1 m.2)
/-- Some member waits for a condition of its group. -/
def State.waiting (s : State) (c t : Nat) : Bool := (s.members c t).any (fun m => (s.thr m.1 m.2).blk == .retry)
/-- The slot's thread, if it waited, has become ready: it counts as ready from now on (R23). -/
def State.wakes (s : State) (c t : Nat) : State :=
  if s.waiting c t then
    (s.members c t).foldl (fun u m => u.setThr m.1 m.2 { u.thr m.1 m.2 with
      blk := if (u.thr m.1 m.2).blk == .retry then .none else (u.thr m.1 m.2).blk, readyAt := u.cycle }) s
  else s
/-- The slot whose thread leads the group of a slot's thread, with its core: a gang's leader, else the slot itself (R26). -/
def State.leadSlot (s : State) (c t : Nat) : Nat × Nat :=
  if (s.thr c t).leads then (c, t)
  else
    match (s.members c t).find? (fun m => (s.thr m.1 m.2).leads) with
    | some m => m
    | none => (c, t)
/-- Settle which slots of a core are ready: one whose group does not issue waits, with what its trying leaves (a timer, a place in a
queue of waiters, a contribution); one that waited and would issue is ready. -/
def State.settle (s : State) (c : Nat) (ts : List Nat) : Res :=
  match ts with
  | [] => .next s
  | t :: rest =>
    let m := s.leadSlot c t
    if s.candidate m.1 m.2 then
      andThen (attempt s m.1 m.2) (fun u => if u.waiting m.1 m.2 then u.settle c rest else (s.wakes m.1 m.2).settle c rest)
    else s.settle c rest
/-- The moment at which a thread becomes ready, or stops being ready (R22, R23): what its next group would do now is found, and nothing of
it is done. -/
def State.stamp (s : State) (c t : Nat) : State :=
  if s.candidate c t then
    match attempt s c t with
    | .next u =>
      if u.waiting c t then (if s.waiting c t then s else s.setThr c t { s.thr c t with blk := .retry }) else s.wakes c t
    | _ => s
  else s
/-- The moments at which the threads of the cores a test names become ready. -/
def State.noteReady (s : State) (p : Nat → Bool) : State :=
  (s.threads.filter (fun x => p x.1)).foldl (fun u x => u.stamp x.1 x.2.1) s
/-- A promoted thread on a core of a slot's gang other than `c`, which is to issue, issues before the gang does (R26). -/
def State.gangDelayed (s : State) (c : Nat) (m : Nat × Nat) : Bool :=
  (s.members m.1 m.2).any (fun m => m.1 != c && (s.core m.1).threads.any (fun k =>
    k.1 != m.2 && k.2.live && k.2.blk == .none && k.2.gang.isNone && !s.onMailbox k.2.uid &&
    decide ((s.core m.1).kage.toNat ≤ k.2.age + 7)))
/-- A slot is ready once settled; a follower's with its gang (R26). -/
def State.ready (s : State) (c t : Nat) : Bool :=
  let m := s.leadSlot c t
  (s.thr c t).live && s.candidate m.1 m.2 && !s.waiting m.1 m.2 && !s.gangDelayed c m
/-- R23 between two ready threads: true when the first is chosen. Promoted threads by age, then the leader of a gang (R26), then
the role, then the moment of becoming ready, then the slot. -/
def prefers (t : Nat) (a : Thread) (u : Nat) (b : Thread) : Bool :=
  if a.promoted != b.promoted then a.promoted
  else if a.promoted then (if a.age != b.age then decide (b.age < a.age) else decide (t < u))
  else if a.gang.isSome != b.gang.isSome then a.gang.isSome
  else if a.krole.toNat % 4 != b.krole.toNat % 4 then decide (b.krole.toNat % 4 < a.krole.toNat % 4)
  else if a.readyAt != b.readyAt then decide (a.readyAt < b.readyAt)
  else decide (t < u)
/-- The slot that issues among those ready. -/
def State.chosen (s : State) (c : Nat) (ts : List Nat) : Option Nat :=
  match ts with
  | [] => none
  | t :: rest =>
    match s.chosen c rest with
    | none => some t
    | some u => if prefers t (s.thr c t) u (s.thr c u) then some t else some u
/-- Ages after an issue by slot `t`, `s` being the state before it: the other ready threads are one cycle older, unless a gang issued
(R23, R24). -/
def State.grow (s u : State) (c t : Nat) (ts : List Nat) : State :=
  if (s.thr c t).gang.isSome then u
  else (ts.filter (fun k => k != t && (s.thr c k).uid == (u.thr c k).uid)).foldl (fun u k =>
    u.setThr c k { u.thr c k with age := (s.thr c k).age + 1 }) u
/-- A core before its issue cycle: what the latest groups still do is done where it can be (R101, R147), and its ready threads are found
and promoted (R22, R23). -/
def prepare (s : State) (c : Nat) : Res :=
  let ts := List.range (slotCount c)
  andThen ((ts.foldl (fun s t => s.finishAfter c t) s).settle c ts) (fun s => .next (s.setCore c (s.core c).promote))
/-- The ready slots of a core. -/
def State.readySlots (s : State) (c : Nat) : List Nat := (List.range (slotCount c)).filter (s.ready c)
/-- The thread R23 chooses among the ready ones issues, with its gang (R26). -/
def issueReady (s : State) (c : Nat) : Res :=
  match s.chosen c (s.readySlots c) with
  | none => .next s
  | some t =>
    let m := s.leadSlot c t
    andThen (attempt s m.1 m.2) (fun u => .next (s.grow u c t (s.readySlots c)))
/-- The only thread of a core, when it may be tried and is in no gang: nothing is to be chosen. -/
def State.loneSlot (s : State) (c : Nat) : Option Nat :=
  match (List.range (slotCount c)).filter (fun t => (s.thr c t).live) with
  | [t] => if s.candidate c t && (s.thr c t).gang.isNone then some t else none
  | _ => none
/-- One issue cycle of a core (R23). -/
def issueCore (s : State) (c : Nat) : Res :=
  match s.loneSlot c with
  | some t => attempt (s.wakes c t) c t
  | none => andThen (prepare s c) (fun s => issueReady s c)

end Sys2Proof.Machine
end

