-- ==== Sys2Proof/Machine/Sched.lean ====
section
/-! DEFINITION. Which agent moves (assumption 1): the picks of the schedule, and with none the default order: the outside
world's events, then the hardware's own events that would change something, then the cores in turn. -/

namespace Sys2Proof.Machine

/-- An event of another agent (a row of the table that is no instruction). -/
def isEvent (e : Instr) : Bool :=
  match e with
  | .verwait | .shadowfull | .waitTimeout | .safeovd | .latheRepeat | .agePromotion | .longLatencyWrite
  | .vxallExchange | .matrixCommandStart | .matrixCommandComplete | .segmentEnd | .drainRowStage | .rindStart
  | .recvtTimeout | .groupRoundResult | .messageArrival | .spillReturn | .refusalArrival | .drupeArrival
  | .outboxEntryFree | .deadlockEscape | .spawnRequest | .spawnReply | .migrationArrival | .migrationAck
  | .forwardExpiry | .mwSwitchRequest | .contextResume | .launchPush | .launchStart | .placedThreadStart
  | .commImageStart | .launchRetire | .reserveSample | .taskQueueJoin | .tokenArrival | .meterMessage | .claimRequest
  | .claimReply | .copyComplete | .copyAbort | .activation | .directoryChange | .changeAck | .directoryFetchReply
  | .evictionMessage | .windowEnd | .servedRequest | .servedAnswer | .finalPushNotice | .drainComplete | .depthReport
  | .depthUpdate | .gradientElementArrival | .engineCommandStart | .engineResult | .cpTokenComplete
  | .remoteMatrixAccept | .spindleAccept | .chunkCommit | .spindleComplete | .svfault | .faultRecordArrival
  | .faultRepost | .faultReplyArrival | .invalidation | .leaseRecall | .pageCacheFill | .loadContainer | .unload
  | .launchHalt | .resume | .checkpoint | .restore | .frameMoveBegin | .frameMoveEnd | .attest | .unknownCommand
  | .mwFabWrite | .mwRegisterWrite | .bootBlock | .linkRetrain | .thermalThrottle | .thermalShutdown | .lifetimeLog
  | .deviceReset | .accessFault | .storeAcknowledgement | .peerAccessRequest | .linkDown | .lossOfPower
  | .memoryError => true
  | _ => false

/-- A write of a command block to `mw.cmd` (R363). -/
def isCommand (e : Instr) : Bool :=
  match e with
  | .loadContainer | .unload | .launchHalt | .resume | .checkpoint | .restore | .frameMoveBegin | .frameMoveEnd | .attest
  | .unknownCommand => true
  | _ => false
/-- What an event executes: of a write to `mw.cmd`, the command that the opcode of its block names (R363), or with `on` the one being
performed. -/
def State.eventOf (s : State) (e : Instr) (a : EvArgs) : Option Instr :=
  if isCommand e then (if a.on then s.mwCmd.map commandOf else some (commandOf a.data)) else if isEvent e then some e else none
/-- Run an event with its operands. What is no event changes nothing. -/
def runEvent (s : State) (e : Instr) (a : EvArgs) : Res :=
  match s.eventOf e a with
  | some i => andThen (exec i { s with ev := a, cur := {} }) (fun u => .next { u with ev := {}, cur := {} })
  | none => .next s
/-- The event would change the state. -/
def fires (s : State) (e : Instr) (a : EvArgs) : Bool :=
  match runEvent s e a with
  | .next u => u != s
  | _ => true

/-- A die whose sensors, or a hub's of it, stand above the throttle temperature issues on every second cycle (R372). -/
def State.cool (s : State) (c : Nat) : Bool :=
  let x := s.die (dieOf c)
  !x.temps.any (fun t => x.above t.2) || s.cycle % 2 == 0
/-- Time passes to cycle `t`. In each cycle whose number is a multiple of 256 the cores compare their depths (R376) and the dies sample
their pressure (R45), and in each multiple of 2^24 the lifetime record is logged (R347). Nothing changes between two such cycles, so that
one comparison stands for those of one pass. -/
def State.passTo (s : State) (t : Nat) : State :=
  let m := (s.cycle / 256 + 1) * 256
  let u := if m ≤ t then (({ s with cycle := m } : State).compareDepths).sampleDies m t else s
  { u with cycle := t, lifeLog := if s.cycle / 2 ^ 24 < t / 2 ^ 24 then s.life else s.lifeLog }
/-- `n` cycles pass. -/
def State.pass (s : State) (n : Nat) : State := s.passTo (s.cycle + n)
/-- Make one pick of the schedule: the threads that have become ready since the last one are found first (R23). -/
def pick (s : State) (p : Pick) : Res :=
  match p with
  | .event n e a => runEvent ((s.noteReady (fun _ => true)).pass (1 + n)) e a
  | .issue n c late =>
    let s := { (s.noteReady (fun k => k != c || (s.loneSlot c).isNone)).pass (1 + n) with defers := late }
    andThen (if coreExists c && s.cool c then issueCore s c else .next s) (fun u => .next { u with defers := false })

/-- Numbers below `n` as event operands. -/
def upTo (n : Nat) (e : Instr) (f : Nat → EvArgs) : List (Instr × EvArgs) := (List.range n).map (fun k => (e, f k))
/-- The event in which a network message is acted on, by its kind and what it carries. -/
def arrivalOf (m : Msg) : Instr :=
  match m.sys with
  | .spawn _ _ _ _ _ _ _ _ => .spawnRequest
  | .spawnReply _ => .spawnReply
  | .context _ _ _ _ => .migrationArrival
  | .contextAck _ _ _ => .migrationAck
  | .meter _ => .meterMessage
  | .claim _ _ => .claimRequest
  | .claimReply _ _ _ _ _ => .claimReply
  | .activation _ _ _ _ _ _ _ => .activation
  | .slotChange _ _ _ _ _ | .change _ _ _ => .directoryChange
  | .changeAck _ _ => .changeAck
  | .evict _ _ => .evictionMessage
  | .served _ _ _ => .servedRequest
  | .servedAnswer _ _ _ => .servedAnswer
  | .finalPush _ _ _ => .finalPushNotice
  | .depth _ _ _ => .depthUpdate
  | .gradient _ _ _ _ _ _ _ => .gradientElementArrival
  | .faultRecord _ => .faultRecordArrival
  | .faultReply _ _ _ _ _ => .faultReplyArrival
  | .drupe _ _ => .drupeArrival
  | .none => match m.kind with
    | 1 => .drupeArrival
    | 2 => .tokenArrival
    | 3 => .refusalArrival
    | _ => if m.vn = 2 then .gradientElementArrival else .messageArrival
/-- Events of a core's units: the Lathe, the Rind, the matrix unit, engines, outbox, stores, contexts. -/
def coreEvents (q : Nat) (x : Core) : List (Instr × EvArgs) :=
  let one := fun (e : Instr) => (e, ({ q := q } : EvArgs))
  [one .forwardExpiry, one .latheRepeat, one .rindStart, (.longLatencyWrite, { q := q, on := true }), one .vxallExchange,
   one .matrixCommandComplete, one .segmentEnd, one .drainRowStage, one .matrixCommandStart] ++
  x.threads.flatMap (fun t => upTo t.2.outs.length .longLatencyWrite (fun k => { q := q, t := t.1, k := k }) ++
    [(.accessFault, { q := q, t := t.1 }), (.verwait, { q := q, t := t.1 }), (.shadowfull, { q := q, t := t.1 }),
     (.recvtTimeout, { q := q, t := t.1 }), (.waitTimeout, { q := q, t := t.1 })] ++
    (t.2.deferred.zip (List.range t.2.deferred.length)).flatMap (fun d =>
      upTo d.1.parts.length .accessFault (fun j => { q := q, t := t.1, k := d.2, f := j, on := true }))) ++
  x.qrun.flatMap (fun f =>
    upTo f.2.length .engineResult (fun k => { q := q, f := f.1, k := k }) ++
    (if f.1 = 0 then upTo f.2.length .cpTokenComplete (fun k => { q := q, k := k }) else []) ++
    (if f.1 = 2 then upTo f.2.length .remoteMatrixAccept (fun k => { q := q, k := k }) else []) ++
    upTo f.2.length .engineCommandStart (fun k => { q := q, f := f.1, k := k, on := true })) ++
  x.qi.flatMap (fun f => if f.1 = 3 then [one .spindleAccept] else [(.engineCommandStart, { q := q, f := f.1 })]) ++
  upTo 7 .spillReturn (fun f => { q := q, f := f }) ++ [(.migrationArrival, { q := q, on := true })] ++
  upTo x.outbox.length .outboxEntryFree (fun k => { q := q, k := k }) ++
  x.groups.map (fun g => (.groupRoundResult, { q := q, k := g.1 })) ++
  x.copies.flatMap (fun c => [(.copyAbort, { q := q, k := c.1 }), (.copyComplete, { q := q, k := c.1 })]) ++
  x.freed.map (fun t => (.commImageStart, { q := q, t := t })) ++
  upTo x.parked.length .contextResume (fun k => { q := q, k := k, on := true }) ++
  upTo x.absent.length .contextResume (fun k => { q := q, k := k })
/-- Events of a launch FIFO (R40, R41, R360, R370). -/
def State.launchEvents (s : State) (f : Nat) : List (Instr × EvArgs) :=
  match (s.fifo f).running with
  | none => [(.launchStart, { f := f })]
  | some l =>
    l.toPlace.flatMap (fun p => [(.bootBlock, { f := f, k := p.2.2.1 }), (.placedThreadStart, { f := f, q := p.1 })]) ++
    [(.launchRetire, { f := f })]
/-- The hardware's own events that may be enabled, with their operands. -/
def State.pending (s : State) : List (Instr × EvArgs) :=
  [(.thermalShutdown, { q := 0 })] ++
  (match s.mwCmd with
   | some b => [(commandOf b, { on := true })]
   | none => []) ++
  s.dir.map (fun h => (.windowEnd, { k := h.1 })) ++
  (s.net.zip (List.range s.net.length)).map (fun m => (arrivalOf m.1, { k := m.2 })) ++
  s.cores.flatMap (fun x => coreEvents x.1 x.2) ++
  upTo s.acks.length .storeAcknowledgement (fun k => { k := k }) ++
  s.clusters.flatMap (fun k => (.taskQueueJoin, { k := k.1 }) :: k.2.fetching.map (fun n => (.directoryFetchReply, { f := k.1, k := n }))) ++
  s.dir.flatMap (fun h => upTo 8 .drainComplete (fun j => { k := h.1, t := j })) ++
  s.hubs.flatMap (fun h => upTo h.2.svq.length .spindleComplete (fun k => { f := h.1, k := k }) ++
    upTo h.2.svq.length .chunkCommit (fun k => { f := h.1, k := k })) ++
  fifoOrder.flatMap s.launchEvents ++
  upTo s.fills.length .pageCacheFill (fun k => { k := k }) ++
  upTo s.peerHeld.length .peerAccessRequest (fun k => { k := k, on := true }) ++
  s.hubs.flatMap (fun h => h.2.tags.flatMap (fun t => (t.2.filter (fun y => y.lease && decide (y.granted + 2 ^ 20 ≤ s.cycle))).map
    (fun y => (.leaseRecall, { q := y.rank, f := y.hub, k := y.frame })))) ++
  upTo s.flts.length .faultRepost (fun k => { k := k }) ++
  (s.net.zip (List.range s.net.length)).filterMap (fun m =>
    let c := if m.1.ddev = s.rank && coreExists m.1.dst then m.1.dst else m.1.src
    let n := (s.die (dieOf c)).dlto
    if n != 0 && !m.1.escaped && decide (m.1.since + n ≤ s.cycle) then some (.deadlockEscape, { q := c, k := m.2 }) else none)

/-- The first event of a list that fires. -/
def State.firstEvent (s : State) (l : List (Instr × EvArgs)) : Option (Instr × EvArgs) := l.find? (fun p => fires s p.1 p.2)
/-- The first core of a list with a ready thread issues; what settling finds stands. -/
def autoIssue (s : State) (cs : List Nat) : Res :=
  match cs with
  | [] => .next s
  | c :: rest =>
    andThen (prepare s c) (fun u =>
      if !u.cool c || (u.readySlots c).isEmpty then autoIssue u rest
      else andThen (issueReady u c) (fun w => .next { w with rr := c }))
/-- The hardware's own move: the first event that changes something, else the next core. -/
def autoMove (s : State) : Res :=
  match s.firstEvent s.pending with
  | some p => runEvent s p.1 p.2
  | none => autoIssue s ((fkeys s.cores).filter (fun c => decide (s.rr < c)) ++ (fkeys s.cores).filter (fun c => decide (c ≤ s.rr)))
/-- An input has to wait: its queue is full (R37, R307), or the command before it is being performed (R363). -/
def waitsOutside (s : State) (e : Instr) (a : EvArgs) : Bool :=
  (isCommand e && s.mwBusy) || ((e == .launchPush || e == .remoteMatrixAccept) && !fires s e a)
/-- The default order, one cycle on. An input that has to wait is held. -/
def autoStep (s : State) : Res :=
  let s := { (s.noteReady (fun _ => true)).pass 1 with defers := false }
  match s.inputs with
  | (e, a) :: rest =>
    if waitsOutside s e a then autoMove s
    else runEvent { s with inputs := rest } e a
  | [] => autoMove s

end Sys2Proof.Machine
end

