-- ==== Sys2Proof/Machine/Step.lean ====
section
/-! DEFINITION. One step of the module, and a program word placed where the next step fetches. -/

namespace Sys2Proof.Machine

/-- One step (assumption 1): the next pick of the schedule, or the default order; without power nothing executes (R347). -/
def step (s : State) : Host.Outcome State Fault Refusal :=
  if s.on then
    match s.sched with
    | p :: rest => pick { s with sched := rest } p
    | [] => autoStep s
  else .fault .poweredOff

/-- The state with an instruction where the next step fetches (assumption 10): a thread in slot 0 of core 0 with its PC at
vault address 0x1000, the words of the opcode-table row there, and the schedule naming that core. -/
def State.withFetchWord (s : State) (nbits w : Nat) : State :=
  let ws := Sys2Proof.tableWords nbits w
  let t := s.thr 0 0
  { s.setThr 0 0 { t with live := true, pc := 0x1000, blk := .none, gang := none, drupe := none, safeCount := 0, after := .none } with
    mem := (s.mem.setNat 0x1000 4 ws.1).setNat 0x1004 4 ws.2
    sched := [.issue 0 0] }

end Sys2Proof.Machine
end

