-- ==== Sys2Proof/WellFormed.lean ====
section
/-! DEFINITION. Well-formed instructions: those whose operands keep every rule of their entry (R95, R96, R98, R107). -/

namespace Sys2Proof

/-- An instruction whose operands some encoding holds. Events are not encoded: every one is well-formed. -/
def Instr.wf (i : Instr) : Bool :=
  match lvSplit i with
  | some (p, x) =>
    allHold (vecChecks p) &&
      (match lvRule p with
       | some r => allHold (lvxChecks r (cBits p) x)
       | none => false)
  | none =>
    allHold (vecChecks i) &&
    (match i with
     | .brdec a _ => a.val != 0
     | .lea s .. => decide (s.val < 4)
     | .ld t _ _ sz _ | .ldAcq t _ _ sz _ | .ldLong t _ _ sz _ _ => szLoad sz && t.ok (szWidths sz)
     | .st t _ sz _ | .stRel t _ sz _ | .stLong t _ sz _ _ => szStore sz && t.ok (szWidths sz)
     | .ldx d _ _ _ => d.ok [0, 1, 2, 3]
     | .ldv v _ _ | .stv v _ | .ldvAdv v _ _ | .stvAdv v _ => v.ok 64
     | .kget _ kn => knExists kn
     | .kset a kn v6 => knExists kn && kn.val != 0x10 && (a.val == 0 || v6.val == 0)
     | .gang _ n => n.val == 2 || n.val == 4 || n.val == 8 || n.val == 16
     | .lathe _ _ cg count => cg.val == 0 || count == 0
     | .mma _ _ _ ks _ _ | .mmas _ _ _ ks _ _ _ => ks != 0
     | .send _ a _ _ nf _ => a.ok [0, 1, 2, 3] && (a.w.val == 0 || nf.val == 0)
     | .sendd _ _ _ nf _ => nf.val != 0
     | .sendx _ a _ nf _ => a.ok [0, 1, 2, 3] && (a.w.val == 0 || nf.val == 0)
     | .recv _ a _ _ | .recvt _ a _ _ => a.ok [0, 3]
     | .qpush _ a _ => a.ok [0, 1, 2, 3]
     | .qpop d _ _ => d.ok [2, 3]
     | .gqpush a _ => a.ok [0, 3]
     | .postc a b => a.ok [0, 3] && (a.w.val == 0 || b.val == 0)
     | .cpCopy _ a b | .cpGather _ a b | .cpScatter _ a b | .cpFill _ a b | .cpToken _ a b | .sgRead _ a b
     | .mremote _ a b | .svG1 _ a b | .svG2 _ a b | .svG3 _ a b | .svCg _ a b | .svDiag _ a b | .svSwapq _ a b
     | .svPerm _ a b | .svProb _ a b | .svNorm _ a b | .svInit _ a b | .svSync _ a b => seOk a b
     | _ => true)

end Sys2Proof
end

