-- ==== Sys2Proof/Certificates/Slice0/Obligations.lean ====
section
/-! DEFINITION. The statements about the model, from the numbered rules of spec/. Helpers stand in `Sys2Proof.Claims`. -/

namespace Sys2Proof.Claims

open Sys2Proof.Machine

/-! ## How a next state is described -/

/-- Nothing has changed but the thread that executes: every other thread, the rest of its core, every other core, all of
memory and all else are as before. -/
def OnlyMe (s t : State) : Prop :=
  { t with cores := s.cores } = s ∧ (∀ c, c ≠ s.cur.core → t.core c = s.core c) ∧
  { t.here with threads := s.here.threads } = s.here ∧ ∀ k, k ≠ s.cur.slot → t.here.thr k = s.here.thr k

/-- `t` is `s` but for scalar register `d` of the executing thread, which holds `v` unless it is `g0`: every other register, the
rest of the thread, memory and all else are as before. -/
def RegStep (s t : State) (d : R) (v : Word) : Prop :=
  OnlyMe s t ∧ { t.me with g := s.me.g } = s.me ∧
  ∀ k : R, t.me.reg k.val = if k = d ∧ d ≠ 0 then v else s.me.reg k.val

/-- `t` is `s` but for predicate register `d` of the executing thread, which holds `v`. -/
def PredStep (s t : State) (d : Fin 8) (v : Pred) : Prop :=
  OnlyMe s t ∧ { t.me with p := s.me.p } = s.me ∧ ∀ k : Fin 8, t.me.pred k.val = if k = d then v else s.me.pred k.val

/-- `t` is `s` but that the executing thread goes on at `a`. -/
def PcStep (s t : State) (a : Word) : Prop := OnlyMe s t ∧ t.me = { s.me with pc := a }

/-- `t` is `s` but for a long-latency result of the executing thread, newly outstanding: its registers, the groups that still
read the old value, what it waits for, its value (R102). -/
def OutStep (s t : State) (rs : List Reg) (look : Nat) (w : OutWait) (v : OutVal) : Prop :=
  OnlyMe s t ∧ t.me = { s.me with
    outs := s.me.outs ++ [{ id := s.me.nextOut, regs := rs, look := look, wait := w, val := v, lathe := s.cur.lathe.isSome }]
    nextOut := s.me.nextOut + 1 }

/-- No thread but the executing one has changed, and no vector register of its core. -/
def OthersSame (s t : State) : Prop :=
  (∀ c k, (c ≠ s.cur.core ∨ k ≠ s.cur.slot) → t.thr c k = s.thr c k) ∧ t.here.v = s.here.v

/-- The instruction answers a next state of which `P` holds. -/
def Gives (i : Instr) (s : State) (P : State → Prop) : Prop := ∃ t, exec i s = .next t ∧ P t

end Sys2Proof.Claims

open Sys2Proof Sys2Proof.Machine Sys2Proof.Claims

/-! ## Scalar arithmetic (R134 to R138) -/

/-- R134: each register form writes its result to d, and nothing else changes (R134: none reads or writes `kflags`, none faults).
All operands, `g0` as source and destination among them.
R137: each long-immediate form writes its result to d, and nothing else changes.
R134, the counting and bit-moving forms, written as the rule writes them: leading zeros, set bits, and the two loops of bit
extract and bit deposit.
R134, saturating forms: operands of w = 8 · 2^lw bits read under the suffix, the exact sum or difference clamped to the
suffix's range and extended under it; `kflags.sat` (bit 5) is set when clamping changed it and no other flag changes.
R138, R102: a divide is long-latency: its result, corners included, is newly outstanding for d with lookahead L, and nothing
else changes; for `g0` nothing is kept. -/
def Obligations.ScalarArithmetic : Prop :=
  (∀ (s : State) (d a b : R) (sh : Fin 64),
   let x := s.rd a.val
   let y := s.rd b.val
   Gives (.add d a b) s (RegStep s · d (x + y)) ∧ Gives (.sub d a b) s (RegStep s · d (x - y)) ∧
   Gives (.and d a b) s (RegStep s · d (x &&& y)) ∧ Gives (.or d a b) s (RegStep s · d (x ||| y)) ∧
   Gives (.xor d a b) s (RegStep s · d (x ^^^ y)) ∧
   Gives (.shl d a b) s (RegStep s · d (x <<< (y.toNat % 64))) ∧ Gives (.shr d a b) s (RegStep s · d (x >>> (y.toNat % 64))) ∧
   Gives (.sra d a b) s (RegStep s · d (x.sshiftRight (y.toNat % 64))) ∧
   Gives (.shli d a sh) s (RegStep s · d (x <<< sh.val)) ∧ Gives (.shri d a sh) s (RegStep s · d (x >>> sh.val)) ∧
   Gives (.srai d a sh) s (RegStep s · d (x.sshiftRight sh.val)) ∧
   Gives (.slt d a b) s (RegStep s · d (if x.toInt < y.toInt then 1 else 0)) ∧
   Gives (.sltu d a b) s (RegStep s · d (if x.toNat < y.toNat then 1 else 0)) ∧
   Gives (.seq d a b) s (RegStep s · d (if x = y then 1 else 0)) ∧
   Gives (.min d a b) s (RegStep s · d (BitVec.ofInt 64 (min x.toInt y.toInt))) ∧
   Gives (.minu d a b) s (RegStep s · d (BitVec.ofNat 64 (min x.toNat y.toNat))) ∧
   Gives (.max d a b) s (RegStep s · d (BitVec.ofInt 64 (max x.toInt y.toInt))) ∧
   Gives (.maxu d a b) s (RegStep s · d (BitVec.ofNat 64 (max x.toNat y.toNat))) ∧
   Gives (.mul d a b) s (RegStep s · d (BitVec.ofNat 64 (x.toNat * y.toNat))) ∧
   Gives (.mulh d a b) s (RegStep s · d (BitVec.ofInt 64 (x.toInt * y.toInt / 2 ^ 64))) ∧
   Gives (.mulhu d a b) s (RegStep s · d (BitVec.ofNat 64 (x.toNat * y.toNat / 2 ^ 64))) ∧
   Gives (.sel d a b) s (RegStep s · d (if s.rd d.val = 0 then y else x)) ∧
   ∀ k : Fin 4, Gives (.lea k d a b) s (RegStep s · d (BitVec.ofNat 64 ((x.toNat + y.toNat * 2 ^ k.val) % 2 ^ 52)))) ∧
  (∀ (s : State) (d a : R) (j : BitVec 32),
   let x := s.rd a.val
   Gives (.movi d j) s (RegStep s · d (BitVec.ofInt 64 j.toInt)) ∧
   Gives (.movhi d j) s (RegStep s · d (j ++ (s.rd d.val).truncate 32)) ∧
   Gives (.addl d a j) s (RegStep s · d (x + BitVec.ofInt 64 j.toInt)) ∧
   Gives (.andl d a j) s (RegStep s · d (x &&& BitVec.ofInt 64 j.toInt)) ∧
   Gives (.orl d a j) s (RegStep s · d (x ||| BitVec.ofInt 64 j.toInt)) ∧
   Gives (.xorl d a j) s (RegStep s · d (x ^^^ BitVec.ofInt 64 j.toInt))) ∧
  (∀ (s : State) (d a b : R),
   let x := s.rd a.val
   let y := s.rd b.val
   (∃ n, (if x = 0 then n = 64 else n < 64 ∧ 2 ^ (63 - n) ≤ x.toNat ∧ x.toNat < 2 ^ (64 - n)) ∧
     Gives (.clz d a) s (RegStep s · d (BitVec.ofNat 64 n))) ∧
   Gives (.popc d a) s (RegStep s · d (BitVec.ofNat 64 ((List.range 64).filter (fun i => x.getLsbD i)).length)) ∧
   Gives (.bext d a b) s (RegStep s · d
     ((List.range 64).foldl (fun (j, r) i => if y.getLsbD i then (j + 1, if x.getLsbD i then r ||| (1 <<< j) else r) else (j, r))
       ((0, 0) : Nat × Word)).2) ∧
   Gives (.bdep d a b) s (RegStep s · d
     ((List.range 64).foldl (fun (j, r) i => if y.getLsbD i then (j + 1, if x.getLsbD j then r ||| (1 <<< i) else r) else (j, r))
       ((0, 0) : Nat × Word)).2)) ∧
  (∀ (s : State) (lw : Fin 4) (sg : Bool) (d a b : R),
   let w := 8 * 2 ^ lw.val
   let v := fun (x : Word) => if sg then (x.setWidth w).toInt else ((x.setWidth w).toNat : Int)
   let lo : Int := if sg then -2 ^ (w - 1) else 0
   let hi : Int := if sg then 2 ^ (w - 1) - 1 else 2 ^ w - 1
   let res := fun (t : Int) (u : State) =>
     OnlyMe s u ∧ { u.me with g := s.me.g, kflags := s.me.kflags } = s.me ∧
     u.me.kflags = (if lo ≤ t ∧ t ≤ hi then s.me.kflags else s.me.kflags ||| 32) ∧
     ∀ k : R, u.me.reg k.val = if k = d ∧ d ≠ 0 then BitVec.ofInt 64 (max lo (min hi t)) else s.me.reg k.val
   Gives (.addsat lw sg d a b) s (res (v (s.rd a.val) + v (s.rd b.val))) ∧
   Gives (.subsat lw sg d a b) s (res (v (s.rd a.val) - v (s.rd b.val)))) ∧
  (∀ (s : State) (d a b : R) (look : Look),
   let x := s.rd a.val
   let y := s.rd b.val
   let res := fun (v : Word) (u : State) =>
     if d = 0 then u = s else OutStep s u (s.absRegs [.g d.val]) look.val .ready (.words [v])
   Gives (.div d a b look) s (res (if y = 0 then -1 else BitVec.ofInt 64 (x.toInt.tdiv y.toInt))) ∧
   Gives (.divu d a b look) s (res (if y = 0 then -1 else BitVec.ofNat 64 (x.toNat / y.toNat))) ∧
   Gives (.rem d a b look) s (res (if y = 0 then x else BitVec.ofInt 64 (x.toInt - y.toInt * x.toInt.tdiv y.toInt))) ∧
   Gives (.remu d a b look) s (res (if y = 0 then x else BitVec.ofNat 64 (x.toNat - y.toNat * (x.toNat / y.toNat)))))

/-! ## Control flow (R32, R92, R139) -/

/-- Where a branch or jump by `disp` groups goes (R97). -/
def Sys2Proof.Claims.target (s : State) (disp : Int) : Word := s.cur.addr + BitVec.ofInt 64 (disp * 8)

/-- The group may execute a control transfer: it is not a follower's, in no Drupe, at a group's address, and has not stopped. -/
def Sys2Proof.Claims.MayGo (s : State) : Prop :=
  s.cur.follows = false ∧ s.cur.stop = false ∧ s.me.drupe = none ∧ s.cur.addr.toNat % 8 = 0

/-- The executing thread is gone from its slot (R150): the slot holds no thread, the window's registers read zero and every
other register of the core is as before, and neither memory nor any other thread has changed. -/
def Sys2Proof.Claims.Retired (s t : State) : Prop :=
  (t.thr s.cur.core s.cur.slot).live = false ∧ t.mem = s.mem ∧
  (∀ n : Fin 32, (t.core s.cur.core).v[n] =
    if winBase s.me.kvwin ≤ n.val ∧ n.val < winBase s.me.kvwin + winCnt s.me.kvwin then 0 else s.here.v[n]) ∧
  ∀ c k, (c ≠ s.cur.core ∨ k ≠ s.cur.slot) → t.thr c k = s.thr c k

/-- A thread of its own (no gang, no replica's) may retire now: its Lathe has completed, its outbox is empty, its accesses are
performed, and no partner of its group is still to write (R101, R150). -/
def Sys2Proof.Claims.MayRetire (s : State) : Prop :=
  s.cur.follows = false ∧ s.me.gang = none ∧ s.me.replica = none ∧ s.canRetire s.cur.core s.cur.slot = true ∧
  winBase s.me.kvwin + winCnt s.me.kvwin ≤ 32

/-- R139: the branches and jumps, taken and not taken, with the link and count registers they write, for a target that is not 0
(a target of 0 retires: `TargetZeroRetires`; a misaligned one: `MisalignedTargetBadpc`).
R92, R101: a transfer to a misaligned target raises BADPC at its group and writes nothing, the link of `jr` included.
R150, R297: `halt` retires the thread, and so does `hdone` in a Drupe. -/
def Obligations.ControlTransfers : Prop :=
  (∀ (s : State), MayGo s →
   (∀ (a : R) (disp : BitVec 19), target s disp.toInt ≠ 0 →
     Gives (.br disp) s (PcStep s · (target s disp.toInt)) ∧
     Gives (.bz a disp) s (fun t => if s.rd a.val = 0 then PcStep s t (target s disp.toInt) else t = s) ∧
     Gives (.bnz a disp) s (fun t => if s.rd a.val = 0 then t = s else PcStep s t (target s disp.toInt)) ∧
     Gives (.brdec a disp) s (fun t => OnlyMe s t ∧ t.me = { s.me.setReg a.val (s.rd a.val - 1) with
       pc := if s.rd a.val = 1 then s.me.pc else target s disp.toInt }) ∧
     Gives (.call disp) s (fun t => OnlyMe s t ∧
       t.me = { s.me.setReg 14 (s.cur.addr + 8) with pc := target s disp.toInt })) ∧
   (∀ (disp : BitVec 32), target s disp.toInt ≠ 0 →
     Gives (.jmp disp) s (PcStep s · (target s disp.toInt)) ∧
     Gives (.callLong disp) s (fun t => OnlyMe s t ∧
       t.me = { s.me.setReg 14 (s.cur.addr + 8) with pc := target s disp.toInt })) ∧
   (∀ (d a : R), s.rd a.val ≠ 0 → (s.rd a.val).toNat % 8 = 0 →
     Gives (.jr d a) s (fun t => OnlyMe s t ∧
       t.me = { s.me.setReg d.val (s.cur.addr + 8) with pc := s.rd a.val })) ∧
   (s.rd 14 ≠ 0 → (s.rd 14).toNat % 8 = 0 → Gives .ret s (PcStep s · (s.rd 14)))) ∧
  (∀ (s : State), MayGo s → s.me.gang = none →
   (∀ (d a : R), (s.rd a.val).toNat % 8 ≠ 0 → exec (.jr d a) s = .next (s.fault cBADPC 1 (s.rd a.val).toNat 0)) ∧
   ((s.rd 14).toNat % 8 ≠ 0 → exec .ret s = .next (s.fault cBADPC 6 (s.rd 14).toNat 0))) ∧
  (∀ (s : State), MayRetire s →
   Gives .halt s (Retired s) ∧ (s.me.drupe.isSome → Gives .hdone s (Retired s)))

/-! ## Control registers and waiting (R126 to R133, R142, R143) -/

/-- Control register kn of a thread, 0x00 to 0x0F (R126). -/
def Sys2Proof.Claims.ctl (t : Thread) (kn : Nat) : Word :=
  [t.kfmtA, t.kfmtB, t.kfmtC, t.ksclA, t.ksclB, t.kround, t.kflags, t.kvwin, t.krole, t.kmig, t.kstep, t.kstage, t.kseq, t.ktol,
   t.kenv, t.ktrap].getD kn 0

/-- The values R127, R79, R81 and R82 allow in a thread's register kn that has no further condition. -/
def Sys2Proof.Claims.allowed (kn n : Nat) : Prop :=
  match kn with
  | 0x00 | 0x01 | 0x02 => n < 16 ∧ n ≠ 7
  | 0x03 | 0x04 => n < 2 ^ 52 ∧ n % 4 = 0
  | 0x05 => n ≤ 4
  | 0x06 => n < 64
  | 0x09 | 0x0B => n < 16
  | 0x0A => n < 2 ^ 32
  | 0x0C => True
  | 0x0D => n < 0x7F800000
  | 0x0E => n < 2
  | 0x0F => n < 2 ^ 32 ∧ n % 64 = 0
  | _ => False

/-- R126, R133: `kget` writes the named register to d; `kflags` and `kseq` are read once the thread's vector, matrix and Rind
instructions have completed.
R130 to R132: a `kset` of an allowed value writes that register and no other; `krole` keeps its comm bit and takes role 3 only
on a service-map core or an optimiser core; a service thread writes `kage`, `kpre` and `kvwait` of its core.
R131: the order of a `kset`'s checks. Without the right to the register it is KPRIV whatever the value; with a reserved bit or
a range broken, of a service thread's `kage`, `kpre` and `kvwait` too, it is ILLENC, naming a or v6; role 3 without the right to it is
KPRIV; a fault leaves the register unchanged (a fault writes no control register). A `kset` of `kcoord` is no instruction: the word
is ILLENC, code 8 (R130). -/
def Obligations.ControlRegisters : Prop :=
  (∀ (s : State) (d : R),
   (∀ kn : Fin 64, kn.val < 16 → (kn.val = 6 ∨ kn.val = 12 → s.unitsBusy s.me.uid = false) →
     Gives (.kget d kn) s (RegStep s · d (ctl s.src kn.val))) ∧
   Gives (.kget d 0x10) s (RegStep s · d (coordOf s.cur.core)) ∧
   Gives (.kget d 0x18) s (RegStep s · d s.here.kage) ∧ Gives (.kget d 0x19) s (RegStep s · d s.here.kpre) ∧
   Gives (.kget d 0x1A) s (RegStep s · d s.here.kvwait)) ∧
  (∀ (s : State) (a : R) (kn v6 : Fin 64),
   let v := if a = 0 then BitVec.ofNat 64 v6.val else s.rd a.val
   let only := fun (t : State) => OnlyMe s t ∧ (∀ j, j < 16 → ctl t.me j = if j = kn.val then v else ctl s.me j) ∧
     t.me.g = s.me.g ∧ t.me.p = s.me.p ∧ t.me.pc = s.me.pc
   (allowed kn.val v.toNat → (kn.val = 6 ∨ kn.val = 12 → s.unitsBusy s.me.uid = false) → Gives (.kset a kn v6) s only) ∧
   (kn.val = 8 → v.toNat < 8 → v.toNat / 4 = s.src.krole.toNat / 4 % 2 →
     (v.toNat % 4 = 3 → isOpt s.cur.core = true ∨ s.svcCore s.cur.core = true) → Gives (.kset a kn v6) s only) ∧
   (s.src.krole.toNat % 4 = 3 →
     (kn.val = 0x18 → 8 ≤ v.toNat → v.toNat ≤ 4095 → exec (.kset a kn v6) s = .next (s.setCore s.cur.core { s.here with kage := v })) ∧
     (kn.val = 0x19 → 16 ≤ v.toNat → v.toNat ≤ 65535 →
       exec (.kset a kn v6) s = .next (s.setCore s.cur.core { s.here with kpre := v })) ∧
     (kn.val = 0x1A → v.toNat < 2 ^ 32 → exec (.kset a kn v6) s = .next (s.setCore s.cur.core { s.here with kvwait := v })))) ∧
  (∀ (s : State) (a : R) (kn v6 : Fin 64),
   let v := if a = 0 then BitVec.ofNat 64 v6.val else s.rd a.val
   (kn.val = 0x18 ∨ kn.val = 0x19 ∨ kn.val = 0x1A → s.src.krole.toNat % 4 ≠ 3 →
     exec (.kset a kn v6) s = .next (s.fault cKPRIV 6 0 0)) ∧
   (kn.val < 16 → kn.val ≠ 7 → kn.val ≠ 8 → ¬ allowed kn.val v.toNat →
     exec (.kset a kn v6) s = .next (s.illenc 0 (if a = 0 then 8 else 4))) ∧
   (kn.val = 8 → ¬ (v.toNat < 8 ∧ v.toNat / 4 = s.src.krole.toNat / 4 % 2) →
     exec (.kset a kn v6) s = .next (s.illenc 0 (if a = 0 then 8 else 4))) ∧
   (s.src.krole.toNat % 4 = 3 → (kn.val = 0x18 ∧ ¬ (8 ≤ v.toNat ∧ v.toNat ≤ 4095)) ∨
       (kn.val = 0x19 ∧ ¬ (16 ≤ v.toNat ∧ v.toNat ≤ 65535)) ∨ (kn.val = 0x1A ∧ 2 ^ 32 ≤ v.toNat) →
     exec (.kset a kn v6) s = .next (s.illenc 0 (if a = 0 then 8 else 4))) ∧
   (kn.val = 0x10 ∨ (0x10 < kn.val ∧ kn.val < 0x18) ∨ 0x1A < kn.val →
     decC (0x10 * 2 ^ 25 + a.val * 2 ^ 13 + 2 ^ 12 + kn.val * 2 ^ 6 + v6.val) = .error 8) ∧
   (kn.val = 8 → v.toNat % 4 = 3 → v.toNat < 8 → v.toNat / 4 = s.src.krole.toNat / 4 % 2 → isOpt s.cur.core = false →
     s.svcCore s.cur.core = false → exec (.kset a kn v6) s = .next (s.fault cKPRIV 6 0 0)))

/-- R142: with one of the waited-for events pending, `wait` completes at once: d receives the pending events of the mask, they
are taken, the others stay, and the timer is cancelled.
R109, R141, R154, R245: what changes nothing: `nop` in either slot; `lwait` when the thread's Lathe is not at work; a fence of
scope thread.
R245, R268, R269, R273: a fence at any scope but thread: `acq` waits for the thread's earlier loads and atomics and then changes
nothing; `rel` and `full` wait for every earlier access and for the acknowledgements of its stores, and then no member of the scope (for
device and fabric scope, no thread of the device) reads a byte as it was before a store that happens before the fence; the thread's next
store is a release. Who does not see a store yet (`hidden`) is the model's own field, its choice: log entries 91 and 3. -/
def Obligations.WaitsAndFences : Prop :=
  (∀ (s : State) (d a b : R),
   let m : BitVec 6 := (s.rd a.val).truncate 6
   s.me.pend &&& m ≠ 0 → Gives (.wait d a b) s (fun t => OnlyMe s t ∧
     t.me = { s.me.setReg d.val ((s.me.pend &&& m).zeroExtend 64) with pend := s.me.pend &&& ~~~m, timer := none })) ∧
  (∀ (s : State),
   exec .nopC s = .next s ∧ exec .nopA s = .next s ∧
   ((∀ l, s.here.lathe = some l → l.uid ≠ s.me.uid) → exec .lwait s = .next s) ∧
   exec (.fenceFull 0) s = .next s ∧ exec (.fenceAcq 0) s = .next s ∧ exec (.fenceRel 0) s = .next s) ∧
  (∀ (s : State) (scope : Fin 6), scope.val ≠ 0 →
   (s.me.accessBusy = true ∨ s.me.deferred.any (fun d => d.rd) = true → exec (.fenceAcq scope) s = .next s.waits) ∧
   (s.me.accessBusy = false → s.me.deferred.any (fun d => d.rd) = false → exec (.fenceAcq scope) s = .next s) ∧
   (s.me.unsettled = true ∨ s.unacked s.me.uid = true →
     exec (.fenceRel scope) s = .next s.waits ∧ exec (.fenceFull scope) s = .next s.waits) ∧
   (s.me.unsettled = false → s.unacked s.me.uid = false → ∀ i, i = .fenceRel scope ∨ i = .fenceFull scope → Gives i s (fun t =>
     OnlyMe s { t with hidden := s.hidden } ∧ t.me = { s.me with fenced := true } ∧ (s.hidden = [] → t.hidden = []) ∧
     (4 ≤ scope.val → ∀ x ∈ t.hidden, s.me.uid ∉ x.knows) ∧
     ∀ x ∈ t.hidden, s.me.uid ∈ x.knows → ∀ u ∈ x.blind, ∃ c k, s.findUid u = some (c, k) ∧ inScope scope.val s.cur.core c = false)))

/-! ## Traps (R148, R149) -/

/-- R148: `trap` enters the handler: the return address and the cause word (busy, the code, cause 2) stand in the trap block and
the thread goes on at the handler's address.
R149: `eret` clears busy and goes on at the return address that stands in the block.
R148, R149: with no trap block `trap` is NOTRAP, with a busy one TRAPNEST; `eret` without a block or when it is not busy is
TRAPNEST. Before the block is read, the thread's earlier accesses are performed. -/
def Obligations.Traps : Prop :=
  (∀ (s : State) (code : BitVec 12),
   let b := s.src.ktrap.toNat / 64 * 64
   let h := BitVec.ofNat 64 (s.mem.nat (b + 8) 8)
   MayGo s → s.me.gang = none → s.src.ktrap ≠ 0 → s.src.ktrap.toNat < 2 ^ 32 → s.mem.wf = true →
   s.me.unsettled = false → s.mem.nat (b + 24) 8 < 2 ^ 63 → h ≠ 0 → h.toNat % 8 = 0 →
   Gives (.trap code) s (fun t =>
     t.mem.nat (b + 16) 8 = (s.cur.addr + 8).toNat ∧ t.mem.nat (b + 24) 8 = 2 ^ 63 + code.toNat * 2 ^ 32 + 2 ∧
     (∀ x, (x < b + 16 ∨ b + 32 ≤ x) → t.mem.get x = s.mem.get x) ∧ t.me = { s.me with pc := h } ∧
     OnlyMe s { t with mem := s.mem, acks := s.acks })) ∧
  (∀ (s : State),
   let b := s.src.ktrap.toNat / 64 * 64
   let r := BitVec.ofNat 64 (s.mem.nat (b + 16) 8)
   MayGo s → s.me.gang = none → s.src.ktrap ≠ 0 → s.src.ktrap.toNat < 2 ^ 32 → s.mem.wf = true →
   s.me.unsettled = false → 2 ^ 63 ≤ s.mem.nat (b + 24) 8 → r ≠ 0 → r.toNat % 8 = 0 →
   Gives .eret s (fun t =>
     t.mem.nat (b + 24) 8 = s.mem.nat (b + 24) 8 - 2 ^ 63 ∧
     (∀ x, (x < b + 24 ∨ b + 32 ≤ x) → t.mem.get x = s.mem.get x) ∧ t.me = { s.me with pc := r } ∧
     OnlyMe s { t with mem := s.mem, acks := s.acks })) ∧
  (∀ (s : State) (code : BitVec 12),
   let b := s.src.ktrap.toNat / 64 * 64
   s.me.gang = none → s.src.ktrap.toNat < 2 ^ 32 →
   (s.src.ktrap = 0 → exec (.trap code) s = .next (s.fault cNOTRAP 6 0 0)) ∧
   (s.src.ktrap = 0 → exec .eret s = .next (s.fault cTRAPNEST 6 0 0)) ∧
   (s.src.ktrap ≠ 0 → s.me.unsettled = true → exec (.trap code) s = .next s.waits ∧ exec .eret s = .next s.waits) ∧
   (s.src.ktrap ≠ 0 → s.me.unsettled = false →
     (2 ^ 63 ≤ s.mem.nat (b + 24) 8 → exec (.trap code) s = .next (s.fault cTRAPNEST 6 0 0)) ∧
     (s.mem.nat (b + 24) 8 < 2 ^ 63 → exec .eret s = .next (s.fault cTRAPNEST 6 0 0))))

/-! ## Memory (R229 to R246) -/

/-- Bytes of a size code (R97): 1, 1, 2, 2, 4, 4, 8 (and 8). -/
def Sys2Proof.Claims.size (sz : Fin 8) : Nat := 2 ^ (sz.val / 2)

/-- Little-endian bytes of memory read under a size code: zeros above, or copies of the top bit for the odd codes (R1, R229). -/
def Sys2Proof.Claims.loaded (s : State) (a : Nat) (sz : Fin 8) : Word :=
  let n := ((List.range (size sz)).map (fun i => (s.mem.get (a + i)).toNat * 256 ^ i)).sum
  if sz.val % 2 = 1 then BitVec.ofInt 64 ((BitVec.ofNat (8 * size sz) n).toInt) else BitVec.ofNat 64 n

/-- An access of `n` bytes at `a` is aligned to `al`, lies in the vault window (R221), none of the thread's accesses is held, waits for
a version (R232, R247) or is left to be performed later, and this one is performed at its issue (R271). -/
def Sys2Proof.Claims.VaultAccess (s : State) (a al n : Nat) : Prop :=
  a % al = 0 ∧ a + n ≤ 2 ^ 32 ∧ s.me.unsettled = false ∧ s.defers = false

/-- The result of an access lands as R102 says: newly outstanding, its value known; nothing is kept when every destination is
`g0`. Nothing else has changed. -/
def Sys2Proof.Claims.Loads (s t : State) (rs : List Reg) (look : Nat) (ws : List Word) : Prop :=
  if rs.all (fun r => r == .g 0) then t = s
  else OnlyMe s t ∧ t.me = { s.me with
    outs := s.me.outs ++ [{ id := s.me.nextOut, regs := rs, look := look, wait := .ready, val := .words ws, lathe := false }]
    nextOut := s.me.nextOut + 1 }

/-- R229, R230: a load from the vaults: word j of the 2^w comes from the `size` bytes at ea + 8j, extended as the size code says,
and no memory changes.
R229, R230: a store to the vaults: the low `size` bytes of register t + j go to ea + 8j in little-endian order, and EVERY other
byte of memory, every register and all else is as before (the stores await their acknowledgement, R245). A releasing form shows every
thread what it releases, and a store ends what a fence left to the next store (R273): `hidden` and `fenced`, the model's fields for what
some threads do not see yet, log entry 91.
R240 to R243: an atomic on a vault word: the old word is newly outstanding for d (nothing is kept for `g0`), the word at ea is
the new word, and every other byte of memory is as before. `acas` writes its second register only when the word equals its
first. -/
def Obligations.VaultAccesses : Prop :=
  (∀ (s : State) (t : GOp) (base : R) (look : Look) (sz : Fin 8) (off : Fin 64) (acq : Bool)
     (offL : BitVec 32), s.src.kmig.toNat % 2 = 0 →
   let short := (s.rd base.val + BitVec.ofNat 64 (off.val * size sz)).toNat
   let long := (s.rd base.val + BitVec.ofInt 64 offL.toInt).toNat
   let rs := (List.range (2 ^ t.w.val)).map (fun j => Reg.g (t.n.val + j))
   let ws := fun a => (List.range (2 ^ t.w.val)).map (fun j => loaded s (a + 8 * j) sz)
   (VaultAccess s short (size sz) (8 * 2 ^ t.w.val) →
     Gives (.ld t base look sz off) s (Loads s · rs look.val (ws short)) ∧
     Gives (.ldAcq t base look sz off) s (Loads s · rs look.val (ws short))) ∧
   (VaultAccess s long (size sz) (8 * 2 ^ t.w.val) →
     Gives (.ldLong t base look sz acq offL) s (Loads s · rs look.val (ws long)))) ∧
  (∀ (s : State) (t : GOp) (base : R) (sz : Fin 8) (off : Fin 64) (rel : Bool) (offL : BitVec 32),
   s.mem.wf = true → s.cur.stop = false →
   let short := (s.rd base.val + BitVec.ofNat 64 (off.val * size sz)).toNat
   let long := (s.rd base.val + BitVec.ofInt 64 offL.toInt).toNat
   let stored := fun (rel : Bool) (a : Nat) (u : State) =>
     (∀ j, j < 2 ^ t.w.val → ∀ i, i < size sz →
       u.mem.get (a + 8 * j + i) = BitVec.ofNat 8 ((s.rd (t.n.val + j)).toNat / 256 ^ i)) ∧
     (∀ x, (∀ j, j < 2 ^ t.w.val → x < a + 8 * j ∨ a + 8 * j + size sz ≤ x) → u.mem.get x = s.mem.get x) ∧
     OnlyMe s { u with mem := s.mem, acks := s.acks, hidden := s.hidden } ∧ u.me = { s.me with fenced := false } ∧
     u.hidden = if rel then s.hidden.filter (fun x => !x.knows.contains s.me.uid) else s.hidden
   (VaultAccess s short (size sz) (8 * 2 ^ t.w.val) →
     Gives (.st t base sz off) s (stored false short) ∧ Gives (.stRel t base sz off) s (stored true short)) ∧
   (VaultAccess s long (size sz) (8 * 2 ^ t.w.val) → Gives (.stLong t base sz rel offL) s (stored rel long))) ∧
  (∀ (s : State) (d a b : R) (p : GPair) (look : Look),
   let ea := (s.rd a.val).toNat
   s.mem.wf = true → VaultAccess s ea 8 8 →
   let old := BitVec.ofNat 64 (s.mem.nat ea 8)
   let y := s.rd b.val
   let does := fun (d : Nat) (new : Word) (u : State) =>
     u.mem.nat ea 8 = new.toNat ∧ (∀ x, (x < ea ∨ ea + 8 ≤ x) → u.mem.get x = s.mem.get x) ∧
     Loads s { u with mem := s.mem } [.g d] look.val [old]
   Gives (.aadd d a b look) s (does d.val (old + y)) ∧
   Gives (.afadd d a b look) s (does d.val
     (BitVec.ofNat 64 ((fadd fp32 rne (old.toNat / 2 ^ 32) (y.toNat / 2 ^ 32)).1 * 2 ^ 32 +
       (fadd fp32 rne (old.toNat % 2 ^ 32) (y.toNat % 2 ^ 32)).1))) ∧
   Gives (.amin d a b look) s (does d.val (BitVec.ofInt 64 (min old.toInt y.toInt))) ∧
   Gives (.amax d a b look) s (does d.val (BitVec.ofInt 64 (max old.toInt y.toInt))) ∧
   Gives (.aand d a b look) s (does d.val (old &&& y)) ∧ Gives (.aor d a b look) s (does d.val (old ||| y)) ∧
   Gives (.axor d a b look) s (does d.val (old ^^^ y)) ∧ Gives (.axch d a b look) s (does d.val y) ∧
   Gives (.acas p a look) s (does (2 * p.val) (if old = s.rd (2 * p.val) then s.rd (2 * p.val + 1) else old)))

/-- R231 to R236: the versioned forms on a vault line. `stx` of a version above C and at most F (no shadow needed) replaces contents
and C together, one at most C is held (VERORD, R247); with a free pool line a version above F keeps the old contents as a shadow of
version C; `vqry` reads C and F; `ldx` reads the line's value at a version from F to C; `vrcl` raises F and frees every shadow
whose next newer version is not above v. -/
def Obligations.VersionedLine : Prop := ∀ (s : State) (d : GOp) (e a b : R) (o : GOct) (look : Look),
  let ea := (s.rd a.val).toNat
  let v := (s.rd b.val).toNat % 2 ^ 32
  let l := s.line ea
  s.mem.wf = true → s.me.unsettled = false → s.defers = false → s.src.kmig.toNat % 2 = 0 → ea < 2 ^ 32 →
  (ea % 64 = 0 → (l.c < v → v ≤ l.f ∨ (s.poolFull (ea / 2 ^ 25) = false ∧ s.stalls = []) →
    Gives (.stx o a b) s (fun u =>
      (∀ i, i < 8 → BitVec.ofNat 64 (u.mem.nat (ea + 8 * i) 8) = s.rd (8 * o.val + i)) ∧
      (∀ x, (x < ea ∨ ea + 64 ≤ x) → u.mem.get x = s.mem.get x) ∧
      (u.line ea).c = v ∧ (u.line ea).f = l.f ∧
      (u.line ea).shadows = (if l.f < v then l.shadows ++ [(l.c, s.lineData ea)] else l.shadows) ∧
      ∀ x, x / 64 ≠ ea / 64 → u.line x = s.line x)) ∧
    (v ≤ l.c → Gives (.stx o a b) s (fun u => u.mem = s.mem ∧ u.ver = s.ver ∧ u.me.held.isSome = true))) ∧
  Gives (.vqry e a look) s (Loads s · [.g e.val] look.val [BitVec.ofNat 64 (l.f * 2 ^ 32 + l.c)]) ∧
  (ea % (8 * 2 ^ d.w.val) = 0 → l.f ≤ v → v ≤ l.c →
    Gives (.ldx d a b look) s (Loads s · ((List.range (2 ^ d.w.val)).map (fun j => Reg.g (d.n.val + j))) look.val
      ((List.range (2 ^ d.w.val)).map (fun j => lineWord (s.lineAt ea v) (ea % 64 / 8 + j))))) ∧
  (ea % 64 = 0 → (s.rd b.val).toNat / 2 ^ 32 = 1 → s.stalls = [] →
    Gives (.vrcl a b) s (fun u => u.mem = s.mem ∧ (u.line ea).c = l.c ∧ (u.line ea).f = max l.f v ∧
      (u.line ea).shadows = ((List.range l.shadows.length).filter (fun i =>
        decide (v < ((l.shadows[i + 1]?).map (·.1)).getD l.c))).map (fun i => l.shadows.getD i (0, 0)) ∧ u.me = s.me ∧ ∀ x, x / 64 ≠ ea / 64 → u.line x = s.line x))

/-- R162, R163 to R166: a vector load or store through a legal shape record in the vaults, all of whose units lie in the vaults
and inside one 64 KiB page each: lane l of the operand is unit p + l of the tensor, lanes past the tensor load zero and store
nothing, the instruction takes the next dispatch number, and the advance forms move the position on by the operand's units. -/
def Obligations.VectorLoadStore : Prop := ∀ (s : State) (v : VOp) (k : GPair) (look : Look),
  let ra := (s.rd (2 * k.val)).toNat
  let p := (s.rd (2 * k.val + 1)).toNat
  let r := shapeOf (s.mem.bytes ra 32)
  let ub := unitBytes r.fmt
  s.mem.wf = true → s.vin v = true → s.me.unsettled = false → s.defers = false → s.cur.replay = none → ra % 32 = 0 → ra + 32 ≤ 2 ^ 32 →
  r.ok p v.w.val = true →
  (∀ l ∈ r.active p v.w.val, (r.addr (p + l)).toNat + ub ≤ 2 ^ 32 ∧ (r.addr (p + l)).toNat % 2 ^ 16 + ub ≤ 2 ^ 16) →
  let q := (s.here.dispSeq + 1) % 2 ^ 32
  let loads := fun (adv : Bool) (u : State) =>
    u.here.dispSeq = q ∧ u.mem = s.mem ∧ OthersSame s u ∧
    (∃ vs, u.me.outs = s.me.outs ++ [{ id := s.me.nextOut, regs := (List.range (2 ^ v.w.val)).map (fun j => Reg.v (s.vcore v + j))
                                       look := look.val, wait := .ready, val := .vecs vs, lathe := false }] ∧
      ∀ l, l < r.lanes v.w.val → groupNat vs / 2 ^ (8 * ub * l) % 2 ^ (8 * ub) =
        if l ∈ r.active p v.w.val then leNat (s.mem.bytes (r.addr (p + l)).toNat ub) else 0) ∧
    ∀ n : R, u.me.reg n.val = if adv ∧ n.val = 2 * k.val + 1 then BitVec.ofNat 64 (p + r.lanes v.w.val) else s.me.reg n.val
  let stores := fun (adv : Bool) (u : State) =>
    u.here.dispSeq = q ∧ u.me.outs = s.me.outs ∧ OthersSame s u ∧
    (∀ l ∈ r.active p v.w.val, (∀ m ∈ r.active p v.w.val, m ≠ l →
        r.addr (p + m) + ub ≤ r.addr (p + l) ∨ r.addr (p + l) + ub ≤ r.addr (p + m)) →
      u.mem.nat (r.addr (p + l)).toNat ub = groupNat (s.rdVs v) / 2 ^ (8 * ub * l) % 2 ^ (8 * ub)) ∧
    (∀ x, (∀ l ∈ r.active p v.w.val, x < (r.addr (p + l)).toNat ∨ (r.addr (p + l)).toNat + ub ≤ x) →
      u.mem.get x = s.mem.get x) ∧
    ∀ n : R, u.me.reg n.val = if adv ∧ n.val = 2 * k.val + 1 then BitVec.ofNat 64 (p + r.lanes v.w.val) else s.me.reg n.val
  Gives (.ldv v k look) s (loads false) ∧ Gives (.ldvAdv v k look) s (loads true) ∧
  Gives (.stv v k) s (stores false) ∧ Gives (.stvAdv v k) s (stores true)

/-- R221, R229, R232, R233, R235, R236, R240, R242: an effective address with a bit of 63:52 set is ADDRRNG, a misaligned one
ALIGN, both naming the base, and neither form has any effect of its own; a reclaim count above 2^20 is ADDRRNG naming b.
R229, R247, R319: a translated address: an access that is placed performs there; one that meets a translation fault is held
with its destinations waiting for the reply, its group stands, and a store's faulting word has written nothing.
R246: a prefetch writes no register and no memory, never faults and never blocks. For the vaults, for an address out of range and
for a page that no walk finds, whose walk is held or that a load may not read it is dropped and counted; `pfetch.tlb` of a page that a load may read fills the two TLBs; `pfetch.pc`
and `pfetch.own` of a page in no remote-cache mode are dropped. -/
def Obligations.AddressForms : Prop :=
  (∀ (s : State) (t : GOp) (d a b : R) (o : GOct) (p : GPair) (look : Look) (sz : Fin 8)
     (off : Fin 64) (acq : Bool) (offL : BitVec 32),
   let check := fun (i : Instr) (ea : Word) (al : Nat) =>
     (2 ^ 52 ≤ ea.toNat → exec i s = .next (s.fault cADDRRNG 1 ea.toNat 0)) ∧
     (ea.toNat < 2 ^ 52 → ea.toNat % al ≠ 0 → exec i s = .next (s.fault cALIGN 1 ea.toNat 0))
   let short := s.rd a.val + BitVec.ofNat 64 (off.val * size sz)
   let long := s.rd a.val + BitVec.ofInt 64 offL.toInt
   check (.ld t a look sz off) short (size sz) ∧ check (.ldAcq t a look sz off) short (size sz) ∧
   check (.st t a sz off) short (size sz) ∧ check (.stRel t a sz off) short (size sz) ∧
   check (.ldLong t a look sz acq offL) long (size sz) ∧ check (.stLong t a sz acq offL) long (size sz) ∧
   check (.ldx t a b look) (s.rd a.val) (8 * 2 ^ t.w.val) ∧ check (.stx o a b) (s.rd a.val) 64 ∧
   check (.vrcl a b) (s.rd a.val) 64 ∧ check (.vqry d a look) (s.rd a.val) 1 ∧
   check (.aadd d a b look) (s.rd a.val) 8 ∧ check (.afadd d a b look) (s.rd a.val) 8 ∧
   check (.amin d a b look) (s.rd a.val) 8 ∧ check (.amax d a b look) (s.rd a.val) 8 ∧
   check (.aand d a b look) (s.rd a.val) 8 ∧ check (.aor d a b look) (s.rd a.val) 8 ∧
   check (.axor d a b look) (s.rd a.val) 8 ∧ check (.axch d a b look) (s.rd a.val) 8 ∧
   check (.acas p a look) (s.rd a.val) 8 ∧
   ((s.rd a.val).toNat < 2 ^ 52 → (s.rd a.val).toNat % 64 = 0 → 2 ^ 20 < (s.rd b.val).toNat / 2 ^ 32 →
     exec (.vrcl a b) s = .next (s.fault cADDRRNG 2 0 0))) ∧
  (∀ (s : State) (t : GOp) (base : R) (look : Look) (sz : Fin 8) (off : Fin 64),
   let ea := (s.rd base.val + BitVec.ofNat 64 (off.val * size sz)).toNat
   s.src.kmig.toNat % 2 = 0 → ea < 2 ^ 52 → ea % size sz = 0 → s.me.unsettled = false → s.defers = false →
   t ≠ ⟨0, 0⟩ →
   let rs := (List.range (2 ^ t.w.val)).map (fun j => Reg.g (t.n.val + j))
   (∀ v ws, s.loadWords s.who ea sz.val (2 ^ t.w.val) = (v, .ok ws) → Gives (.ld t base look sz off) s (fun u =>
     u.mem = v.mem ∧ u.me = { v.me with
       outs := v.me.outs ++ [{ id := v.me.nextOut, regs := rs, look := look.val, wait := .ready, val := .words ws, lathe := false }]
       nextOut := v.me.nextOut + 1 })) ∧
   (∀ v cls a, s.loadWords s.who ea sz.val (2 ^ t.w.val) = (v, .error (.fault cls a)) → Gives (.ld t base look sz off) s (fun u =>
     u.mem = v.mem ∧ u.me.held = some (.load ea sz.val rs look.val) ∧ u.me.heldPc = s.cur.addr.toNat ∧
     u.me.outs.getLast? = some { id := v.me.nextOut, regs := rs, look := look.val, wait := .held, val := .words [],
                                 lathe := s.cur.lathe.isSome })) ∧
   (∀ v c, t.w = 0 → s.place s.cur.core s.me.cont ea .store .store = (v, .error (c + 1)) → Gives (.st t base sz off) s (fun u =>
     u.mem = v.mem ∧ u.me.held = some (.store ea sz.val [s.rd t.n.val]) ∧ u.me.g = v.me.g))) ∧
  (∀ (s : State) (a : R),
   let ea := s.rd a.val
   let dropped := fun (u : State) => u = s.setCore s.cur.core { s.here with dropPf := min (s.here.dropPf + 1) (2 ^ 32 - 1) }
   (ea.toNat < 2 ^ 32 ∨ 2 ^ 52 ≤ ea.toNat →
     Gives (.pfetchTlb a) s dropped ∧ Gives (.pfetchPc a) s dropped ∧ Gives (.pfetchOwn a) s dropped) ∧
   (2 ^ 32 ≤ ea.toNat → ea.toNat < 2 ^ 52 → (∀ u n, s.lookup s.cur.core s.me.cont ea.toNat false = (u, .error n) →
       Gives (.pfetchTlb a) s dropped ∧ Gives (.pfetchPc a) s dropped ∧ Gives (.pfetchOwn a) s dropped) ∧
     ∀ u e, s.lookup s.cur.core s.me.cont ea.toNat false = (u, .ok e) →
     (e.rd = true → exec (.pfetchTlb a) s = .next u) ∧ u.mem = s.mem ∧ u.me = s.me ∧ e.handle = s.me.cont ∧
     (e.rd = false → Gives (.pfetchTlb a) s dropped ∧ Gives (.pfetchPc a) s dropped ∧ Gives (.pfetchOwn a) s dropped) ∧
     (e.mattr / 8 % 4 = 0 → Gives (.pfetchPc a) s dropped ∧ Gives (.pfetchOwn a) s dropped) ∧
     ∀ g r h f, e.rd = true → u.prefetchPiece e ea.toNat = some (g, r, h, f) → (∀ x ∈ u.fills, ¬ (x.1 = g ∧ x.2.1 = ea.toNat / 2 ^ 16)) →
       (e.mattr / 8 % 4 ≠ 0 → Gives (.pfetchPc a) s (fun w => w = { u with
         fills := u.fills ++ [(g, ea.toNat / 2 ^ 16, r, h, f, e.mattr / 8 % 4 == 2)] })) ∧
       (e.mattr / 8 % 4 = 2 → Gives (.pfetchOwn a) s (fun w => w = { u with
         fills := u.fills ++ [(g, ea.toNat / 2 ^ 16, r, h, f, true)] }))))

/-! ## Vector operations (R156 to R184) -/

/-- The instruction is well formed, its vector operands lie inside the window (under the Lathe they wrap in it and are no wider than
it, R152), and the window inside the vector file (R158, R127). -/
def Sys2Proof.Claims.VecOk (s : State) (i : Instr) (os : List VOp) : Prop :=
  i.wf = true ∧ (∀ o ∈ os, s.vin o = true ∧ 2 ^ o.w.val ≤ s.window.2) ∧ s.window.1 + s.window.2 ≤ 32

/-- What a vector instruction leaves unchanged: all but the registers of d, the core's dispatch ring, and of its own thread
`kflags` and `kseq` (R80, R82, R162). Free values it used for lanes its sources do not have are passed by (log entry 11). -/
def Sys2Proof.Claims.VecFrame (s t : State) (d : Option VOp) : Prop :=
  { t with cores := s.cores, free := s.free } = s ∧ (∀ c, c ≠ s.cur.core → t.core c = s.core c) ∧
  { t.here with threads := s.here.threads, v := s.here.v, dispSeq := s.here.dispSeq, ring := s.here.ring } = s.here ∧
  (∀ k, k ≠ s.cur.slot → t.here.thr k = s.here.thr k) ∧
  (∀ m : Fin 32, (∀ o, d = some o → ∀ k, k < 2 ^ o.w.val → s.vreg o k ≠ m.val) → t.here.v[m] = s.here.v[m])

/-- The instruction has taken the next dispatch number (R162), or keeps its own when it runs again (R355). -/
def Sys2Proof.Claims.Numbered (s t : State) : Prop :=
  t.here.dispSeq = if s.cur.replay.isSome then s.here.dispSeq else (s.here.dispSeq + 1) % 2 ^ 32

/-- The flags the active lanes raise (R82, R159). -/
def Sys2Proof.Claims.laneFlags (s : State) (x : LVX) (n : Nat) (f : Nat → Nat × Flags) : Flags :=
  ((List.range n).filter (s.activeLane x)).foldl (fun a l => a ||| (f l).2) 0

/-- `kseq` after an instruction: under SR a rounding to BF16 on some lane advances the counter in its low half (R80). -/
def Sys2Proof.Claims.seqAfter (s : State) (x : LVX) (ty n : Nat) : Word :=
  if s.mode x = 4 ∧ ty = 4 ∧ ∃ l, l < n ∧ s.activeLane x l = true then
    (s.me.kseq.extractLsb' 32 32) ++ (s.me.kseq.extractLsb' 0 32 + 1) else s.me.kseq

/-- Lanes of `b` bits of a vector operand's registers as they stand in `t`. -/
def Sys2Proof.Claims.laneIn (s t : State) (d : VOp) (b l : Nat) : Nat :=
  lane b (groupNat ((List.range (2 ^ d.w.val)).map (fun k => t.here.v[s.vreg d k % 32]'(Nat.mod_lt _ (by decide))))) l

/-- A lane-wise instruction on `b`-bit lanes: each active lane l of d receives `f l`, each inactive one keeps its value, the flags
of the active lanes are raised, and nothing else changes (R159, R162, R82). -/
def Sys2Proof.Claims.LaneStep (s t : State) (d : VOp) (b : Nat) (x : LVX) (srTy : Nat) (f : Nat → Nat × Flags) : Prop :=
  let n := laneCount d.w.val b
  VecFrame s t (some d) ∧ Numbered s t ∧
  (∀ l, l < n → laneIn s t d b l = if s.activeLane x l then (f l).1 % 2 ^ b else lane b (groupNat (s.rdVs d)) l) ∧
  t.me = { s.me with kflags := s.me.kflags ||| (laneFlags s x n f).zeroExtend 64, kseq := seqAfter s x srTy n }

/-- A lane-wise instruction that long-latency d receives as R102 says. -/
def Sys2Proof.Claims.LaneOut (s t : State) (d : VOp) (look : Nat) (b : Nat) (x : LVX) (srTy : Nat) (f : Nat → Nat × Flags) : Prop :=
  let n := laneCount d.w.val b
  VecFrame s t none ∧ Numbered s t ∧ ∃ vs : List VReg,
  (∀ l, l < n → lane b (groupNat vs) l = if s.activeLane x l then (f l).1 % 2 ^ b else lane b (groupNat (s.rdVs d)) l) ∧
  t.me = { s.me with
    kflags := s.me.kflags ||| (laneFlags s x n f).zeroExtend 64, kseq := seqAfter s x srTy n, nextOut := s.me.nextOut + 1
    outs := s.me.outs ++ [{ id := s.me.nextOut, regs := (List.range (2 ^ d.w.val)).map (fun k => Reg.v (s.vcore ⟨0, Fin.ofNat 32 (d.n.val + k)⟩))
                            look := look, wait := .ready, val := .vecs vs, lathe := s.cur.lathe.isSome }] }

/-- R168, R170, R159, R80: add, subtract, multiply and fused multiply-add, pair and LV form: each active lane receives the rounded
or (integers) wrapped or clamped result of its lanes of the sources.
R83, R168, R169: the four minima and maxima, pair and LV form.
R171: bitwise operations on 64-bit lanes; shifts of 8- to 64-bit lanes, an amount of the lane's width or more giving 0 or copies
of the sign. No flag is raised. -/
def Obligations.VectorLanes : Prop :=
  (∀ (s : State) (ty : Fin 16) (d a b : VOp) (x : LVX),
   let e := elemBits ty.val
   let A := s.lanes a e 0
   let B := s.lanes b e 1
   let u := x.mod.val % 2 == 1
   let op := fun (i : Instr) (x : LVX) (f : Nat → Nat × Flags) => VecOk s i [d, a, b] → Gives i s (LaneStep s · d e x ty.val f)
   let fl := fun (g : Fmt → Rnd → Nat → Nat → Nat × Flags) (z : Int → Int → Int) (u : Bool) (x : LVX) (l : Nat) =>
     if 4 ≤ ty.val then g (fmtOf ty.val) (s.rnd x l) (A l) (B l)
     else putInt e u x.sat (z (readInt e u (A l)) (readInt e u (B l)))
   let fma := fun (u np nc : Bool) (x : LVX) (C : Nat → Nat) (l : Nat) =>
     if 4 ≤ ty.val then ffma (fmtOf ty.val) (s.rnd x l) np nc (A l) (B l) (C l)
     else putInt e u x.sat ((if np then -1 else 1) * (readInt e u (A l) * readInt e u (B l)) +
                            (if nc then -1 else 1) * readInt e u (C l))
   op (.vadd ty d a b) plainX (fl fadd (· + ·) false plainX) ∧ op (.vaddLV ty d a b x) x (fl fadd (· + ·) u x) ∧
   op (.vsub ty d a b) plainX (fl fsub (· - ·) false plainX) ∧ op (.vsubLV ty d a b x) x (fl fsub (· - ·) u x) ∧
   op (.vmul ty d a b) plainX (fl fmul (· * ·) false plainX) ∧ op (.vmulLV ty d a b x) x (fl fmul (· * ·) u x) ∧
   op (.vfma ty d a b) plainX (fma false false false plainX (s.lanes d e 2)) ∧
   (VecOk s (.vfmaLV ty d a b x) [d, a, b, x.c] → Gives (.vfmaLV ty d a b x) s (LaneStep s · d e x ty.val
     (fma u (x.mod.val / 2 % 2 == 1) (x.mod.val / 4 % 2 == 1) x (s.lanes x.c e 2))))) ∧
  (∀ (s : State) (ty : Fin 16) (d a b : VOp) (x : LVX),
   let e := elemBits ty.val
   let op := fun (i : Instr) (x : LVX) (least prop : Bool) => VecOk s i [d, a, b] →
     Gives i s (LaneStep s · d e x 0 (fun l =>
       let p := s.lanes a e 0 l
       let q := s.lanes b e 1 l
       let u := x.mod.val % 2 == 1
       if 4 ≤ ty.val then fminmax (fmtOf ty.val) least prop p q
       else (if readInt e u p < readInt e u q then (if least then p else q) else (if least then q else p), 0)))
   op (.vmin ty d a b) plainX true false ∧ op (.vminLV ty d a b x) x true false ∧
   op (.vmax ty d a b) plainX false false ∧ op (.vmaxLV ty d a b x) x false false ∧
   op (.vminp ty d a b) plainX true true ∧ op (.vminpLV ty d a b x) x true true ∧
   op (.vmaxp ty d a b) plainX false true ∧ op (.vmaxpLV ty d a b x) x false true) ∧
  (∀ (s : State) (sz : Fin 4) (d a b : VOp) (x : LVX),
   let e := 8 * 2 ^ sz.val
   let log := fun (i : Instr) (x : LVX) (f : Word → Word → Word) => VecOk s i [d, a, b] →
     Gives i s (LaneStep s · d 64 x 0 (fun l =>
       ((f (BitVec.ofNat 64 (s.lanes a 64 0 l)) (BitVec.ofNat 64 (s.lanes b 64 1 l))).toNat, 0)))
   let sh := fun (i : Instr) (x : LVX) (f : BitVec e → Nat → BitVec e) => VecOk s i [d, a, b] →
     Gives i s (LaneStep s · d e x 0 (fun l => ((f (BitVec.ofNat e (s.lanes a e 0 l)) (s.lanes b e 1 l)).toNat, 0)))
   log (.vand d a b) plainX (· &&& ·) ∧ log (.vandLV d a b x) x (· &&& ·) ∧
   log (.vor d a b) plainX (· ||| ·) ∧ log (.vorLV d a b x) x (· ||| ·) ∧
   log (.vxor d a b) plainX (· ^^^ ·) ∧ log (.vxorLV d a b x) x (· ^^^ ·) ∧
   log (.vandn d a b) plainX (fun p q => p &&& ~~~q) ∧ log (.vandnLV d a b x) x (fun p q => p &&& ~~~q) ∧
   sh (.vshl sz d a b) plainX (fun p n => p <<< n) ∧ sh (.vshlLV sz d a b x) x (fun p n => p <<< n) ∧
   sh (.vshr sz d a b) plainX (fun p n => p >>> n) ∧ sh (.vshrLV sz d a b x) x (fun p n => p >>> n) ∧
   sh (.vsra sz d a b) plainX (fun p n => p.sshiftRight n) ∧ sh (.vsraLV sz d a b x) x (fun p n => p.sshiftRight n))

/-- R172, R173, R174: conversion, the six special functions (long-latency, correctly rounded), and complex multiplication.
What these rules leave open is the model's choice: log entry 9. -/
def Obligations.VectorConvert : Prop := ∀ (s : State) (ty dty : Fin 16) (d a b : VOp) (look : Look) (x : LVX),
  let e := elemBits ty.val
  let A := s.lanes a e 0
  let cvt := fun (x : LVX) (us ud : Bool) (l : Nat) =>
    if 4 ≤ ty.val then
      (if 4 ≤ dty.val then finish (fmtOf dty.val) (s.rnd x l) (unpack (fmtOf ty.val) (A l),
          flagIf (unpack (fmtOf ty.val) (A l)).isSnan fNv)
       else floatToInt (s.rnd x l).plain (elemBits dty.val) ud (unpack (fmtOf ty.val) (A l)))
    else if 4 ≤ dty.val then roundVal (fmtOf dty.val) (s.rnd x l) (intVal (readInt e us (A l)))
    else putInt (elemBits dty.val) ud x.sat (readInt e us (A l))
  let spec := fun (i : Instr) (x : LVX) (f : Fmt → Rnd → Nat → Nat × Flags) => VecOk s i [d, a] →
    Gives i s (LaneOut s · d look.val e x ty.val (fun l => f (fmtOf ty.val) (s.rnd x l) (A l)))
  let mul := fun (i : Instr) (x : LVX) => VecOk s i [d, a, b] → Gives i s (LaneStep s · d 64 x 0 (fun l =>
    cmul ⟨if s.mode x == 4 then 0 else s.mode x, x.sat, 0⟩ (s.lanes a 64 0 l) (s.lanes b 64 1 l)))
  (VecOk s (.vcvt ty dty d a) [d, a] → Gives (.vcvt ty dty d a) s
    (LaneStep s · d (elemBits dty.val) plainX dty.val (cvt plainX false false))) ∧
  (VecOk s (.vcvtLV ty dty d a x) [d, a] → Gives (.vcvtLV ty dty d a x) s
    (LaneStep s · d (elemBits dty.val) x dty.val (cvt x (x.mod.val % 2 == 1) (x.mod.val / 2 % 2 == 1)))) ∧
  spec (.vrcp ty look d a) plainX fnRcp ∧ spec (.vrcpLV ty look d a x) x fnRcp ∧
  spec (.vrsq ty look d a) plainX fnRsq ∧ spec (.vrsqLV ty look d a x) x fnRsq ∧
  spec (.vexp2 ty look d a) plainX fnExp2 ∧ spec (.vexp2LV ty look d a x) x fnExp2 ∧
  spec (.vlog2 ty look d a) plainX fnLog2 ∧ spec (.vlog2LV ty look d a x) x fnLog2 ∧
  spec (.vtanh ty look d a) plainX fnTanh ∧ spec (.vtanhLV ty look d a x) x fnTanh ∧
  spec (.vsigm ty look d a) plainX fnSigm ∧ spec (.vsigmLV ty look d a x) x fnSigm ∧
  mul (.vcmul d a b) plainX ∧ mul (.vcmulLV d a b x) x

/-- Value of the pairwise tree of R86 at node i of level k. -/
def Sys2Proof.Claims.tree (f : Nat → Nat → Nat × Flags) (v : Nat → Nat) : Nat → Nat → Nat × Flags
  | 0, i => (v i, 0)
  | k + 1, i =>
    let l := tree f v k (2 * i)
    let r := tree f v k (2 * i + 1)
    let q := f l.1 r.1
    (q.1, l.2 ||| r.2 ||| q.2)

/-- The running value s_i of R86: lane 0's contribution begins it, the operator joins each further lane's. -/
def Sys2Proof.Claims.running (f : Nat → Nat → Nat × Flags) (v : Nat → Nat) : Nat → Nat × Flags
  | 0 => (v 0, 0)
  | i + 1 =>
    let p := running f v i
    ((f p.1 (v (i + 1))).1, p.2 ||| (f p.1 (v (i + 1))).2)

/-- Bits of a type as a reduction writes them: every NaN is the canonical one (R74). -/
def Sys2Proof.Claims.canonical (ty v : Nat) : Nat :=
  if 4 ≤ ty ∧ (unpack (fmtOf ty) v).isNan = true then (fmtOf ty).qnan else v

/-- R74, R86, R177, R178: `vred` leaves the value of the pairwise tree in lane 0 and zero in every other lane. `vscan` writes every lane:
an active lane of an inclusive scan with its own running value, every other with the one before it (lane 0 with the identity), a NaN as
the canonical one. Inactive lanes contribute the operator's identity. What these rules leave open is the model's choice: log entry 17.
R76, R180: `vquant` packs block k of lanes 32k to 32k + 31 at block position k from byte 0, the rest zero; `vdeq` expands block
l / 32's element l mod 32 into FP32 lane l. -/
def Obligations.VectorReductionsAndBlocks : Prop :=
  (∀ (s : State) (ty : Fin 16) (op : Fin 8) (ex : Bool) (d a : VOp) (x : LVX),
   let e := elemBits ty.val
   let n := laneCount a.w.val e
   let f := fun (x : LVX) => foldOp op.val ty.val (x.mod.val % 2 == 1) ⟨if s.mode x == 4 then 0 else s.mode x, x.sat, 0⟩
   let z := fun (x : LVX) => foldId op.val ty.val (x.mod.val % 2 == 1)
   let y := fun (x : LVX) (l : Nat) => if s.activeLane x l then lane e (groupNat (s.rdVs a)) l else z x
   let done := fun (t : State) (g : Nat → Nat) (fl : Flags) => VecFrame s t (some d) ∧ Numbered s t ∧
     (∀ l, l < laneCount d.w.val e → laneIn s t d e l = g l % 2 ^ e) ∧
     t.me = { s.me with kflags := s.me.kflags ||| fl.zeroExtend 64 }
   let red := fun (i : Instr) (x : LVX) => VecOk s i [d, a] → Gives i s (fun t =>
     let r := tree (f x) (y x) (Nat.log2 n) 0
     done t (fun l => if l = 0 then r.1 else 0) r.2)
   let scan := fun (i : Instr) (x : LVX) => VecOk s i [d, a] → Gives i s (fun t =>
     let r := running (f x) (y x)
     done t (fun l => if ex = false ∧ s.activeLane x l = true then canonical ty.val (r l).1
                      else if l = 0 then z x else canonical ty.val (r (l - 1)).1) (r (n - 1)).2)
   red (.vred ty op d a) plainX ∧ red (.vredLV ty op d a x) x ∧ scan (.vscan ty op ex d a) plainX ∧ scan (.vscanLV ty op ex d a x) x) ∧
  (∀ (s : State) (ty : Fin 16) (d a : VOp) (x : LVX),
   let m := ty.val - 6
   let bits := 8 + 32 * m
   let r := fun (x : LVX) => if s.mode x == 4 then 0 else s.mode x
   let g := groupNat (s.rdVs a)
   let after := fun (t : State) => groupNat ((List.range (2 ^ d.w.val)).map (fun k => t.here.v[s.vreg d k % 32]'(Nat.mod_lt _ (by decide))))
   let done := fun (t : State) (fl : Flags) => VecFrame s t (some d) ∧ Numbered s t ∧
     t.me = { s.me with kflags := s.me.kflags ||| fl.zeroExtend 64 }
   let q := fun (x : LVX) (k : Nat) => bfpQuant m (r x) ((List.range 32).map (fun j => unpack fp32 (lane 32 g (32 * k + j))))
   let quant := fun (i : Instr) (x : LVX) => VecOk s i [d, a] → Gives i s (fun t =>
     done t ((List.range (2 ^ d.w.val)).foldl (fun f k => f ||| (q x k).2) 0) ∧
     (∀ k, k < 2 ^ d.w.val → after t / 2 ^ (bits * k) % 2 ^ bits = (q x k).1 % 2 ^ bits) ∧ after t < 2 ^ (bits * 2 ^ d.w.val))
   let e := fun (x : LVX) (l : Nat) => roundVal fp32 ⟨r x, x.sat, 0⟩ (bfpElem m (lane bits g (l / 32)) (l % 32))
   let deq := fun (i : Instr) (x : LVX) => VecOk s i [d, a] → Gives i s (fun t =>
     done t ((List.range (32 * 2 ^ d.w.val)).foldl (fun f l => f ||| (e x l).2) 0) ∧
     ∀ l, l < 32 * 2 ^ d.w.val → lane 32 (after t) l = (e x l).1 % 2 ^ 32)
   quant (.vquant ty d a) plainX ∧ quant (.vquantLV ty d a x) x ∧ deq (.vdeq ty d a) plainX ∧ deq (.vdeqLV ty d a x) x)

/-- R181, R182: `vcmp` writes all 128 bits of its predicate, clear from the lane count upward; the predicate operations,
which take no dispatch number (log entry 18).
R158, R111: an operand outside the window raises VWINOUT, naming the first that fails in the order d, a, b, c; the instruction
has no effect. -/
def Obligations.PredicatesAndWindow : Prop :=
  (∀ (s : State) (ty : Fin 16) (cc : Fin 4) (a b : VOp) (pd pa pb : Fin 8) (g : R),
   let e := elemBits ty.val
   let n := max (laneCount a.w.val e) (laneCount b.w.val e)
   let c := fun (l : Nat) => cmpLane ty.val cc.val (s.lanes a e 0 l) (s.lanes b e 1 l)
   (VecOk s (.vcmp pd ty cc a b) [a, b] → Gives (.vcmp pd ty cc a b) s (fun t =>
     VecFrame s t none ∧ Numbered s t ∧
     (∀ i, i < 128 → (t.me.pred pd.val).getLsbD i = (decide (i < n) && (c i).1)) ∧
     (∀ k : Fin 8, k ≠ pd → t.me.pred k.val = s.me.pred k.val) ∧
     { t.me with p := s.me.p } =
       { s.me with kflags := s.me.kflags ||| ((List.range n).foldl (fun f l => f ||| (c l).2) 0 : Flags).zeroExtend 64 })) ∧
   Gives (.pand pd pa pb) s (PredStep s · pd (s.rdP pa.val &&& s.rdP pb.val)) ∧
   Gives (.por pd pa pb) s (PredStep s · pd (s.rdP pa.val ||| s.rdP pb.val)) ∧
   Gives (.pnot pd pa) s (PredStep s · pd (~~~ s.rdP pa.val)) ∧
   Gives (.pcnt g pa) s (RegStep s · g (BitVec.ofNat 64 ((List.range 128).filter (fun i => (s.rdP pa.val).getLsbD i)).length)) ∧
   (∃ i, (i = 128 ∨ (i < 128 ∧ (s.rdP pa.val).getLsbD i = true)) ∧ (∀ j, j < i → (s.rdP pa.val).getLsbD j = false) ∧
     Gives (.pfirst g pa) s (RegStep s · g (BitVec.ofNat 64 i))) ∧
   ∃ v : Pred, (∀ i, i < 128 → v.getLsbD i = decide (i < (s.rd g.val).toNat)) ∧ Gives (.plim pd g) s (PredStep s · pd v)) ∧
  (∀ (s : State) (ty : Fin 16) (d a b : VOp) (x : LVX),
   (s.vin d = false → exec (.vadd ty d a b) s = .next (s.fault cVWINOUT 4 0 0) ∧
     exec (.vfmaLV ty d a b x) s = .next (s.fault cVWINOUT 4 0 0)) ∧
   (s.vin d = true → s.vin a = false → exec (.vadd ty d a b) s = .next (s.fault cVWINOUT 1 0 0)) ∧
   (s.vin d = true → s.vin a = true → s.vin b = false → exec (.vadd ty d a b) s = .next (s.fault cVWINOUT 2 0 0)) ∧
   (s.vin d = true → s.vin a = true → s.vin b = true → s.vin x.c = false →
     exec (.vfmaLV ty d a b x) s = .next (s.fault cVWINOUT 3 0 0)) ∧
   (s.cur.lathe = none → winCnt s.src.kvwin = 0 → exec (.vadd ty d a b) s = .next (s.fault cVWINOUT 4 0 0)))

/-- R175, R176, R179: the moves: `vperm` takes lane b(l) mod n, `vbcast` lane k, `vshuf` lane l xor k; `vsel` takes a or b by its
selector on every lane; `vrng` the random value of R90 in the destination's format.
R25, R183, R184: `vxall` reads its source, takes its number and joins its core's queue, and its thread waits (in the Lathe the
repetitions do). An exchange of matching heads takes them off their queues and writes slice k of d on the j-th member of the block from
slice j of a on its k-th member, and no other register; the threads are ready again. The block is that of R25: of a compute core two
neighbours of a row, a row, two rows or the whole cluster, of an optimiser core the aligned ones of its hub. -/
def Obligations.VectorMovesAndExchange : Prop :=
  (∀ (s : State) (ty : Fin 16) (sz4 : Fin 4) (d a b : VOp) (k : Fin 128) (x : LVX),
   let e := 8 * 2 ^ sz4.val
   let f := elemBits ty.val
   let perm := fun (i : Instr) (x : LVX) => VecOk s i [d, a, b] → Gives i s (LaneStep s · d e x 0 (fun l =>
     (s.lanes a e 0 (s.lanes b e 1 l % laneCount d.w.val e), 0)))
   let cast := fun (i : Instr) (x : LVX) => VecOk s i [d, a] → Gives i s (LaneStep s · d e x 0 (fun _ => (s.lanes a e 0 k.val, 0)))
   let shuf := fun (i : Instr) (x : LVX) => VecOk s i [d, a] → Gives i s (LaneStep s · d e x 0 (fun l => (s.lanes a e 0 (l ^^^ k.val), 0)))
   let sel := fun (i : Instr) (pg : Fin 8) (pn : Bool) => VecOk s i [d, a, b] → Gives i s (LaneStep s · d f plainX 0 (fun l =>
     (if (s.rdP pg.val).getLsbD l = pn then s.lanes b f 1 l else s.lanes a f 0 l, 0)))
   let rng := fun (i : Instr) (x : LVX) => VecOk s i [d, a, b] → Gives i s (LaneStep s · d f x 0 (fun l =>
     let key := lane 64 (groupNat (s.rdVs a)) 0
     let tid := lane 64 (groupNat (s.rdVs a)) 1 % 2 ^ 32
     let g := (rndBits (BitVec.ofNat 64 key) (BitVec.ofNat 64 tid) (BitVec.ofNat 64 (s.lanes b 64 1 l))).toNat
     (if ty.val = 3 then g else if ty.val = 2 then g % 2 ^ 32
      else if ty.val = 6 then (roundVal fp32 rne (.fin false (g / 2 ^ 40) (-24))).1
      else (roundVal bf16 rne (.fin false (g / 2 ^ 56) (-8))).1, 0)))
   perm (.vperm sz4 d a b) plainX ∧ perm (.vpermLV sz4 d a b x) x ∧ cast (.vbcast sz4 d a k) plainX ∧ cast (.vbcastLV sz4 d a k x) x ∧
   shuf (.vshuf sz4 d a k) plainX ∧ shuf (.vshufLV sz4 d a k x) x ∧ sel (.vsel ty d a b) 0 false ∧
   (∀ pg, x.pg = some pg → sel (.vselLV ty d a b x) pg x.pn) ∧ rng (.vrng ty d a b) plainX ∧ rng (.vrngLV ty d a b x) x) ∧
  (∀ (s : State) (ty : Fin 16) (d a : VOp) (x : LVX),
   let joins := fun (i : Instr) => VecOk s i [d, a] → Gives i s (fun t =>
     t.here.vxq = s.here.vxq ++ [{ n := 2 ^ ty.val, w := a.w.val, d := s.vcore d, data := s.rdVs a, slot := s.cur.slot,
                                   uid := s.me.uid, pc := s.recPc, seq := s.cur.replay.getD ((s.here.dispSeq + 1) % 2 ^ 32)
                                   lathe := s.cur.lathe.isSome }] ∧
     VecFrame s (t.setCore s.cur.core { t.here with vxq := s.here.vxq }) none ∧ Numbered s t ∧ t.me = s.me ∧
     (s.cur.lathe = none → t.unblocked s.cur.core s.cur.slot = false))
   joins (.vxall ty d a) ∧ joins (.vxallLV ty d a x) ∧
   ∀ h, (s.core s.ev.q).vxq.head? = some h → coreExists s.ev.q = true → (h.n = 2 ∨ h.n = 4 ∨ h.n = 8 ∨ h.n = 16) → h.w ≤ 3 →
     let ms := gangCores s.ev.q h.n
     ms ≠ [] → ∀ m : Nat → VxCmd, (∀ j c, ms[j]? = some c → (s.core c).vxq.head? = some (m j) ∧ (m j).n = h.n ∧ (m j).w = h.w ∧
         (m j).uid ≠ 0 ∧ (m j).d + 2 ^ h.w ≤ 32) →
       Gives .vxallExchange s (fun t => t.mem = s.mem ∧ (∀ c, c ∉ ms → t.core c = s.core c) ∧ ∀ j c, ms[j]? = some c →
         (t.core c).vxq = (s.core c).vxq.tail ∧
         (∀ k, k ≠ (m j).slot → t.thr c k = s.thr c k) ∧
         ((s.thr c (m j).slot).uid = (m j).uid → t.thr c (m j).slot =
           if (m j).lathe then s.thr c (m j).slot else { s.thr c (m j).slot with readyAt := s.cycle }) ∧
         (∀ r : Fin 32, (r.val < (m j).d ∨ (m j).d + 2 ^ h.w ≤ r.val) → (t.core c).v[r] = (s.core c).v[r]) ∧
         ∀ k, k < h.n → ∀ bit, bit < 1024 * 2 ^ h.w / h.n →
           (groupNat ((List.range (2 ^ h.w)).map (fun i => (t.core c).v[((m j).d + i) % 32]'(Nat.mod_lt _ (by decide))))).testBit
             (1024 * 2 ^ h.w / h.n * k + bit) = (groupNat (m k).data).testBit (1024 * 2 ^ h.w / h.n * j + bit)))

/-! ## Windows, gangs, migration, safe points, the Lathe (R21, R25 to R28, R129, R144 to R155) -/

/-- R129, R131, R185: with no vector instruction of the thread under way, a `kset` of `kvwin` to base b and count n that ends inside the
file and meets no other thread's window writes it, and every register that leaves the window reads zero, every other as before; otherwise it is VWINOVL and writes nothing. A
reserved bit is ILLENC whatever the window. -/
def Obligations.WindowWrite : Prop := ∀ (s : State) (a : R) (v6 : Fin 64),
  let v := if a = 0 then BitVec.ofNat 64 v6.val else s.rd a.val
  let b := v.toNat % 32
  let n := v.toNat / 256
  let b0 := winBase s.me.kvwin
  let n0 := winCnt s.me.kvwin
  let apart := ∀ x ∈ s.here.threads, x.2.live = true → x.1 ≠ s.cur.slot → n = 0 ∨ winCnt x.2.kvwin = 0 ∨
    b + n ≤ winBase x.2.kvwin ∨ winBase x.2.kvwin + winCnt x.2.kvwin ≤ b
  (v.toNat ≠ b + 256 * n ∨ b % 4 ≠ 0 ∨ n % 4 ≠ 0 ∨ 32 < n → exec (.kset a 7 v6) s = .next (s.illenc 0 (if a = 0 then 8 else 4))) ∧
  (v.toNat = b + 256 * n → b % 4 = 0 → n % 4 = 0 → n ≤ 32 → s.vecBusy s.cur.core s.cur.slot = false → b0 + n0 ≤ 32 →
    (b + n ≤ 32 → apart → Gives (.kset a 7 v6) s (fun t =>
      t.me = { s.me with kvwin := v } ∧ t.mem = s.mem ∧ (∀ c k, (c ≠ s.cur.core ∨ k ≠ s.cur.slot) → t.thr c k = s.thr c k) ∧
      ∀ m : Fin 32, t.here.v[m] =
        if b0 ≤ m.val ∧ m.val < b0 + n0 ∧ ¬ (b ≤ m.val ∧ m.val < b + n) then 0 else s.here.v[m])) ∧
    (¬ (b + n ≤ 32 ∧ apart) → exec (.kset a 7 v6) s = .next (s.faultSelf cVWINOVL)))

/-- R25, R144: `gang` whose every other member core has a free slot and room for the leader's window forms the gang: d is 0, member
j is the j-th core of the block, and each follower's slot holds a copy of the leader's registers; otherwise d is the mask of the
cores that refuse and nothing else changes. In a gang it is GANGOP, as `split` is outside one. -/
def Obligations.GangForms : Prop := ∀ (s : State) (d : R) (n : Fin 17),
  let ms := gangCores s.cur.core n.val
  (s.me.gang.isSome → s.me.drupe = none → exec (.gang d n) s = .next (s.fault cGANGOP 6 0 0)) ∧
  (s.me.gang = none → s.cur.follows = false → exec .split s = .next (s.fault cGANGOP 6 0 0)) ∧
  (s.me.gang = none → s.me.drupe = none → ms ≠ [] →
    ((∀ m ∈ ms, m ≠ s.cur.core → s.accepts m s.src.kvwin = true) → Gives (.gang d n) s (fun t =>
      t.mem = s.mem ∧
      t.me = { s.me.setReg d.val 0 with gang := if s.cur.core ∈ ms then some ⟨s.me.uid, n.val, ms.idxOf s.cur.core⟩ else none } ∧
      (∀ j m, ms[j]? = some m → m ≠ s.cur.core → ∃ k, s.freeSlot m = some k ∧ (t.thr m k).live = true ∧
        (t.thr m k).gang = some ⟨s.me.uid, n.val, j⟩ ∧ (t.thr m k).pc = s.me.pc ∧ (t.thr m k).p = s.me.p ∧
        (∀ r : R, (t.thr m k).reg r.val = t.me.reg r.val) ∧ (t.thr m k).kvwin = s.me.kvwin ∧ (t.thr m k).krole = s.me.krole ∧
        (t.core m).v = (s.core m).v) ∧
      (∀ c, c ∉ ms → c ≠ s.cur.core → t.core c = s.core c))) ∧
    ((∃ m ∈ ms, m ≠ s.cur.core ∧ s.accepts m s.src.kvwin = false) → ∃ mask : Nat, mask < 2 ^ 16 ∧
      (∀ j, mask.testBit j = match ms[j]? with
        | some m => decide (m ≠ s.cur.core) && !s.accepts m s.src.kvwin
        | none => false) ∧
      Gives (.gang d n) s (RegStep s · d (BitVec.ofNat 64 mask))))

/-- R151: `safe` with nothing outstanding sets the safe-point count to 0; with a switch of the thread requested that can be saved,
it saves the context (next group's address, the registers, the live masks, the window's registers) and frees the slot.
R152: `lathe` on a core whose Lathe is free begins a capture of n groups, with its stride, its count (the immediate, or the
register's low 32 bits) and the window in force; in a Drupe it is DRUPEOP (R297). -/
def Obligations.SafePointAndLathe : Prop :=
  (∀ (s : State) (gl : BitVec 15) (pl : BitVec 8) (vl : BitVec 32),
   s.me.drupe = none → s.me.gang = none → s.cur.follows = false → s.pendingOf s.cur.core s.cur.slot = false →
   s.latheIdle s.cur.core s.cur.slot = true →
   (s.switchDue s.cur.core s.cur.slot = false → Gives (.safe gl pl vl) s (fun t => OnlyMe s t ∧ t.me = { s.me with safeCount := 0 })) ∧
   (s.switchDue s.cur.core s.cur.slot = true → s.savable s.cur.core s.cur.slot = true → Gives (.safe gl pl vl) s (fun t =>
     (t.thr s.cur.core s.cur.slot).live = false ∧ t.mem = s.mem ∧
     (∀ c k, (c ≠ s.cur.core ∨ k ≠ s.cur.slot) → t.thr c k = s.thr c k) ∧
     ∃ x, t.here.absent = s.here.absent ++ [x] ∧ x.slot = s.cur.slot ∧ x.thr.uid = s.me.uid ∧ x.thr.safeCount = 0 ∧
       x.thr.pc = s.cur.addr + 8 ∧ (∀ j, j < 16 → ctl x.thr j = ctl s.me j) ∧ x.thr.g = s.me.g ∧ x.thr.p = s.me.p ∧
       (∀ k, x.glive.getLsbD (k + 1) = gl.getLsbD k) ∧ x.plive = pl ∧ x.vlive = vl ∧
       x.win = (List.range (winCnt s.me.kvwin)).map (fun j =>
         s.here.v[(winBase s.me.kvwin + j) % 32]'(Nat.mod_lt _ (by decide)))))) ∧
  (∀ (s : State) (n1 : Fin 16) (stride : Fin 32) (cg : R) (count : BitVec 32),
   (s.me.drupe.isSome → exec (.lathe n1 stride cg count) s = .next (s.fault cDRUPEOP 6 0 0)) ∧
   (s.me.drupe = none → s.here.lathe = none → exec (.lathe n1 stride cg count) s = .next (s.setCore s.cur.core { s.here with
     lathe := some { slot := s.cur.slot, uid := s.me.uid, pc := s.cur.addr.toNat, left := n1.val + 1, stride := stride.val
                     count := if cg = 0 then count.toNat else (s.rd cg.val).toNat % 2 ^ 32
                     wbase := winBase s.src.kvwin, wcnt := winCnt s.src.kvwin } })))

/-! ## Matrix unit and Rind at issue (R190 to R219) -/

/-- The dispatch number an instruction takes (R162), or keeps when it runs again (R355). -/
def Sys2Proof.Claims.seqOf (s : State) : Nat := s.cur.replay.getD ((s.here.dispSeq + 1) % 2 ^ 32)

/-- R191, R192: a matrix command that finds room in the queue of 16, the thread's earlier accesses performed, joins it with the registers it reads at issue and the control
registers sampled; `mstat` gives the status word; a `mfence` with no open command passes. Nothing else changes.
R201: `rowout` of a row slot that holds a row of the accumulator, the thread's earlier accesses performed, copies its bytes to the address of gb (none for 0) and frees
the slot; any other address is MROW.
R210: a Rind instruction that may issue takes its number and joins the queue with its scalar operands and the envelopes that a
window of its thread still shows as they were; its envelope result will be renamed, its scalar result is outstanding. A computed
earlier write of the same envelope by the thread is renamed first (R103). Nothing else changes.
R217, R218: `est` writes the image of its envelope at an aligned vault address, and every other byte of memory is as before;
`eld` of a vault address reads the image's bytes and joins the queue with them. An out-of-range address faults (R247); at a misaligned one
the instruction completes with ENVOP and no effect of its own, as the model chooses (log entry 103). -/
def Obligations.MatrixAndRindIssue : Prop :=
  (∀ (s : State) (acc : Fin 8) (ga gb : GPair) (a b : R) (ks : BitVec 16) (r1 : Fin 64) (c1 : Fin 32)
     (look : Look) (x : Bool),
   let q := fun (i : Instr) (ops : List Word) => s.here.mq.length + (if s.here.mrun.isSome then 1 else 0) < 16 →
     s.me.unsettled = false → Gives i s (fun t =>
     t.here.mq = s.here.mq ++ [{ ins := i, s := s.sample ops, core := s.cur.core, slot := s.cur.slot, uid := s.me.uid, pc := s.recPc
                                 seq := seqOf s, launch := s.me.launch, cont := s.me.cont }] ∧
     VecFrame s (t.setCore s.cur.core { t.here with mq := s.here.mq }) none ∧ Numbered s t ∧ t.me = s.me)
   q (.mma acc ga b ks r1 c1) [s.rd (2 * ga.val), s.rd (2 * ga.val + 1), s.rd b.val] ∧
   q (.mmas acc ga gb ks r1 c1 x) [s.rd (2 * ga.val), s.rd (2 * ga.val + 1), s.rd (2 * gb.val), s.rd (2 * gb.val + 1)] ∧
   q (.mzero acc x) [] ∧ q (.mwb a b) [s.rd a.val, s.rd b.val] ∧ q (.mdrain acc a r1 c1 x) [s.rd a.val] ∧
   q (.asave acc a) [s.rd a.val] ∧ q (.arest acc a) [s.rd a.val] ∧
   Gives (.mstat acc a look) s (fun t => VecFrame s t none ∧ Numbered s t ∧ t.me = if a = 0 then s.me else { s.me with
     outs := s.me.outs ++ [{ id := s.me.nextOut, regs := s.absRegs [.g a.val], look := look.val, wait := .ready
                             val := .words [BitVec.ofNat 64 (s.here.accStatus acc.val)], lathe := s.cur.lathe.isSome }]
     nextOut := s.me.nextOut + 1 }) ∧
   ((∀ m, (m ∈ s.here.mq ∨ s.here.mrun = some m ∨ m ∈ s.here.mrows) → x = false ∧ m.uid ≠ s.me.uid) →
     Gives (.mfence x) s (fun t => VecFrame s t none ∧ Numbered s t ∧ t.me = s.me))) ∧
  (∀ (s : State) (acc : Fin 8) (a b : R),
   let at_ := (s.rd a.val).toNat
   let d := (s.rd b.val).toNat
   let hit := s.here.rowSlots.find? (fun r => r.2.addr == at_ && r.2.acc == acc.val)
   (hit = none → exec (.rowout acc a b) s = .next (s.fault cMROW 1 0 0)) ∧
   ∀ j r, hit = some (j, r) → (d = 0 ∨ d + r.bytes ≤ 2 ^ 32) → s.me.unsettled = false → s.mem.wf = true →
     Gives (.rowout acc a b) s (fun t => Numbered s t ∧ t.here.rowSlots = s.here.rowSlots.filter (fun x => x.1 != j) ∧
       t.me = s.me ∧ t.here.v = s.here.v ∧ t.here.acc = s.here.acc ∧
       (d ≠ 0 → t.mem.bytes d r.bytes = s.mem.bytes at_ r.bytes) ∧
       ∀ x, (d = 0 ∨ x < d ∨ d + r.bytes ≤ x) → t.mem.get x = s.mem.get x)) ∧
  (∀ (s : State) (d a b : Fin 4) (g : GPair) (r : R) (look : Look),
   let i := fun (i : Instr) (dst : Option Nat) (srcs : List Nat) (ops : List Word) (w : Option Nat) (look : Nat) =>
     s.rindWaits dst srcs = false →
     let u := s.modHere (fun x => x.landOwn s.me.uid dst)
     Gives i s (fun t =>
       t.here.rq = u.here.rq ++ [{ ins := i, s := s.sample ops, slot := s.cur.slot, uid := s.me.uid, pc := s.recPc, seq := seqOf s
                                   launch := s.me.launch, lathe := s.cur.lathe.isSome
                                   old := u.here.oldEnvs s.me.uid srcs }] ∧
       t.here.envPend = u.here.envPend ++ (match dst with
         | some e => [{ d := e, uid := s.me.uid, seq := seqOf s, look := look + 1, res := none, lathe := s.cur.lathe.isSome }]
         | none => []) ∧
       VecFrame u (t.setCore s.cur.core { t.here with rq := u.here.rq, envPend := u.here.envPend }) none ∧ Numbered u t ∧
       t.me = match w with
         | some n => if n = 0 then s.me else { s.me with
             outs := s.me.outs ++ [{ id := s.me.nextOut, regs := s.absRegs [.g n], look := look, wait := .rind (seqOf s)
                                     val := .words [], lathe := s.cur.lathe.isSome }]
             nextOut := s.me.nextOut + 1 }
         | none => s.me)
   let pair := [s.rd (2 * g.val), s.rd (2 * g.val + 1)]
   i (.eclr d r) (some d.val) [] (if r = 0 then [] else [s.rd r.val]) none 0 ∧
   i (.eline d a g look) (some d.val) [a.val] pair none look.val ∧
   i (.eadd d a b look) (some d.val) [a.val, b.val] [] none look.val ∧
   i (.emax d a b look) (some d.val) [a.val, b.val] [] none look.val ∧
   i (.einf d a b look) (some d.val) [a.val, b.val] [] none look.val ∧
   i (.econj d a look) (some d.val) [a.val] [] none look.val ∧ i (.esimp d a look) (some d.val) [a.val] [] none look.val ∧
   i (.ecnt a r) none [a.val] [] (some r.val) 0 ∧ i (.eeval a g look) none [a.val] pair (some (2 * g.val + 1)) look.val ∧
   i (.earg a g look) none [a.val] pair (some (2 * g.val + 1)) look.val ∧
   i (.eget a g) none [a.val] pair (some (2 * g.val + 1)) 0) ∧
  (∀ (s : State) (d : Fin 4) (a : R) (look : Look),
   let ea := (s.rd a.val).toNat
   let img := (s.here.envReg d.val).image
   let n := s.mem.nat (ea + 8) 4
   (2 ^ 52 ≤ ea → exec (.eld d a look) s = .next (s.fault cADDRRNG 1 ea 0) ∧ exec (.est d a) s = .next (s.fault cADDRRNG 1 ea 0)) ∧
   (ea < 2 ^ 52 → ea % 16 ≠ 0 → ∀ i, (i = .eld d a look ∨ i = .est d a) →
     exec i s = .next ((s.dispatch i).1.late s.cur.core s.cur.slot s.me.uid (s.dispatch i).2 cENVOP 1 0 0 0 5 s.me.launch)) ∧
   (ea % 16 = 0 → s.rindWaits none [d.val] = false → s.here.rq = [] → (∀ p ∈ s.here.envPend, p.d ≠ d.val) → s.me.unsettled = false → ea + img.length ≤ 2 ^ 32 →
     (s.here.envReg d.val).pieces.length ≤ 256 → s.mem.wf = true → Gives (.est d a) s (fun t => Numbered s t ∧ t.me = s.me ∧ t.here.env = s.here.env ∧
       t.mem.bytes ea img.length = img ∧ ∀ x, (x < ea ∨ ea + img.length ≤ x) → t.mem.get x = s.mem.get x)) ∧
   (ea % 16 = 0 → ea + 8192 ≤ 2 ^ 32 → s.rindWaits (some d.val) [] = false → s.me.unsettled = false → s.src.kmig.toNat % 2 = 0 →
     Gives (.eld d a look) s (fun t => t.mem = s.mem ∧ Numbered s t ∧ t.me = s.me ∧
       ∃ r, t.here.rq = s.here.rq ++ [r] ∧ r.ins = .eld d a look ∧ r.seq = seqOf s ∧ r.uid = s.me.uid ∧
         r.image = s.mem.bytes ea (if 256 < n then 16 else 16 + 16 * n))))

/-! ## Messages (R283 to R297) -/

/-- Nothing has changed but the executing thread and the outbox of its core (and the name the message takes); what happens before the
send, a release, is visible to every thread (R273; `hidden` is the model's field, log entry 91). -/
def Sys2Proof.Claims.OnlySends (s t : State) : Prop :=
  OnlyMe s { (t.setCore s.cur.core { t.here with outbox := s.here.outbox }) with nextUid := s.nextUid, hidden := s.hidden } ∧
  t.hidden = s.hidden.filter (fun x => !x.knows.contains s.me.uid)

/-- A message of the executing thread has joined its core's outbox, ready to leave: its kind, network, tag, target and flits, and
the sender's rank, core, slot and step (R283, R286). -/
def Sys2Proof.Claims.Posts (s t : State) (kind vn tag : Nat) (tgt : Target) (mid : Nat) (flits : List (BitVec 512)) : Prop :=
  ∃ o : OutboxEntry, t.here.outbox = s.here.outbox ++ [o] ∧ o.ready = true ∧
    o.msg.kind = kind ∧ o.msg.vn = vn ∧ o.msg.tag = tag ∧ o.msg.dst = tgt.core ∧ o.msg.dslot = tgt.slot ∧ o.msg.ddev = tgt.dev ∧
    o.msg.mid = mid ∧ o.msg.nf + 1 = flits.length ∧ o.msg.flits = flits ∧
    o.msg.sdev = s.rank ∧ o.msg.src = s.cur.core ∧ o.msg.sslot = s.cur.slot ∧ o.msg.step = s.src.kstep.toNat % 2 ^ 32

/-- Bytes of memory as flits of 64, lowest address in the lowest bits (R288). -/
def Sys2Proof.Claims.flitAt (s : State) (a : Nat) : BitVec 512 :=
  BitVec.ofNat 512 (((List.range 64).map (fun i => (s.mem.get (a + i)).toNat * 256 ^ i)).sum)

/-- Registers as a flit, zero above them (R288). -/
def Sys2Proof.Claims.flitOf (ws : List Word) : BitVec 512 :=
  BitVec.ofNat 512 (((List.range ws.length).map (fun i => (ws.getD i 0).toNat * 2 ^ (64 * i))).sum)

/-- R286, R288, R296: `send` and `sendd` with room in the outbox and the thread's earlier accesses performed (R273): the message's flits are the registers of a, or (a single register)
nf + 1 flits at its address, here in the vaults; the send counter advances and d receives it.
R146, R148, R286: a send, a spawn or a gradient push, of registers or of memory, that finds 16 messages of its thread in the outbox
does not execute: with a trap block that is not busy the thread goes on at the SQFULL handler, and the block holds the group's own
address and the cause (busy, the network, cause 1); without a trap block it is NOTRAP, with a busy one TRAPNEST, in a gang GANGOP. -/
def Obligations.Sends : Prop :=
  (∀ (s : State) (d b r : R) (a : GOp) (vn : Fin 2) (nf : Fin 4) (tag : BitVec 24),
   s.outFull = false → s.cur.latch = none → s.me.unsettled = false → (∀ o ∈ s.here.outbox, o.msg.uid ≠ s.nextUid) →
   let mid := (s.me.sendCtr + 1) % 4096
   let tgt := s.target (s.rd b.val)
   let sends := fun (kind vn : Nat) (fs : List (BitVec 512)) (t : State) =>
     OnlySends s t ∧ Posts s t kind vn tag.toNat tgt mid fs ∧ t.me = { s.me.setReg d.val (BitVec.ofNat 64 mid) with sendCtr := mid }
   let mem := fun (x : Word) => x.toNat % 64 = 0 ∧ x.toNat + 64 * (nf.val + 1) ≤ 2 ^ 32
   let at_ := fun (x : Word) => (List.range (nf.val + 1)).map (fun k => flitAt s (x.toNat + 64 * k))
   (a.w.val ≠ 0 → nf.val = 0 → Gives (.send d a b vn nf tag) s (sends 0 vn.val [flitOf (s.rdG a)])) ∧
   (a.w.val = 0 → mem (s.rd a.n.val) → Gives (.send d a b vn nf tag) s (sends 0 vn.val (at_ (s.rd a.n.val)))) ∧
   (mem (s.rd r.val) → Gives (.sendd d r b nf tag) s (sends 1 0 (at_ (s.rd r.val))))) ∧
  (∀ (s : State) (d b r : R) (o : Fin 8) (a : GOp) (vn : Fin 2) (nf : Fin 4) (tag : BitVec 24)
     (p : GPair) (look : Look),
   let blk := s.src.ktrap.toNat / 64 * 64
   let h := BitVec.ofNat 64 (s.mem.nat blk 8)
   let legal := fun (x : Word) => x.toNat < 2 ^ 52 ∧ x.toNat % 64 = 0
   s.outFull = true → s.cur.follows = false → s.src.ktrap.toNat < 2 ^ 32 →
   let traps := fun (i : Instr) (vn : Nat) =>
     (s.me.gang.isSome → exec i s = .next (s.fault cGANGOP 6 0 0)) ∧
     (s.me.gang = none → (s.src.ktrap = 0 → exec i s = .next (s.fault cNOTRAP 6 0 0)) ∧
       (s.src.ktrap ≠ 0 → s.me.unsettled = false → s.mem.wf = true →
         (2 ^ 63 ≤ s.mem.nat (blk + 24) 8 → exec i s = .next (s.fault cTRAPNEST 6 0 0)) ∧
         (s.mem.nat (blk + 24) 8 < 2 ^ 63 → h ≠ 0 → h.toNat % 8 = 0 → Gives i s (fun t =>
           t.cur.stop = true ∧ t.here.outbox = s.here.outbox ∧ t.me = { s.me with pc := h } ∧
           t.mem.nat (blk + 16) 8 = s.cur.addr.toNat ∧ t.mem.nat (blk + 24) 8 = 2 ^ 63 + vn * 2 ^ 32 + 1 ∧
           ∀ x, (x < blk + 16 ∨ blk + 32 ≤ x) → t.mem.get x = s.mem.get x))))
   ((a.w.val ≠ 0 ∨ legal (s.rd a.n.val)) →
     traps (.send d a b vn nf tag) vn.val ∧ traps (.sendx d a b nf look) 2 ∧
     ((∀ act, fget? s.here.acts ((s.rd (2 * p.val)).toNat % 2 ^ 20) = some act →
         s.me.credit (ocore act.ostack ((s.rd (2 * p.val + 1)).toNat % 2 ^ 32 % 8)) ≠ 0) → traps (.gqpush a p) 2)) ∧
   (legal (s.rd r.val) → traps (.sendd d r b nf tag) 0) ∧ traps (.spawn o r b) 0)

/-- R62, R288, R289, R53: `sendx`, of registers or of nf + 1 flits at an address in the vaults, puts its token into the outbox; with the
entry in the cluster's cache the cache decides at once: the slot of least depth among the ACTIVE ones of the token's step, lowest
index first, whose index d receives (nothing for `g0`) and whose core the token goes to; without a valid entry or a slot d receives 15
and the token will be refused. Not in the cache, it waits and the entry is fetched. -/
def Obligations.TokenSent : Prop := ∀ (s : State) (d b : R) (a : GOp) (nf : Fin 4) (look : Look),
  s.outFull = false → s.cur.latch = none → s.me.unsettled = false → s.me.live = true → s.findUid s.me.uid = some (s.cur.core, s.cur.slot) →
  (∀ o ∈ s.here.outbox, o.msg.uid ≠ s.nextUid) → (∀ o ∈ s.me.outs, o.wait ≠ .route s.nextUid) →
  let ea := (s.rd a.n.val).toNat
  (a.w.val ≠ 0 ∧ nf.val = 0) ∨ (a.w.val = 0 ∧ ea % 64 = 0 ∧ ea + 64 * (nf.val + 1) ≤ 2 ^ 32) →
  let name := (s.rd b.val).toNat % 2 ^ 20
  let k := clusterOf s.cur.core
  let out := fun (t : State) (o : OutboxEntry) => t.mem = s.mem ∧ t.here.outbox = s.here.outbox ++ [o] ∧ o.msg.kind = 2 ∧ o.msg.vn = 2 ∧
    o.msg.tag = name ∧ o.msg.nf = nf.val ∧ o.ready = true ∧ o.msg.flits =
      if a.w.val ≠ 0 then [flitOf (s.rdG a)] else (List.range (nf.val + 1)).map (fun i => flitAt s (ea + 64 * i))
  let told := fun (t : State) (w : OutWait) (v : OutVal) => if d = 0 then t.me.outs = s.me.outs else
    t.me.outs = s.me.outs ++ [{ id := s.me.nextOut, regs := [.g d.val], look := look.val, wait := w, val := v
                                lathe := s.cur.lathe.isSome }]
  let fits := fun (e : DirEntry) (j : Nat) => j < 8 ∧ (e.slot j).state = 2 ∧ (e.slot j).wver = s.src.kstep.toNat % 2 ^ 32
  (∀ l, (s.cluster k).dirLine name = some l → ∀ j, l.e.v = true → fits l.e j →
    (∀ i, fits l.e i → (l.e.slot j).depth < (l.e.slot i).depth ∨ ((l.e.slot j).depth = (l.e.slot i).depth ∧ j ≤ i)) →
    Gives (.sendx d a b nf look) s (fun t => told t .ready (.words [BitVec.ofNat 64 j]) ∧
      ∃ o, out t o ∧ o.routing = false ∧ o.msg.rix = j ∧ o.msg.dst = (l.e.slot j).core ∧ o.msg.reason = 0)) ∧
  (∀ l, (s.cluster k).dirLine name = some l → (l.e.v = false ∨ ∀ j, ¬ fits l.e j) → Gives (.sendx d a b nf look) s (fun t =>
    told t .ready (.words [15]) ∧ ∃ o, out t o ∧ o.routing = false ∧
      o.msg.reason = (if l.e.v then (if s.src.kstep.toNat % 2 ^ 32 < l.e.fver then 2 else 3) else 4))) ∧
  ((s.cluster k).dirLine name = none → Gives (.sendx d a b nf look) s (fun t => told t (.route s.nextUid) (.words []) ∧
    name ∈ (t.cluster k).fetching ∧ ∃ o, out t o ∧ o.routing = true))

/-- R294, R295: `recv` takes the first visible message its selector matches and frees its slots; to registers d and a, or to vault
memory, or (a = `g0`) the header alone. `peek` only reads the header. Without a message `recv` waits, and `recvt` waits with its timer
armed; without time, or when the timer has run out, it gives the timeout header. -/
def Obligations.ReceiveForms : Prop := ∀ (s : State) (d : GPair) (a : GOp) (b : R) (look : Look), s.cur.latch = none →
  let hd := fun (m : Msg) => [m.lo, m.hi]
  let hr := [Reg.g (2 * d.val), Reg.g (2 * d.val + 1)]
  let took := fun (e : InboxEntry) (t : State) (rs : List Reg) (ws : List Word) =>
    t.here.inbox = s.here.inbox.filter (fun x => x.msg.uid != e.msg.uid) ∧
    OnlyMe s { (t.setCore s.cur.core { t.here with inbox := s.here.inbox }) with mem := s.mem, acks := s.acks } ∧
    t.me = { s.me with rtimer := none, timedOut := false, nextOut := s.me.nextOut + 1
                       outs := s.me.outs ++ [{ id := s.me.nextOut, regs := s.absRegs rs, look := look.val, wait := .ready, val := .words ws
                                               lathe := s.cur.lathe.isSome }] }
  let regs := (List.range 8).map (fun k => Reg.g (a.n.val + k))
  let first := s.here.inbox.find? (fun e => e.visible s.cur.slot && selects (s.rd b.val) e.msg)
  let both := fun (P : State → Prop) => Gives (.recv d a b look) s P ∧ (s.me.timedOut = false → Gives (.recvt d a b look) s P)
  (∀ e, first = some e →
    (a.w.val = 3 → both (fun t => t.mem = s.mem ∧
      took e t (regs ++ hr) ((List.range 8).map (fun k => (e.msg.flits.headD 0).extractLsb' (64 * k) 64) ++ hd e.msg))) ∧
    (a.w.val = 0 → a.n.val = 0 → both (fun t => t.mem = s.mem ∧ took e t hr (hd e.msg))) ∧
    (a.w.val = 0 → a.n.val ≠ 0 → s.me.unsettled = false → (s.rd a.n.val).toNat % 64 = 0 → s.mem.wf = true →
      (s.rd a.n.val).toNat + 64 * e.msg.flits.length ≤ 2 ^ 32 → both (fun t => took e t hr (hd e.msg) ∧
        (∀ k, k < e.msg.flits.length → flitAt t ((s.rd a.n.val).toNat + 64 * k) = e.msg.flits.getD k 0) ∧
        ∀ x, (x < (s.rd a.n.val).toNat ∨ (s.rd a.n.val).toNat + 64 * e.msg.flits.length ≤ x) → t.mem.get x = s.mem.get x)) ∧
    Gives (.peek d b) s (fun t => OnlyMe s t ∧ t.me = (s.me.setReg (2 * d.val) e.msg.lo).setReg (2 * d.val + 1) e.msg.hi)) ∧
  (first = none → Gives (.peek d b) s (fun t => OnlyMe s t ∧
    t.me = (s.me.setReg (2 * d.val) 0).setReg (2 * d.val + 1) (BitVec.allOnes 64))) ∧
  (first = none → a.w.val = 3 → s.me.timedOut = false → (s.rd b.val).toNat / 2 ^ 52 = 0 → Gives (.recvt d a b look) s (fun t =>
    OutStep s t (s.absRegs hr) look.val .ready (.words [0, BitVec.allOnes 64]))) ∧
  (first = none → (a.w.val = 0 → a.n.val ≠ 0 → s.me.unsettled = false ∧ (s.rd a.n.val).toNat < 2 ^ 52 ∧ (s.rd a.n.val).toNat % 64 = 0) →
    exec (.recv d a b look) s = .next s.waits ∧
    (s.me.timedOut = false → (s.rd b.val).toNat / 2 ^ 52 ≠ 0 → exec (.recvt d a b look) s = .next (s.waits.modMe (fun t => { t with
      rtimer := if t.rtimer.isSome then t.rtimer else some (s.cycle + 256 * ((s.rd b.val).toNat / 2 ^ 52)) })))) ∧
  (s.me.timedOut = true → (a.w.val = 0 → a.n.val ≠ 0 → s.me.unsettled = false ∧ (s.rd a.n.val).toNat < 2 ^ 52 ∧
      (s.rd a.n.val).toNat % 64 = 0) → Gives (.recvt d a b look) s (fun t => OnlyMe s t ∧ t.me = { s.me with
    timedOut := false, nextOut := s.me.nextOut + 1
    outs := s.me.outs ++ [{ id := s.me.nextOut, regs := s.absRegs hr, look := look.val, wait := .ready
                            val := .words [0, BitVec.allOnes 64], lathe := s.cur.lathe.isSome }] })) ∧
  ∀ k, (s.thr s.ev.q s.ev.t).rtimer = some k → k ≤ s.cycle → (s.thr s.ev.q s.ev.t).live = true →
    exec .recvtTimeout s = .next (s.setThr s.ev.q s.ev.t { s.thr s.ev.q s.ev.t with rtimer := none, timedOut := true })

/-- The message the event names is k of the network. -/
def Sys2Proof.Claims.InNet (s : State) (m : Msg) : Prop := s.net[s.ev.k]? = some m

/-- The event's message arrives: it is k of the network, does not come back from the overflow store, and of `vn.rep` or `vn.sys` no
earlier one waits at its router; its core has inbox room for it, and none of its network, one of these two, is spilled before it
(R285). -/
def Sys2Proof.Claims.Arrives (s : State) (m : Msg) : Prop :=
  InNet s m ∧ m.back = false ∧ (m.vn = 1 ∨ m.vn = 3 → ∀ o ∈ s.net, o.atRouter = true → o.dst = m.dst → o.vn ≠ m.vn) ∧
  (s.core m.dst).room m = true ∧ (m.vn = 1 ∨ m.vn = 3 → ∀ o ∈ (s.core m.dst).spill, o.vn ≠ m.vn)

/-- A message stands in an inbox in its place among those before: by cycle of arrival, ties in ascending sender, then number (R295). -/
def Sys2Proof.Claims.Placed (old new : List InboxEntry) (m : Msg) : Prop :=
  let first := fun (x : InboxEntry) => m.arr < x.msg.arr ∨ (m.arr = x.msg.arr ∧
    (m.src < x.msg.src ∨ (m.src = x.msg.src ∧ m.mid < x.msg.mid)))
  ∃ e l r, new = l ++ e :: r ∧ e.msg = m ∧ e.parked = false ∧ (∀ x ∈ l, ¬ first x) ∧ (∀ x ∈ r, first x) ∧
    ∀ x, x ∈ old ↔ x ∈ l ∨ x ∈ r

/-- What is left of the network when the event's message has gone. -/
def Sys2Proof.Claims.netRest (s : State) (m : Msg) : List Msg := s.net.filter (fun x => x.uid != m.uid)

/-- A message has been handed to the network, with its first fields as given. -/
def Sys2Proof.Claims.Sent (t : State) (old : List Msg) (p : Msg → Prop) : Prop := ∃ x, t.net = old ++ [x] ∧ p x

/-- R285, R286, R291 to R293, R299: a message leaves the outbox into the network; one for a target that does not exist comes back as
a NODEST refusal; a message with room in the inbox enters it in the order of arrival, and its thread's pending bit 0 is set (so with a
refusal); a message that has waited its router's time takes an escape buffer, at a router the event names (the rules do not say which one it waits in: log entry 49); a spilled one returns as
room frees. -/
def Obligations.MessagesTravel : Prop := ∀ (s : State),
  let c := s.ev.q
  (∀ o, (s.core c).outbox[s.ev.k]? = some o → o.ready = true → o.routing = false → s.unsettledPush o.msg = false →
    o.msg.reason = 0 → o.msg.ddev = s.rank → o.msg.kind ≤ 3 → (∀ n st l z j f e, o.msg.sys ≠ .gradient n st l z j f e) →
    (s.sendable o.msg = true → Gives .outboxEntryFree s (fun t => t.mem = s.mem ∧
      (t.core c).outbox = (s.core c).outbox.eraseIdx s.ev.k ∧ Sent t s.net (fun x => x = { o.msg with uid := s.nextUid, since := s.cycle }))) ∧
    (s.sendable o.msg = false → o.msg.kind ≠ 3 → o.msg.sdev = s.rank → Gives .outboxEntryFree s (fun t =>
      (t.core c).outbox = (s.core c).outbox.eraseIdx s.ev.k ∧
      Sent t s.net (fun x => x.kind = 3 ∧ x.vn = 1 ∧ x.reason = 6 ∧ x.tag = o.msg.tag ∧ x.dst = o.msg.src ∧ x.dslot = o.msg.sslot ∧
        x.flits = o.msg.flits)))) ∧
  (∀ m, Arrives s m → s.ev.on = false → (m.kind = 0 ∧ m.vn ≠ 2 ∨ m.kind = 3) → m.dslot < 8 → (s.thr m.dst m.dslot).live = true →
    (s.thr m.dst m.dslot).blk ≠ .leaving → s.hasParked (s.thr m.dst m.dslot).uid = false →
    Gives (if m.kind = 3 then .refusalArrival else .messageArrival) s (fun t => t.net = netRest s m ∧ t.mem = s.mem ∧
      Placed (s.core m.dst).inbox (t.core m.dst).inbox { m with arr := s.cycle } ∧
      t.thr m.dst m.dslot = { s.thr m.dst m.dslot with pend := (s.thr m.dst m.dslot).pend ||| 1 })) ∧
  (∀ m, InNet s m → coreExists c = true → m.escaped = false → (s.die (dieOf c)).dlto ≠ 0 → m.since + (s.die (dieOf c)).dlto ≤ s.cycle →
    Gives .deadlockEscape s (fun t => t.net = s.net.set s.ev.k { m with escaped := true } ∧ t.mem = s.mem ∧
      (t.core c).deadlock = min ((s.core c).deadlock + 1) (2 ^ 32 - 1))) ∧
  ∀ m, s.ev.f = 0 → (s.core c).spill.find? (fun o => o.vn == 1) = some m → m.sys = .none → m.dslot < 8 → (s.thr c m.dslot).live = true → (s.thr c m.dslot).blk ≠ .leaving →
    s.hasParked (s.thr c m.dslot).uid = false → (s.core c).room m = true →
    Gives .spillReturn s (fun t => (t.core c).spill = (s.core c).spill.erase m ∧ Placed (s.core c).inbox (t.core c).inbox m)

/-- R29 to R31, R290, R296: `spawn` sends its request and blocks; the request starts a thread in the lowest free slot with the octet
and is answered; without a slot it is refused; the reply writes d 0 and the sender goes on, or 1 and it runs the child inline,
the link in `g14`. A Drupe's arrival starts a thread whose code is its flits from 1 on. -/
def Obligations.SpawnForms : Prop := ∀ (s : State) (d : Fin 8) (a b : R),
  (s.outFull = false → s.cur.latch = none → s.me.unsettled = false → Gives (.spawn d a b) s (fun t => OnlySends s t ∧
    t.me = { s.me with sendCtr := (s.me.sendCtr + 1) % 4096, blk := .spawnReply d.val (s.rd a.val) } ∧
    ∃ o, t.here.outbox = s.here.outbox ++ [o] ∧ o.msg.kind = 4 ∧ o.msg.vn = 0 ∧ o.msg.dst = (s.target (s.rd b.val)).core ∧
      o.msg.sys = .spawn (s.rd a.val) ((List.range 8).map (fun k => s.rd (8 + k))) s.me.krole s.me.kround s.me.kstep s.me.kstage
        s.me.launch s.me.cont)) ∧
  (∀ m pc o kro krn kst ksg ln ct, Arrives s m → m.sys = .spawn pc o kro krn kst ksg ln ct →
    m.sdev = s.rank → s.spawnInGang m = false → s.reserved m.dst = false → s.haltingOf ln = false →
    (∀ k, s.freeSlot m.dst = some k → Gives .spawnRequest s (fun t =>
      let x := t.thr m.dst k
      x.live = true ∧ x.pc = pc ∧ x.krole = kro ∧ x.kround = krn ∧ x.kstep = kst ∧ x.kstage = ksg ∧ x.launch = ln ∧ x.cont = ct ∧
      x.kvwin = 0 ∧ (∀ n, n < 16 → x.reg n = if n < 8 ∨ n = 14 then 0 else o.getD (n - 8) 0) ∧
      Sent t (netRest s m) (fun y => y.kind = 5 ∧ y.dst = m.src ∧ y.dslot = m.sslot ∧ y.sys = .spawnReply true))) ∧
    (s.freeSlot m.dst = none → Gives .spawnRequest s (fun t => t.cores = s.cores ∧
      Sent t (netRest s m) (fun y => y.kind = 5 ∧ y.dst = m.src ∧ y.dslot = m.sslot ∧ y.sys = .spawnReply false)))) ∧
  (∀ m ok dd child, Arrives s m → m.sys = .spawnReply ok → let th := s.thr m.dst m.dslot
    th.live = true → th.gang = none → th.blk = .spawnReply dd child →
    (ok = true → Gives .spawnReply s (fun t => t.net = netRest s m ∧
      t.thr m.dst m.dslot = { th.setReg dd 0 with blk := .none, readyAt := s.cycle })) ∧
    (ok = false → child ≠ 0 → child.toNat % 8 = 0 → Gives .spawnReply s (fun t => t.net = netRest s m ∧
      t.thr m.dst m.dslot = { (th.setReg dd 1).setReg 14 th.pc with blk := .none, readyAt := s.cycle, pc := child }))) ∧
  ∀ m ln ct, Arrives s m → m.kind = 1 → m.sys = .drupe ln ct → s.haltingOf ln = false →
    (∀ k, s.freeSlot m.dst = some k → Gives .drupeArrival s (fun t => t.net = netRest s m ∧
      ∃ x, (t.thr m.dst k).drupe = some x ∧ x.uid = m.uid ∧
        x.code = (m.flits.drop 1).flatMap (fun f => (List.range 16).map (fun k => f.extractLsb' (32 * k) 32)) ∧
        (t.thr m.dst k).live = true ∧ (t.thr m.dst k).krole = 1 ∧ (t.thr m.dst k).pc = 0 ∧
        (∀ n, 8 ≤ n → n < 16 → n ≠ 14 → (t.thr m.dst k).reg n = (m.flits.headD 0).extractLsb' (64 * (n - 8)) 64))) ∧
    (s.freeSlot m.dst = none → m.sdev = s.rank → Gives .drupeArrival s (fun t => t.cores = s.cores ∧
      Sent t (netRest s m) (fun y => y.kind = 3 ∧ y.reason = 5 ∧ y.dst = m.src ∧ y.dslot = m.sslot)))

/-! ## Engines, rings, collectives, queues (R298 to R316) -/

/-- R300: each engine command, and `qpush` of a listed op, the thread's earlier accesses performed (R276), joins the input FIFO its op selects: the body words, the core, the slot and
the push sequence, which d receives. Nothing else changes. An op that is not listed is QOP, operand 6 (log entry 29).
R301: `qpop` removes the oldest result of its own context that the selector picks and d receives the header and the body words,
zero beyond them; `qstat` reads the free entries, the waiting results, the outbox and the visible messages.
R308 to R310: `cbinit` makes the lowest free entry of the base's vault a ring whose four positions are 0; `cbacq` and `cbwait`
take the next slot to fill, to read, in the order of arrival, and d receives its address; `cbrel` publishes or frees the oldest
slot the thread holds. A handle that is no ring of the launch is RINGH. Positions count modulo 2^32 (log entry 50). -/
def Obligations.EngineQueuesAndRings : Prop :=
  (∀ (s : State) (d r : R) (a b : GOp),
   let body := s.rdG a ++ (if b.w = 0 ∧ b.n = 0 then [] else s.rdG b)
   let pushes := fun (i : Instr) (op : Nat) (body : List Word) =>
     let f := op / 32
     let n := (fget 0 s.here.pushSeq f + 1) % 2 ^ 32
     (fget [] s.here.qi f).length < fifoDepth f → s.me.unsettled = false → Gives i s (fun t =>
       OnlyMe s { (t.setCore s.cur.core { t.here with qi := s.here.qi, pushSeq := s.here.pushSeq }) with hidden := s.hidden } ∧
       t.hidden = s.hidden.filter (fun x => !x.knows.contains s.me.uid) ∧
       t.me = s.me.setReg d.val (BitVec.ofNat 64 n) ∧ fget 0 t.here.pushSeq f = n ∧
       (∀ g, g ≠ f → fget [] t.here.qi g = fget [] s.here.qi g ∧ fget 0 t.here.pushSeq g = fget 0 s.here.pushSeq g) ∧
       ∃ e : ECmd, fget [] t.here.qi f = fget [] s.here.qi f ++ [e] ∧ e.body = body ∧ e.uid = s.me.uid ∧ e.slot = s.cur.slot ∧
         e.launch = s.me.launch ∧ e.result = none ∧ e.seq = n ∧
         (s.cur.core < 4096 → s.cur.slot < 8 → e.op = op ∧ e.core = s.cur.core))
   pushes (.cpCopy d a b) 0x00 body ∧ pushes (.cpGather d a b) 0x01 body ∧ pushes (.cpScatter d a b) 0x02 body ∧
   pushes (.cpFill d a b) 0x03 body ∧ pushes (.cpToken d a b) 0x04 body ∧ pushes (.sgRead d a b) 0x20 body ∧
   pushes (.mremote d a b) 0x40 body ∧ pushes (.svG1 d a b) 0x60 body ∧ pushes (.svG2 d a b) 0x61 body ∧
   pushes (.svG3 d a b) 0x62 body ∧ pushes (.svCg d a b) 0x63 body ∧ pushes (.svDiag d a b) 0x64 body ∧
   pushes (.svSwapq d a b) 0x65 body ∧ pushes (.svPerm d a b) 0x66 body ∧ pushes (.svProb d a b) 0x67 body ∧
   pushes (.svNorm d a b) 0x68 body ∧ pushes (.svInit d a b) 0x69 body ∧ pushes (.svSync d a b) 0x6A body ∧
   (∀ op, (s.rd r.val).toNat % 128 = op →
     (op ≤ 4 ∨ op = 0x20 ∨ op = 0x40 ∨ (0x60 ≤ op ∧ op ≤ 0x6A) → pushes (.qpush d a r) op (s.rdG a)) ∧
     (¬ (op ≤ 4 ∨ op = 0x20 ∨ op = 0x40 ∨ (0x60 ≤ op ∧ op ≤ 0x6A)) → exec (.qpush d a r) s = .next (s.fault cQOP 6 0 0)))) ∧
  (∀ (s : State) (d : GOp) (a r : R) (look : Look),
   let sel := s.rd a.val
   let f := sel.toNat % 4
   let q := fget [] s.here.qo f
   let mine := fun (e : QoEntry) => e.uid == s.me.uid && (sel.toNat / 4 % 2 == 0 || e.hdr.toNat % 2 ^ 32 == sel.toNat / 2 ^ 32)
   (∀ i e, q[i]? = some e → mine e = true → (∀ j x, j < i → q[j]? = some x → mine x = false) → Gives (.qpop d a look) s (fun t =>
     OnlyMe s (t.setCore s.cur.core { t.here with qo := s.here.qo }) ∧ fget [] t.here.qo f = q.eraseIdx i ∧
     (∀ g, g ≠ f → fget [] t.here.qo g = fget [] s.here.qo g) ∧
     t.me = { s.me with nextOut := s.me.nextOut + 1
                        outs := s.me.outs ++ [{ id := s.me.nextOut
                                                regs := (List.range (2 ^ d.w.val)).map (fun k => Reg.g (d.n.val + k))
                                                look := look.val, wait := .ready, lathe := s.cur.lathe.isSome
                                                val := .words ((List.range (2 ^ d.w.val)).map (fun k => (e.hdr :: e.body).getD k 0)) }] })) ∧
   Gives (.qstat r a) s (RegStep s · r (BitVec.ofNat 64 (fifoDepth f - (fget [] s.here.qi f).length +
     min ((q.filter (fun e => e.uid == s.me.uid)).length + (s.here.spillRes.filter (fun x => x.1 == f && x.2.uid == s.me.uid)).length +
       (s.here.parked.filter (fun p => p.uid == s.me.uid && p.res.any (fun x => x.1 == f))).length) 255 * 2 ^ 8 + s.here.outUsed s.me.uid * 2 ^ 16 +
     min ((s.here.inbox.filter (fun e => e.visible s.cur.slot)).length) 63 * 2 ^ 24)))) ∧
  (∀ (s : State) (d a b : R) (look : Look),
   let h := (s.rd a.val).toNat
   let g := (s.rd b.val).toNat
   let slots := g % 2 ^ 13
   let bytes := (g / 2 ^ 16 % 4 + 1) * 64
   let only := fun (t : State) => (∀ c k, (c ≠ s.cur.core ∨ k ≠ s.cur.slot) → t.thr c k = s.thr c k) ∧ t.mem = s.mem
   (h < 2 ^ 32 → h % 64 = 0 → 1 ≤ slots → slots ≤ 4096 → g = slots + g / 2 ^ 16 % 4 * 2 ^ 16 → h % 2 ^ 25 + slots * bytes ≤ 2 ^ 25 →
     let k := h / 2 ^ 25
     ∀ i, i < 64 → fget? (s.cluster k).rings i = none → (∀ j, j < i → (fget? (s.cluster k).rings j).isSome) →
       Gives (.cbinit d a b) s (fun t => only t ∧ t.me = s.me.setReg d.val (BitVec.ofNat 64 (64 * k + i)) ∧
         fget? (t.cluster k).rings i = some { base := h, slots := slots, bytes := bytes, launch := s.me.launch } ∧
         ∀ j, j ≠ i → fget? (t.cluster k).rings j = fget? (s.cluster k).rings j)) ∧
   (s.ringOf h s.me.launch = none → exec (.cbacq d a look) s = .next (s.fault cRINGH 1 0 0) ∧
     exec (.cbwait d a look) s = .next (s.fault cRINGH 1 0 0) ∧ exec (.cbrel a b) s = .next (s.fault cRINGH 1 0 0)) ∧
   (∀ r, s.ringOf h s.me.launch = some r →
     let ring := fun (t : State) => fget? (t.cluster (h / 64)).rings (h % 64)
     let slot := fun (n : Nat) => BitVec.ofNat 64 (r.base + n % r.slots * r.bytes)
     let out := fun (x : Thread) (n : Nat) => if d = 0 then x else { x with
       nextOut := s.me.nextOut + 1, outs := s.me.outs ++ [{ id := s.me.nextOut, regs := s.absRegs [.g d.val], look := look.val, wait := .ready, val := .words [slot n], lathe := s.cur.lathe.isSome }] }
     (posDiff r.a r.f < r.slots → (r.waitA = [] ∨ r.waitA.head? = some s.me.uid) → Gives (.cbacq d a look) s (fun t => only t ∧
       ring t = some { r with a := (r.a + 1) % 2 ^ 32, waitA := r.waitA.tail } ∧
       t.me = out { s.me with acquired := s.me.acquired ++ [(h, r.a)] } r.a)) ∧
     (r.c ≠ r.p → (r.waitC = [] ∨ r.waitC.head? = some s.me.uid) → Gives (.cbwait d a look) s (fun t => only t ∧
       ring t = some { r with c := (r.c + 1) % 2 ^ 32, waitC := r.waitC.tail } ∧
       t.me = out { s.me with consumed := s.me.consumed ++ [(h, r.c)] } r.c)) ∧
     (∀ x rest, g % 2 = 1 → s.me.consumed = (h, x) :: rest → r.freed = [] → r.slots ≠ 0 → s.me.unsettled = false → Gives (.cbrel a b) s (fun t => only t ∧
       t.me = { s.me with consumed := rest } ∧
       ring t = some (if x % r.slots = r.f % r.slots then { r with f := (r.f + 1) % 2 ^ 32 } else { r with freed := [x % r.slots] }))) ∧
     (∀ x rest, g % 2 = 0 → s.me.acquired = (h, x) :: rest → r.pubs = [] → r.slots ≠ 0 → s.me.unsettled = false →
       s.unacked s.me.uid = false → Gives (.cbrel a b) s (fun t => only t ∧ t.hidden = s.hidden.filter (fun x => !x.knows.contains s.me.uid) ∧
       t.me = { s.me with acquired := rest, fenced := false } ∧
       ring t = some (if x % r.slots = r.p % r.slots then { r with p := (r.p + 1) % 2 ^ 32 } else { r with pubs := [x % r.slots] })))))

/-- R311, R312, R333: `grpst` and a first `bar` contribute; a `grpld` that claims takes the round's result; a round of one member whose
contribution is there gives it its own value, unless another router names its router as the parent (the trees disagree, and the round
never completes); `treeset` writes the router's entry. A core that is no member is GRPSEQ.
What these rules leave open is the model's choice: log entry 51. -/
def Obligations.Collectives : Prop := ∀ (s : State) (d a b : R) (n : Fin 32) (look : Look),
  let e := s.treeOf s.cur.core n.val
  let member := treeV e = true ∧ treeMb e = true
  let round := fun (t : State) (g : Option GroupState) => fget? t.here.groups n.val = g ∧
    (∀ k, k ≠ n.val → fget? t.here.groups k = fget? s.here.groups k) ∧ OnlyMe s { (t.setCore s.cur.core { t.here with groups := s.here.groups }) with hidden := s.hidden }
  let mine := fget? s.here.groups n.val
  (¬ member → exec (.grpst n a) s = .next (s.fault cGRPSEQ 6 0 0) ∧ exec (.grpld d n look) s = .next (s.fault cGRPSEQ 6 0 0) ∧
    exec (.bar n) s = .next (s.fault cGRPSEQ 6 0 0)) ∧
  (member → mine = none → s.me.unsettled = false → Gives (.grpst n a) s (fun t => t.me = s.me ∧
    t.hidden = s.hidden.filter (fun x => !x.knows.contains s.me.uid) ∧
    round t (some { contrib := s.rd a.val, uid := s.me.uid, bar := false }))) ∧
  (member → mine = none → s.me.unsettled = false → Gives (.bar n) s (fun t => t.cur.stop = true ∧
    fget? t.here.groups n.val = some { contrib := grpId (treeOp e), uid := s.me.uid, bar := true } ∧ t.me = { s.me with blk := .retry, pc := s.cur.addr } ∧
    t.mem = s.mem)) ∧
  (member → ∀ g v, mine = some g → g.bar = false → g.claimed = false → g.result = some v → d ≠ 0 → Gives (.grpld d n look) s (fun t =>
    t.me.outs.getLast?.map (fun o => (o.regs, o.val)) = some ([.g d.val], .words [v]) ∧ round t none)) ∧
  (member → ∀ g, mine = some g → g.bar = false → g.claimed = false → g.result = none → d ≠ 0 → Gives (.grpld d n look) s (fun t =>
    t.me.outs.getLast?.map (fun o => (o.regs, o.wait)) = some ([.g d.val], .grpld n.val) ∧ round t (some { g with claimed := true }))) ∧
  (member → ∀ g v, mine = some g → g.bar = true → g.uid = s.me.uid → g.result = some v → Gives (.bar n) s (fun t =>
    t.me = s.me ∧ round t none)) ∧
  (∀ g, s.ev.on = false → s.ev.k = n.val → s.ev.q = s.cur.core → mine = some g → g.result = none → g.claimed = false → g.gone = false →
    e = 2 ^ 31 + 2 ^ 30 + 7 * 2 ^ 27 →
    let names := fun (c : Nat) => treeV (s.treeOf c n.val) = true ∧
      treeStep c (s.treeOf c n.val) (treePar (s.treeOf c n.val)) = some s.cur.core
    ((∀ c, ¬ names c) → Gives .groupRoundResult s (fun t => fget? t.here.groups n.val = some { g with result := some g.contrib } ∧
      t.mem = s.mem)) ∧
    ((∃ c x, fget? s.cores c = some x ∧ names c) → exec .groupRoundResult s = .next s)) ∧
  (let c := (s.rd a.val).toNat % 2 ^ 12
   let k := (s.rd a.val).toNat / 2 ^ 16 % 32
   let w := (s.rd b.val).toNat % 2 ^ 32
   (s.src.krole.toNat % 4 ≠ 3 → exec (.treeset d a b) s = .next (s.fault cKPRIV 6 0 0)) ∧
   (s.src.krole.toNat % 4 = 3 → treeStatus c w = 0 → s.holdsRound k c = false → Gives (.treeset d a b) s (fun t =>
     t.treeOf c k = w ∧ (∀ c' k', (c' ≠ c ∨ k' ≠ k) → t.treeOf c' k' = s.treeOf c' k') ∧ t.me = s.me.setReg d.val 0 ∧ t.mem = s.mem)))

/-- R313 to R315: `gqpush` of an ACTIVE slot's step takes a credit and sends the element to the optimiser core its line selects; without
a credit it waits; one the pushing core's copies refuse goes out as a refusal and costs none; the element joins that core's queue; `gqpop` takes the oldest of its name
and step with its descriptor. On a core of another kind `gqpop` is GQCORE. The order of the checks, and that a refused push costs no credit: log entry 52. -/
def Obligations.GradientQueue : Prop := ∀ (s : State) (a : GOp) (p : GPair) (d : GOct) (r b : R) (look : Look),
  let d0 := (s.rd (2 * p.val)).toNat
  let d1 := (s.rd (2 * p.val + 1)).toNat
  let name := d0 % 2 ^ 20
  let st := d0 / 2 ^ 20 % 2 ^ 32
  (∀ act, a.w.val ≠ 0 → fget? s.here.acts name = some act → s.me.credit (ocore act.ostack (d1 % 2 ^ 32 % 8)) = 0 →
    exec (.gqpush a p) s = .next s.waits) ∧
  (∀ act, a.w.val ≠ 0 → s.outFull = false → s.me.unsettled = false → fget? s.here.acts name = some act → st ≠ act.wver →
    s.me.credit (ocore act.ostack (d1 % 2 ^ 32 % 8)) ≠ 0 → Gives (.gqpush a p) s (fun t =>
      t.me = { s.me with sendCtr := (s.me.sendCtr + 1) % 4096 } ∧
      ∃ o, t.here.outbox = s.here.outbox ++ [o] ∧ o.msg.reason = if st < act.wver then 2 else 3)) ∧
  (∀ act, a.w.val ≠ 0 → s.outFull = false → s.me.unsettled = false → fget? s.here.acts name = some act → st = act.wver → act.fin = false →
    let oc := ocore act.ostack (d1 % 2 ^ 32 % 8)
    s.me.credit oc ≠ 0 → Gives (.gqpush a p) s (fun t => t.mem = s.mem ∧
      t.me = ({ s.me with sendCtr := (s.me.sendCtr + 1) % 4096 } : Thread).setCredit oc (s.me.credit oc - 1) ∧
      (∀ k, k ≠ s.cur.slot → t.here.thr k = s.here.thr k) ∧
      fget? t.here.acts name = some { act with fin := d1 / 2 ^ 63 == 1 } ∧
      ∃ o, t.here.outbox = s.here.outbox ++ [o] ∧ o.msg.kind = 0 ∧ o.msg.vn = 2 ∧ o.msg.reason = 0 ∧ o.msg.dst = oc ∧
        o.msg.flits = [flitOf (s.rdG a)] ∧ o.msg.sys = .gradient name st (d1 % 2 ^ 32) (d1 / 2 ^ 63 == 1) act.j act.gfmt false)) ∧
  (a.w.val ≠ 0 → s.outFull = false → s.me.unsettled = false → fget? s.here.acts name = none → Gives (.gqpush a p) s (fun t =>
    t.me = { s.me with sendCtr := (s.me.sendCtr + 1) % 4096 } ∧ ∃ o, t.here.outbox = s.here.outbox ++ [o] ∧ o.msg.reason = 4)) ∧
  (∀ m st ln lst j gf, InNet s m → m.vn = 2 → m.sys = .gradient name st ln lst j gf false → Gives .gradientElementArrival s (fun t =>
    t.net = netRest s m ∧ (t.core m.dst).gradq = (s.core m.dst).gradq ++
      [{ name := name, step := st, line := ln, last := lst, j := j, gfmt := gf, ending := false, data := m.flits.headD 0, suid := m.suid, src := m.src }] ∧
    t.mem = s.mem)) ∧
  (isOpt s.cur.core = false → exec (.gqpop d r b look) s = .next (s.fault cGQCORE 6 0 0)) ∧
  (isOpt s.cur.core = true → ∀ i e, s.here.gradq[i]? = some e → e.name = (s.rd r.val).toNat % 2 ^ 20 →
    e.step = (s.rd r.val).toNat / 2 ^ 20 % 2 ^ 32 →
    (∀ j x, j < i → s.here.gradq[j]? = some x → ¬ (x.name = e.name ∧ x.step = e.step)) → Gives (.gqpop d r b look) s (fun t =>
      t.here.gradq = s.here.gradq.eraseIdx i ∧ t.mem = s.mem ∧ t.me.outs.getLast?.map (fun o => (o.regs, o.val)) =
        some ((List.range 8).map (fun k => Reg.g (8 * d.val + k)) ++ [.g b.val], .words ((List.range 8).map (fun k =>
          e.data.extractLsb' (64 * k) 64) ++ [BitVec.ofNat 64 (e.line % 2 ^ 32 + e.gfmt % 16 * 2 ^ 32 + e.j % 8 * 2 ^ 40 +
            (if e.last then 2 ^ 62 else 0) + (if e.ending then 2 ^ 63 else 0))]))))

/-- R34 to R36, R46, R316: `postc` on a core with the task capability puts its record into the queue of the cluster its key selects, in
order of arrival, records of one cycle by the number of their core, and retires, at once or, its posting done, once it may; without the capability it is CAPTASK. `tqtake` starts the oldest record's thread and gives 0, 1 for an empty queue, 2 for
no slot. A record outside the queue joins it as room frees.
What these rules leave open is the model's choice: log entry 53. -/
def Obligations.TaskQueue : Prop := ∀ (s : State) (a : GOp) (b d : R),
  let k := clusterOf s.cur.core
  (s.taskCap s.cur.core = false → exec (.postc a b) s = .next (s.fault cCAPTASK 6 0 0)) ∧
  (s.taskCap s.cur.core = true → a.w.val = 3 → b = 0 → s.me.unsettled = false →
    let j := s.keyCluster s.cur.core s.me.cont (s.rd (a.n.val + 1)).toNat
    (s.cluster j).taskq.length < 512 → (s.cluster j).taskOver = [] → (s.cluster j).taskWait = [] →
    ((s.rd (a.n.val + 1)).toNat < 2 ^ 52 → s.walkHeld s.cur.core s.me.cont (s.rd (a.n.val + 1)).toNat = false) →
    let later := fun (o : TaskRec) => o.since == s.cycle && decide (s.cur.core < o.src)
    let posts := fun (t : State) => (t.cluster j).taskq = (s.cluster j).taskq.filter (fun o => !later o) ++
      { pc := s.rd a.n.val, key := s.rd (a.n.val + 1), args := (List.range 6).map (fun i => s.rd (a.n.val + 2 + i))
        launch := s.me.launch, cont := s.me.cont, since := s.cycle, src := s.cur.core } :: (s.cluster j).taskq.filter later
    (MayRetire s → Gives (.postc a b) s (fun t => Retired s t ∧ posts t)) ∧
    (s.cur.follows = false → s.cur.stop = false → s.canRetire s.cur.core s.cur.slot = false → Gives (.postc a b) s (fun t =>
      t.me = { s.me with after := .retire } ∧ t.mem = s.mem ∧ posts t))) ∧
  ((s.cluster k).taskq = [] → Gives (.tqtake d) s (RegStep s · d 1)) ∧
  (∀ r rest, (s.cluster k).taskq = r :: rest → r.args.length = 6 →
    (s.reserved s.cur.core = true ∨ s.haltingOf r.launch = true ∨ s.freeSlot s.cur.core = none → Gives (.tqtake d) s (RegStep s · d 2)) ∧
    (s.reserved s.cur.core = false → s.haltingOf r.launch = false → ∀ j, s.freeSlot s.cur.core = some j → j ≠ s.cur.slot →
      Gives (.tqtake d) s (fun t => t.me = s.me.setReg d.val 0 ∧ (t.cluster k).taskq = rest ∧ t.mem = s.mem ∧
        let x := t.thr s.cur.core j
        x.live = true ∧ x.pc = r.pc ∧ x.krole = 1 ∧ x.launch = r.launch ∧ x.cont = r.cont ∧ x.reg 8 = r.key ∧
        (∀ i, i < 5 → x.reg (9 + i) = r.args.getD i 0) ∧ x.reg 14 = 0 ∧ x.reg 15 = r.args.getD 5 0))) ∧
  (∀ r rest, let j := s.ev.k
    (s.cluster j).taskq.length < 512 → (s.cluster j).taskOver = r :: rest → Gives .taskQueueJoin s (fun t =>
      (t.cluster j).taskq = (s.cluster j).taskq ++ [r] ∧ (t.cluster j).taskOver = rest ∧ t.cores = s.cores ∧ t.mem = s.mem))

/-! ## Tables and counters (R323 to R347) -/

/-- No TLB in the extent of a scope word holds an entry that satisfies `p`, every other entry stands, and outside it every TLB is as it was
(R318, R324): the first levels of each core in it, and the second level of each cluster it takes in. -/
def Sys2Proof.Claims.Forgets (s t : State) (ext : Nat) (p : TlbEntry → Bool) : Prop :=
  let within := fun (k : Nat) => (ext = 1 ∧ k = clusterOf s.cur.core) ∨ (ext = 2 ∧ k / 16 = dieOf s.cur.core) ∨ ext = 3
  (∀ c, if inExtent s.cur.core ext c then
      (t.core c).dtlb = (s.core c).dtlb.filter (fun e => !p e) ∧ (t.core c).itlb = (s.core c).itlb.filter (fun e => !p e)
    else t.core c = s.core c) ∧
  ∀ k i, (within k → fget [] (t.cluster k).l2tlb i = (fget [] (s.cluster k).l2tlb i).filter (fun e => !p e)) ∧
    (¬ within k → t.cluster k = s.cluster k)

/-- R323: without the service role every table instruction of translation, trees, forwarding, patterns and the service map is KPRIV,
before any value is read.
R318, R324, R329, R334 to R336: what the table instructions of a service thread write: no TLB in the extent, of either level, keeps an
entry of the address, or of the handle, or any; the service map; the capacity and capability tables; a stride pattern at every hub;
`placeq` reads the container's placement. That an invalidation takes effect at once, and what extent 0 takes in, is log entry 55; the answers
of `placeq`, `capset` and `sptset` are log entry 56. -/
def Obligations.TableForms : Prop :=
  (∀ (s : State) (d a b : R), s.src.krole.toNat % 4 ≠ 3 →
   let no := fun (i : Instr) => exec i s = .next (s.fault cKPRIV 6 0 0)
   no (.tlbinv a b) ∧ no (.tlbinva b) ∧ no (.treeset d a b) ∧ no (.fwdset d a b) ∧ no (.sptset d a b) ∧ no (.svcset a b) ∧
   no (.lifeget d a b) ∧ ((s.rd b.val).toNat / 2 ^ 63 = 1 → no (.capset d a b)) ∧
   (s.taskCap s.cur.core = false → no (.repnew d a) ∧ no (.repret d a b) ∧ no (.meter d a b)) ∧
   (isOpt s.cur.core = false → (s.rd b.val).toNat % 4 = 0 ∨ (s.rd b.val).toNat % 4 = 3 → no (.dirset d a b)) ∧
   (s.svcCore s.cur.core = false → no (.genget d b))) ∧
  (∀ (s : State) (d a b : R),
   let x := (s.rd a.val).toNat
   let w := (s.rd b.val).toNat
   let ok := fun (t : State) => t.me = s.me.setReg d.val 0 ∧ t.mem = s.mem ∧ ∀ c k, (c ≠ s.cur.core ∨ k ≠ s.cur.slot) → t.thr c k = s.thr c k
   (s.src.krole.toNat % 4 = 3 → s.me.unsettled = false → s.unacked s.me.uid = false →
     (x < 2 ^ 52 → Gives (.tlbinv a b) s (fun t => t.mem = s.mem ∧ t.me = s.me ∧
       Forgets s t (w % 4) (fun e => e.hits (w / 2 ^ 16 % 2 ^ 16) x))) ∧
     Gives (.tlbinva b) s (fun t => t.mem = s.mem ∧ t.me = s.me ∧
       Forgets s t (w % 4) (fun e => w / 4 % 2 == 1 || e.handle == w / 2 ^ 16 % 2 ^ 16))) ∧
   (s.src.krole.toNat % 4 = 3 → x < 154 → w / 2 ^ 12 % 8 = 0 → Gives (.svcset a b) s (fun t =>
     { t with svcmap := s.svcmap } = s ∧ fget? t.svcmap x = some (BitVec.ofNat 16 w) ∧ ∀ k, k ≠ x → fget? t.svcmap k = fget? s.svcmap k)) ∧
   (w / 2 ^ 62 = 0 → ((fget? s.here.cap (x % 2 ^ 20)).isSome ∨ s.here.cap.length < 16) → Gives (.capset d a b) s (fun t => ok t ∧
     fget? t.here.cap (x % 2 ^ 20) = some (w % 2 ^ 32) ∧ ∀ k, k ≠ x % 2 ^ 20 → fget? t.here.cap k = fget? s.here.cap k)) ∧
   (s.src.krole.toNat % 4 = 3 → w / 2 ^ 63 = 1 → s.rd a.val ≠ 0 → w % 2 ^ 8 ≠ 0 → Gives (.capset d a b) s (fun t => ok t ∧
     fget? t.here.capab (w / 2 ^ 8 % 8) = some (s.rd a.val, w % 2 ^ 8))) ∧
   (s.src.krole.toNat % 4 = 3 → w / 2 ^ 8 % 2 = 0 → x % 32 = 0 → x + 32 ≤ 2 ^ 32 → s.me.unsettled = false →
     patternOk (s.mem.nat x 32) = true → Gives (.sptset d a b) s (fun t => ok t ∧ ∀ h, h < 24 → ∀ k,
       fget? (t.hub h).patterns k = if k = w % 64 then some (BitVec.ofNat 256 (s.mem.nat x 32)) else fget? (s.hub h).patterns k)) ∧
   ((fget? s.conts s.me.cont = none ∨ ∃ c, fget? s.conts s.me.cont = some c ∧ c.place = []) →
     Gives (.placeq d a b) s (RegStep s · d (BitVec.allOnes 64))) ∧
   ∀ c e, fget? s.conts s.me.cont = some c → c.place = [e] → x = 0 → w ≤ e.toNat % 2 ^ 11 → e.toNat % 2 ^ 11 ≤ e.toNat / 2 ^ 11 % 2 ^ 11 →
     Gives (.placeq d a b) s (RegStep s · d (BitVec.ofNat 64 (e.toNat % 2 ^ 11 + e.toNat / 2 ^ 48 * 2 ^ 12 +
       (if e.toNat.testBit 43 then e.toNat / 2 ^ 44 % 16 else 0) * 2 ^ 28))))

/-- R53, R54, R58, R326 to R328, R377, R392: `dirset` CREATE of a legal image makes the entry, with slot 0 ACTIVE on its owner, which is
sent its activation, and its thread waits for the answer; STEP of an entry whose join is complete moves its version on; TUNE writes the
thresholds; DELETE makes the entry invalid and tells every sharer and the core of every slot; a bad image is status 3, an entry that
exists 1, one that does not 4. `repnew` with a FREE slot and room for a replica claims a thread slot at the lowest candidate core, and its
thread waits for the answer; with no candidate it gives 14, without a slot or room 15, without an entry 13. `repret` of an ACTIVE slot
makes it DRAINING and gives 0. What these rules leave open is the model's choice: log entries 55, 95 and 96. -/
def Obligations.DirectoryForms : Prop := ∀ (s : State) (d a b : R),
  let ea := (s.rd a.val).toNat
  let op := (s.rd b.val).toNat % 4
  let n := s.mem.nat ea 128
  let i := entryOf n
  let name := (s.rd a.val).toNat % 2 ^ 20
  let j := (s.rd b.val).toNat
  let quiet := fun (name : Nat) => (s.home name).e.v = true → s.cycle < (s.home name).winStart + 256 * (s.home name).winLen
  (s.src.krole.toNat % 4 = 3 → ea % 64 = 0 → ea + 128 ≤ 2 ^ 32 → s.me.unsettled = false → quiet i.name →
    (op ≠ 0 → i.win ≠ 0 → (s.home i.name).e.v = false → Gives (.dirset d a b) s (RegStep s · d 4)) ∧
    (op = 1 → i.win ≠ 0 → (s.home i.name).e.v = true → Gives (.dirset d a b) s (fun t => t.me = s.me.setReg d.val 0 ∧ t.mem = s.mem ∧
      (t.home i.name).e = { (s.home i.name).e with threp := i.threp, thret := i.thret, win := i.win, maxrep := i.maxrep } ∧
      ∀ k, k ≠ i.name → t.home k = s.home k)) ∧
    (op = 2 → (s.home i.name).e.v = true → (s.home i.name).e.fver < i.fver → (s.home i.name).joinDone = true →
      (s.home i.name).e.slots.length = 8 → (∀ j, 1 ≤ j → j < 8 → ((s.home i.name).e.slot j).state = 0) → Gives (.dirset d a b) s (fun t =>
        t.me = s.me.setReg d.val 0 ∧ t.mem = s.mem ∧ (t.home i.name).e.fver = i.fver ∧ (t.home i.name).e.served = 0 ∧
        (t.home i.name).e.frz = false ∧ ((t.home i.name).e.slot 0).wver = i.fver ∧ ∀ j, ((t.home i.name).e.slot j).fin = false)) ∧
    (op = 0 → badImage n = true → Gives (.dirset d a b) s (RegStep s · d 3)) ∧
    (op = 0 → badImage n = false → (s.home i.name).e.v = true → Gives (.dirset d a b) s (RegStep s · d 1)) ∧
    (op = 0 → badImage n = false → (s.home i.name).e.v = false → s.entriesAt (homeOf i.name) < 1024 → Gives (.dirset d a b) s (fun t =>
      t.me = { s.me with blk := .answer d.val } ∧ t.mem = s.mem ∧ (∀ k, k ≠ i.name → t.home k = s.home k) ∧
      (t.home i.name).e = i.setSlot 0 { core := i.owner, state := 2, wver := i.fver } ∧ (t.home i.name).winStart = s.cycle ∧
      (t.home i.name).winLen = i.win ∧ (t.home i.name).claims = [] ∧
      Sent t s.net (fun m => m.kind = 7 ∧ m.dst = i.owner ∧ m.sys = .activation i.name 0 i.fver false i.ostack i.gfmt (some s.me.uid)))) ∧
    (op = 3 → (s.home i.name).e.v = true → (∀ j, 1 ≤ j → j < 8 → ((s.home i.name).e.slot j).state = 0 ∨ ((s.home i.name).e.slot j).state = 4) →
      Gives (.dirset d a b) s (fun t => t.mem = s.mem ∧ (∀ k, k ≠ i.name → t.home k = s.home k) ∧
        (t.home i.name).e.v = false ∧ (t.home i.name).e.shr = 0 ∧ (t.home i.name).claims = [] ∧ (t.home i.name).fwdDue = [] ∧
        (∀ k, k < 128 → (s.home i.name).e.shr.testBit k = true →
          ∃ m ∈ t.net, m.kind = 7 ∧ m.dst = coreAt k 0 ∧ ∃ e, m.sys = .change k i.name e ∧ e.v = false) ∧
        (∀ j, j < 8 → ((s.home i.name).e.slot j).state ≠ 0 → ∃ m ∈ t.net, m.kind = 7 ∧ m.dst = ((s.home i.name).e.slot j).core ∧
          m.sys = .slotChange i.name j 0 ((s.home i.name).e.slot j).wver false) ∧
        ((∀ cl ∈ (s.home i.name).claims, cl.asker ≠ some (s.cur.core, s.cur.slot)) → t.me = s.me.setReg d.val 0) ∧
        ∀ c k r, (∃ cl ∈ (s.home i.name).claims, cl.asker = some (c, k)) → (c ≠ s.cur.core ∨ k ≠ s.cur.slot) → (s.thr c k).blk = .answer r →
          t.thr c k = { (s.thr c k).setReg r 14 with blk := .none, readyAt := s.cycle }))) ∧
  (s.src.krole.toNat % 4 = 3 ∨ s.taskCap s.cur.core = true → quiet name →
    ((s.home name).e.v = false → Gives (.repnew d a) s (RegStep s · d 13)) ∧
    ((s.home name).e.v = true →
      let h := s.home name
      let free := fun (j : Nat) => 1 ≤ j ∧ j ≤ 7 ∧ (h.e.slot j).state = 0 ∧ ∀ c ∈ h.claims, c.j ≠ j
      let cand := fun (c : Nat) => c < 2048 ∧ h.e.shr.testBit (clusterOf c) = true ∧ s.reserved c = false ∧
        (∀ j, j < 8 → (h.e.slot j).state = 0 ∨ (h.e.slot j).core ≠ c)
      ((∀ j, ¬ free j) ∨ h.e.maxrep + 1 ≤ h.inUse → Gives (.repnew d a) s (RegStep s · d 15)) ∧
      (∀ j, free j → (∀ i, free i → j ≤ i) → h.inUse < h.e.maxrep + 1 →
        (∀ c, cand c → (∀ k ∈ h.claims, k.core ≠ c) → (∀ x, cand x → (∀ k ∈ h.claims, k.core ≠ x) → c ≤ x) →
          Gives (.repnew d a) s (fun t => t.me = { s.me with blk := .answer d.val } ∧ t.mem = s.mem ∧ (t.home name).e = h.e ∧
            (∃ cl, (t.home name).claims = h.claims ++ [cl] ∧ cl.j = j ∧ cl.core = c ∧ cl.refused = 0 ∧
              cl.asker = some (s.cur.core, s.cur.slot)) ∧
            Sent t s.net (fun m => m.kind = 7 ∧ m.dst = c ∧ m.sys = .claim name j))) ∧
        ((∀ c, cand c → ∃ k ∈ h.claims, k.core = c) → Gives (.repnew d a) s (fun t => t.mem = s.mem ∧ t.net = s.net ∧
          t.me = { s.me.setReg d.val 14 with blk := .none, readyAt := s.cycle })))) ∧
    (j < 1 ∨ 7 < j → Gives (.repret d a b) s (RegStep s · d 2)) ∧
    (1 ≤ j → j ≤ 7 → (s.home name).e.v = false → Gives (.repret d a b) s (RegStep s · d 13)) ∧
    (1 ≤ j → j ≤ 7 → (s.home name).e.v = true → ((s.home name).e.slot j).state ≠ 2 → Gives (.repret d a b) s (RegStep s · d 1)) ∧
    (1 ≤ j → j ≤ 7 → (s.home name).e.v = true → (s.home name).e.slots.length = 8 → ((s.home name).e.slot j).state = 2 →
      Gives (.repret d a b) s (fun t => t.me = s.me.setReg d.val 0 ∧ t.mem = s.mem ∧ ((t.home name).e.slot j).state = 3 ∧
        ((t.home name).e.slot j).core = ((s.home name).e.slot j).core)))

/-- R338 to R346, R353: the counter reads (a counter as it stood before the reading group changed anything, when its value has been taken):
the cycle, the issue counter, a slot's age, the thread's safe-point count, send counter and credits, the pushes and dispatches, a ring's
positions, a FIFO's counts, a die's reserve, dropped prefetches, deadlock escapes, refaults and discarded records; a directory entry's
statistics, which `meter` may clear; the generation, whose increment flushes the fault buffer; the lifetime record, totals and bins;
`ctrclr` clears the counters it may.
What these rules leave open is the model's choice: log entry 57. -/
def Obligations.CounterForms : Prop := ∀ (s : State) (d a b : R),
  let w := (s.rd a.val).toNat
  let reg := fun (i : Instr) (v : Word) => Gives i s (RegStep s · d v)
  let taken := match s.cur.latch with
    | some l => l.count
    | none => none
  let count := fun (v : Nat) => reg (.ctrget d a) (match taken with
    | some x => x
    | none => BitVec.ofNat 64 v)
  (w = 0 → s.cur.core < 2240 → count s.cycle) ∧
  (w = 1 → s.cur.core < 2240 → count s.here.issued) ∧
  (w = 3 → s.cur.core < 2240 → count s.me.safeCount) ∧ (w = 4 → s.cur.core < 2240 → count s.me.sendCtr) ∧
  (w % 2 ^ 8 = 5 → w / 2 ^ 8 % 16 < 4 → w / 2 ^ 25 % 2 = 0 → s.cur.core < 2240 → count (fget 0 s.here.pushSeq (w / 2 ^ 8 % 16))) ∧
  (w = 6 → s.cur.core < 2240 → count s.here.dispSeq) ∧
  (s.src.krole.toNat % 4 = 3 → w % 2 ^ 8 = 8 → w / 2 ^ 25 % 2 = 1 → w / 2 ^ 12 % 2 ^ 13 < 16 →
    (w / 2 ^ 8 % 16 = 0 → count (s.fifo (w / 2 ^ 12 % 2 ^ 13)).pushed) ∧
    (w / 2 ^ 8 % 16 = 1 → count (s.fifo (w / 2 ^ 12 % 2 ^ 13)).done)) ∧
  (w % 2 ^ 8 = 2 → w / 2 ^ 8 % 16 < 8 → s.cur.core < 2240 →
    (w / 2 ^ 25 % 2 = 0 → count (s.here.thr (w / 2 ^ 8 % 16)).age) ∧
    (s.src.krole.toNat % 4 = 3 → w / 2 ^ 25 % 2 = 1 → w / 2 ^ 12 % 2 ^ 13 < 2240 →
      count ((s.core (w / 2 ^ 12 % 2 ^ 13)).thr (w / 2 ^ 8 % 16)).age)) ∧
  (w % 2 ^ 8 = 7 → w / 2 ^ 8 % 16 < 4 → w / 2 ^ 25 % 2 = 1 →
    let h := w / 2 ^ 12 % 2 ^ 13
    let ring := if s.src.krole.toNat % 4 = 3 then fget? (s.cluster (h / 64)).rings (h % 64) else s.ringOf h s.me.launch
    (ring = none → exec (.ctrget d a) s = .next (s.fault cRINGH 1 0 0)) ∧
    ∀ r, ring = some r → count ([r.a, r.p, r.c, r.f].getD (w / 2 ^ 8 % 16) 0)) ∧
  (w % 2 ^ 8 = 9 → w / 2 ^ 8 % 16 = 0 → w / 2 ^ 25 % 2 = 0 → dieOf s.cur.core < 8 →
    (s.src.krole.toNat % 4 = 3 → count (s.die (dieOf s.cur.core)).n) ∧
    (s.src.krole.toNat % 4 ≠ 3 → exec (.ctrget d a) s = .next (s.fault cKPRIV 6 0 0))) ∧
  (w % 2 ^ 8 = 0x0A → w / 2 ^ 8 % 16 = 0 → w / 2 ^ 25 % 2 = 1 → w / 2 ^ 12 % 2 ^ 13 < 192 →
    count (fget 64 s.me.credits (2048 + w / 2 ^ 12 % 2 ^ 13))) ∧
  (s.cur.core < 2240 → (w = 0x0B → count s.here.dropPf) ∧ (w = 0x0C → count s.here.deadlock) ∧ (w = 0x0D → count s.here.refault) ∧
    (w = 0x0E → count s.here.discarded)) ∧
  (w % 2 ^ 8 > 0x0E → exec (.ctrget d a) s = .next (s.fault cCTRSEL 1 0 0) ∧ exec (.ctrclr a) s = .next (s.fault cCTRSEL 1 0 0)) ∧
  (s.src.krole.toNat % 4 = 3 → s.cur.core < 2240 →
    (w = 1 → s.me.gang = none → Gives (.ctrclr a) s (fun t => t = s.setCore s.cur.core { s.here with issued := 1 })) ∧
    (w = 0x0B → Gives (.ctrclr a) s (fun t => t = s.setCore s.cur.core { s.here with dropPf := 0 })) ∧
    (w = 0x0C → Gives (.ctrclr a) s (fun t => t = s.setCore s.cur.core { s.here with deadlock := 0 })) ∧
    (w = 0x0D → Gives (.ctrclr a) s (fun t => t = s.setCore s.cur.core { s.here with refault := 0 })) ∧
    (w = 0x0E → Gives (.ctrclr a) s (fun t => t = s.setCore s.cur.core { s.here with discarded := 0 }))) ∧
  (s.src.krole.toNat % 4 = 3 ∨ s.taskCap s.cur.core = true → ∀ n, w % 2 ^ 20 = n →
    ((s.home n).e.v = false → reg (.meter d a b) (BitVec.allOnes 64)) ∧
    ((s.home n).e.v = true → s.cycle < (s.home n).winStart + 256 * (s.home n).winLen →
      let y := (s.rd b.val).toNat
      let h := s.home n
      (y % 8 = 0 → reg (.meter d a b) (BitVec.ofNat 64 h.e.meter)) ∧ (y % 8 = 1 → reg (.meter d a b) (BitVec.ofNat 64 h.e.fver)) ∧
      (y % 8 = 2 → reg (.meter d a b) (BitVec.ofNat 64 (h.e.served % 2 ^ 8 + (if h.e.frz then 2 ^ 8 else 0) +
        ((List.range 8).map (fun j => if (h.e.slot j).fin then 2 ^ (16 + j) else 0)).sum))) ∧
      (∀ k, k < 4 → y % 8 = 3 + k → let v := BitVec.ofNat 64 (h.stats.getD k 0)
        (y / 2 ^ 8 % 2 = 0 → reg (.meter d a b) v) ∧
        (y / 2 ^ 8 % 2 = 1 → Gives (.meter d a b) s (fun t => t.me = s.me.setReg d.val v ∧ t.mem = s.mem ∧
          t.home n = { h with stats := h.stats.set k 0 } ∧ ∀ m, m ≠ n → t.home m = s.home m))) ∧
      (y % 8 = 7 → reg (.meter d a b) (BitVec.allOnes 64)))) ∧
  (s.svcCore s.cur.core = true → (s.rd b.val).toNat % 2 = 0 → reg (.genget d b) (BitVec.ofNat 64 s.here.gen)) ∧
  (s.svcCore s.cur.core = true → (s.rd b.val).toNat % 2 = 1 → s.me.unsettled = false → s.mem.wf = true →
    let c := s.cur.core
    let slot := fun (k : Nat) => s.mem.nat (s.fltBuf c + 64 * k) 64
    Gives (.genget d b) s (fun t => t.me = s.me.setReg d.val (BitVec.ofNat 64 ((s.here.gen + 1) % 65536)) ∧
      t.here.gen = (s.here.gen + 1) % 65536 ∧
      (∀ x, t.mem.get x = if (List.range 256).any (fun k => decide (s.fltBuf c + 64 * k ≤ x ∧ x < s.fltBuf c + 64 * k + 64) && (slot k).testBit 8)
        then 0 else s.mem.get x) ∧
      (∀ m ∈ s.net, m ∈ t.net) ∧ ∀ k, k < 256 → (slot k).testBit 8 = true → slot k % 256 ≠ 0 →
        let r := recOf (BitVec.ofNat 512 (slot k))
        ∃ m ∈ t.net, m.kind = 9 ∧ m.src = c ∧ m.dst = r.core ∧
          m.sys = .faultReply r.rid r.unit (slot k % 256) ((s.here.gen + 1) % 65536) c)) ∧
  (s.src.krole.toNat % 4 = 3 → let item := (s.rd b.val).toNat % 8
    let o := w / 2 ^ 4 % 2 ^ 12
    (w % 4 = 0 ∧ o < 2240 ∧ item ≤ 4) ∨ (w % 4 = 1 ∧ o < 12 ∧ (item ≤ 1 ∨ item = 5)) ∨ (w % 4 = 2 ∧ o < 24 ∧ (item ≤ 1 ∨ item = 4)) →
    let key := lifeKey (w % 4) o item
    ((s.rd b.val).toNat / 2 ^ 7 % 2 = 0 → reg (.lifeget d a b) (BitVec.ofNat 64 (fget 0 s.life (key 15)))) ∧
    ((s.rd b.val).toNat / 2 ^ 7 % 2 = 1 →
      reg (.lifeget d a b) (BitVec.ofNat 64 (fget 0 s.life (key ((s.rd b.val).toNat / 2 ^ 4 % 8)))))) ∧
  (s.src.krole.toNat % 4 = 3 → w % 4 = 0 → w / 2 ^ 4 % 2 ^ 12 < 2240 → (s.rd b.val).toNat % 8 = 7 →
    reg (.lifeget d a b) (if (s.rd b.val).toNat / 2 ^ 7 % 2 = 0 then BitVec.ofNat 64 s.hours else BitVec.allOnes 64)) ∧
  (s.src.krole.toNat % 4 = 3 → (w % 4 = 3 ∨ (s.rd b.val).toNat % 8 = 6) → reg (.lifeget d a b) (BitVec.allOnes 64))

/-! ## Events of a core (R23, R49, R102, R142, R152 to R155, R232 to R234, R245, R247) -/

/-- R23, R49, R102, R142, R232, R234, R245, R247: the events of a core's threads: a `wait`'s timer elapses and sets bit 4; ready
threads near `kage` are promoted; an overdue thread takes SAFEOVD; a result whose window has run out lands; a versioned load that
waited too long is VERWAIT and a stalled store SHADOWFULL; a store is acknowledged, and is then visible to every thread; a held access
that now goes through is performed.
That a store to host, CXL or peer memory may be visible to one thread before another until then, and when the schedule shows it to each,
is the model's choice: log entry 91.
R166, R167, R229, R230, R269 to R271: a plain load, store or vector store whose accesses the schedule leaves for later changes no
memory: the accesses wait to be performed, one for each word or unit, a load's destination with them, and a release of the thread waits
for them. One of them performed: it leaves the others, a word or unit of a store is written and no other byte, and the last word of a
load gives its destination what memory held; one that must follow an access not performed yet does not pass it. `rel`, that the store
is the first after a fence that covers stores (R273).
That the schedule chooses when each is performed is the model's choice: log entry 3; `fenced` and `rel` are log entry 91.
R152, R154: the Lathe issues its next captured instruction at its repetition and moves on, each register of an
operand moved on by the stride inside the window (R158); with no repetition and no result left it completes, and its thread's bit 2 is set.
What these rules leave open is the model's choice: log entries 34 and 90. -/
def Obligations.ThreadAndLatheEvents : Prop :=
  (∀ (s : State),
   let c := s.ev.q
   let t := s.ev.t
   let th := s.thr c t
   (∀ k, th.timer = some k → th.live = true → k ≤ s.cycle →
     exec .waitTimeout s = .next (s.setThr c t { th with pend := th.pend ||| 16, timer := none })) ∧
   Gives .agePromotion s (fun u => u.mem = s.mem ∧ ∀ x, x ∈ (u.core c).threads → x.2.promoted = true →
     x.2.live = true ∧ x.2.blk = .none ∧ (s.core c).kage.toNat ≤ x.2.age + 7) ∧
   (∀ x, x ∈ (s.core c).threads → x.2.live = true → x.2.blk = .none → (s.core c).kage.toNat ≤ x.2.age + 7 → Gives .agePromotion s (fun u =>
     (x.1, { x.2 with promoted := true }) ∈ (u.core c).threads)) ∧
   (th.live = true → th.blk = .none → th.after = .none → th.gang = none → (s.core c).kpre.toNat ≤ th.safeCount →
     ∀ u g, s.fetch c t = (u, .group g) → groupSafe g = false → s.illencAny c t g = false →
     Gives .safeovd s (fun w => w = u.faultAt c t cSAFEOVD 6 0 0)) ∧
   (s.ev.on = false → ∀ o n w, th.outs[s.ev.k]? = some o → o.wait = .ready → o.look = 0 → o.regs = [.g n] → o.val = .words [w] → n < 16 →
     Gives .longLatencyWrite s (fun u => u.thr c t = { th.setReg n w with outs := th.outs.eraseIdx s.ev.k } ∧ u.mem = s.mem)) ∧
   (∀ o ea v st n, th.outs = [o] → o.wait = .ldx ea v st n → st + n ≤ s.cycle → th.live = true → n ≠ 0 → (fget 0 s.svcmap (svcIndex c)).toNat / 2 ^ 15 = 1 → th.retried = false → th.blk = .none →
     Gives .verwait s (fun u => u.mem = s.mem ∧ (∃ r, (u.thr c t).blk = .mailbox r) ∧ (u.thr c t).held = some (.ldx ea v o.regs o.look) ∧
       ∃ f, u.flts = s.flts ++ [f] ∧ f.frec.cls = cVERWAIT ∧ f.frec.addr = ea ∧ f.uid = th.uid)) ∧
   (∀ y rest ea x v, s.stalls = y :: rest → y.2.1 = th.uid → th.live = true → th.held = some (.stx ea x v) → (s.core c).kvwait.toNat ≠ 0 →
     y.2.2 + (s.core c).kvwait.toNat ≤ s.cycle → (fget 0 s.svcmap (svcIndex c)).toNat / 2 ^ 15 = 1 → th.retried = false → th.blk = .none →
     Gives .shadowfull s (fun u => u.mem = s.mem ∧ u.stalls = rest ∧ (∃ r, (u.thr c t).blk = .mailbox r) ∧
       ∃ f, u.flts = s.flts ++ [f] ∧ f.frec.cls = cSHADOWFULL ∧ f.frec.addr = ea)) ∧
   (∀ a, s.ev.on = false → s.acks[s.ev.k]? = some a → exec .storeAcknowledgement s = .next { s with
     acks := s.acks.eraseIdx s.ev.k, hidden := s.hidden.filter (fun x => !(x.writer == a.1 && x.ack == a.2)) }) ∧
   (∀ x, s.ev.on = true → s.hidden[s.ev.k]? = some x → 2 ^ 60 ≤ x.pa → Gives .storeAcknowledgement s (fun u =>
     { u with hidden := s.hidden } = s ∧
     u.hidden = s.hidden.map (fun y => if y.pa = x.pa then { y with blind := y.blind.erase th.uid } else y))) ∧
   (∀ ea d l, s.ev.on = false → th.live = true → th.held = some (.load ea 6 [.g d] l) → s.stalls = [] → s.flts = [] →
     ea + 8 ≤ 2 ^ 32 → (∃ o, th.outs = [o] ∧ o.wait = .held ∧ o.val = .words []) → Gives .accessFault s (fun u => u.mem = s.mem ∧ (u.thr c t).held = none ∧
       ∃ o, (u.thr c t).outs = [o] ∧ o.wait = .ready ∧ o.val = .words [BitVec.ofNat 64 (s.mem.nat ea 8)]))) ∧
  (∀ (s : State),
   let parts := fun (n : Nat) (ea : Nat) => (List.range n).map (fun j => (⟨j, ea + 8 * j, 8⟩ : Part))
   (∀ (t : GOp) (base : R) (look : Look), t.n.val ≠ 0 → s.src.kmig.toNat % 2 = 0 → s.defers = true → s.me.accessBusy = false →
     let ea := (s.rd base.val).toNat
     let n := 2 ^ t.w.val
     ea % 8 = 0 → ea + 8 * n ≤ 2 ^ 32 →
     let rs := (List.range n).map (fun j => Reg.g (t.n.val + j))
     let d : Deferred := ⟨.load ea 6 rs look.val, s.me.nextOut, s.cur.addr.toNat, parts n ea, true, false, [], false⟩
     Gives (.ld t base look 6 0) s (fun u => OnlyMe s u ∧ u.me = { s.me with
       outs := s.me.outs ++ [⟨s.me.nextOut, rs, look.val, .access, .words [], false⟩]
       nextOut := s.me.nextOut + 1
       deferred := s.me.deferred ++ [d] })) ∧
   (∀ (t : GOp) (base : R), s.defers = true → s.me.accessBusy = false → s.cur.stop = false →
     let ea := (s.rd base.val).toNat
     let n := 2 ^ t.w.val
     ea % 8 = 0 → ea + 8 * n ≤ 2 ^ 32 →
     let vs := (List.range n).map (fun j => s.rd (t.n.val + j))
     let d : Deferred := ⟨.store ea 6 vs, s.me.nextOut, s.cur.addr.toNat, parts n ea, false, true, [], s.me.fenced⟩
     Gives (.st t base 6 0) s (fun u => OnlyMe s u ∧ u.me = { s.me with deferred := s.me.deferred ++ [d], fenced := false })) ∧
   (∀ (v : VOp) (p : GPair), s.vin v = true → s.defers = true → s.me.accessBusy = false → s.me.deferred = [] →
     let ra := (s.rd (2 * p.val)).toNat
     let pos := (s.rd (2 * p.val + 1)).toNat
     let r := shapeOf (s.mem.bytes ra 32)
     let ps := (r.active pos v.w.val).map (fun l => (⟨l, (r.addr (pos + l)).toNat, unitBytes r.fmt⟩ : Part))
     ra % 32 = 0 → ra + 32 ≤ 2 ^ 32 → r.ok pos v.w.val = true → ps ≠ [] → (∀ q ∈ ps, q.ea + q.len ≤ 2 ^ 32) →
     Gives (.stv v p) s (fun u => u.mem = s.mem ∧ u.here.v = s.here.v ∧ u.me.g = s.me.g ∧ u.me.outs = s.me.outs ∧
       ∃ d, u.me.deferred = [d] ∧ d.parts = ps ∧ d.rd = false ∧ d.wr = true ∧
         d.acc = .stv ra pos v.w.val (s.dispatch (.stv v p)).2 (s.vcore v) (s.rdVs v) none)) ∧
   (∀ (t : GOp) (base : R), s.me.deferred ≠ [] → s.me.accessBusy = false → (s.rd base.val).toNat % 8 = 0 → (s.rd base.val).toNat + 8 ≤ 2 ^ 32 →
     Gives (.stRel t base 6 0) s (fun u => u.mem = s.mem ∧ u.cur.stop = true)) ∧
   (let c := s.ev.q
    let t := s.ev.t
    let th := s.thr c t
    s.ev.on = true → th.live = true → th.held = none → ∀ d p, th.deferred[s.ev.k]? = some d → d.parts[s.ev.f]? = some p →
     (s.partWaits ⟨c, th.cont, th.uid⟩ th.deferred s.ev.k s.ev.f = true → exec .accessFault s = .next s) ∧
     (s.partWaits ⟨c, th.cont, th.uid⟩ th.deferred s.ev.k s.ev.f = false → p.ea + p.len ≤ 2 ^ 32 →
       let left := { d with parts := d.parts.eraseIdx s.ev.f }
       let rest := if left.parts = [] then th.deferred.eraseIdx s.ev.k else th.deferred.set s.ev.k left
       (∀ ea r l, d.acc = .load ea 6 [.g r] l → d.parts = [p] → p = ⟨0, ea, 8⟩ → d.got = [] → d.rd = true → d.wr = false →
         (∃ o, th.outs = [o] ∧ o.id = d.out ∧ o.wait = .access) →
         Gives .accessFault s (fun u => u.mem = s.mem ∧ (u.thr c t).deferred = rest ∧
           ∃ o, (u.thr c t).outs = [o] ∧ o.wait = .ready ∧ o.val = .words [BitVec.ofNat 64 (s.mem.nat ea 8)])) ∧
       (∀ ea vs, d.acc = .store ea 6 vs → p.len = 8 → d.rd = false → d.wr = true → s.mem.wf = true → th.outs = [] →
         Gives .accessFault s (fun u => u.mem.nat p.ea 8 = (vs.getD p.lane 0).toNat ∧
           (∀ i, (i < p.ea ∨ p.ea + 8 ≤ i) → u.mem.get i = s.mem.get i) ∧ u.thr c t = { th with deferred := rest })) ∧
       (∀ ra pos w q v data reg, d.acc = .stv ra pos w q v data reg → d.rd = false → d.wr = true → s.mem.wf = true → th.outs = [] →
         p.len ≤ 2 ^ 16 → Gives .accessFault s (fun u =>
           u.mem.nat p.ea p.len = groupNat data / 2 ^ (8 * p.len * p.lane) % 2 ^ (8 * p.len) ∧
           (∀ i, (i < p.ea ∨ p.ea + p.len ≤ i) → u.mem.get i = s.mem.get i) ∧ u.thr c t = { th with deferred := rest }))))) ∧
  (∀ (s : State) (l : Lathe),
   let c := s.ev.q
   (s.core c).lathe = some l → l.left = 0 →
   (l.over = true → (s.thr c l.slot).outs = [] → (s.core c).envPend = [] → (s.core c).rq = [] → (s.core c).vxq = [] →
     (s.thr c l.slot).live = true → Gives .latheRepeat s (fun t => t.mem = s.mem ∧ (t.core c).lathe = none ∧
       (t.core c).v = (s.core c).v ∧ t.thr c l.slot = { s.thr c l.slot with pend := (s.thr c l.slot).pend ||| 4 })) ∧
   (∀ ty d a b, l.over = false → l.words = [.vadd ty d a b] → l.i = 0 → (s.thr c l.slot).outs = [] → (s.thr c l.slot).uid = l.uid →
     (Instr.vadd ty d a b).wf = true → 0 < l.wcnt → l.wbase + l.wcnt ≤ 32 →
     let off := l.r * l.stride
     let reg := fun (o : VOp) (k : Nat) => l.wbase + (o.n.val + off + k) % l.wcnt
     2 ^ d.w.val ≤ l.wcnt → d.w = a.w → d.w = b.w → (s.core c).envPend = [] → (s.core c).vxq = [] → (s.thr c l.slot).held = none →
     let e := elemBits ty.val
     let g := fun (x : Vector VReg 32) (o : VOp) =>
       groupNat ((List.range (2 ^ o.w.val)).map (fun k => x[reg o k % 32]'(Nat.mod_lt _ (by decide))))
     ty.val ≤ 3 → Gives .latheRepeat s (fun t => t.mem = s.mem ∧ (t.core c).lathe = some { l with r := l.r + 1 } ∧
       (∀ k, k < 1024 * 2 ^ d.w.val / e → lane e (g (t.core c).v d) k =
         (lane e (g (s.core c).v a) k + lane e (g (s.core c).v b) k) % 2 ^ e) ∧
       ∀ m : Fin 32, (∀ k, k < 2 ^ d.w.val → reg d k ≠ m.val) → (t.core c).v[m] = (s.core c).v[m])))

/-! ## The matrix unit and the Rind at work (R87 to R89, R186 to R219) -/

/-- R207 to R219: the oldest Rind instruction runs: `ecnt`, `eeval`, `earg` and `eget` give the thread their result; an envelope
operation that stays in range and within 256 pieces gives its envelope to the renamed destination, `eclr` with the bounds of its register
when it names one, `eld` the envelope of its image. One past 256 pieces is ENVOVF, or with `kenv[0]` simplified first; one out of range is
ENVRNG; a NaN bound, a bad selector or a bad image is ENVOP: late faults that change no envelope. -/
def Obligations.RindRuns : Prop := ∀ (s : State) (r : RCmd) (rest : List RCmd),
  let c := s.ev.q
  let x := (s.core c).landEnvs
  (s.core c).rq = r :: rest → r.old = [] →
  let o0 := (r.s.ops.headD 0).toNat
  let o1 := (r.s.ops.getD 1 0).toNat
  let word := fun (v : Nat) (fl : Flags) (t : State) => t.mem = s.mem ∧ (t.core c).rq = rest ∧ (t.core c).env = x.env ∧
    ∀ k, s.findUid r.uid = some (c, k) → (s.thr c k).uid = r.uid →
      (t.thr c k).outs = (s.thr c k).outs.map (fun o => if o.wait = .rind r.seq then { o with wait := .ready, val := .words [BitVec.ofNat 64 v] } else o) ∧
      (t.thr c k).kflags = (s.thr c k).kflags ||| fl.zeroExtend 64
  let gives := fun (e : Env) => ∀ p, (s.core c).envPend = [p] → p.seq = r.seq → p.res = none → 2 ≤ p.look →
    (s.core c).threads.any (fun t => t.2.live && t.2.uid == p.uid) = true →
    Gives .rindStart s (fun t => t.mem = s.mem ∧ (t.core c).rq = rest ∧ (t.core c).env = (s.core c).env ∧
      (t.core c).envPend = [{ p with res := some { e with owner := r.launch } }])
  let fails := fun (cls : Nat) => (fget 0 s.svcmap (svcIndex c)).toNat / 2 ^ 15 = 1 → Gives .rindStart s (fun t =>
    t.mem = s.mem ∧ (t.core c).env = x.env ∧ ∃ f, t.flts = s.flts ++ [f] ∧ f.frec.cls = cls ∧ f.frec.seq = r.seq)
  let set := fun (q : Rd Env) =>
    let w := envSimp q.val (r.s.ktol.toNat % 2 ^ 32)
    let simplified := 256 < q.val.pieces.length ∧ r.s.kenv.toNat % 2 = 1
    let bad := q.bad = true ∨ (simplified ∧ w.bad = true)
    let e := if 256 < q.val.pieces.length ∧ r.s.kenv.toNat % 2 = 1 then w.val else q.val
    (bad → fails cENVRNG) ∧ (¬ bad → e.pieces.length ≤ 256 → gives e) ∧ (¬ bad → 256 < e.pieces.length → fails cENVOVF)
  (∀ a g, r.ins = .ecnt a g → let e := x.envReg a.val
    Gives .rindStart s (word (e.pieces.length + (if (fcompare fp32 2 e.hi e.lo).1 then 512 else 0)) 0)) ∧
  (∀ a g l, r.ins = .eeval a g l → let q := (x.envReg a.val).eval (o0 % 2 ^ 32)
    Gives .rindStart s (word q.1 q.2)) ∧
  (∀ a g l, r.ins = .earg a g l → let q := (x.envReg a.val).arg (o0 % 2 ^ 32)
    Gives .rindStart s (word q.1 q.2)) ∧
  (∀ a g v, r.ins = .eget a g → (x.envReg a.val).item o0 = some v → Gives .rindStart s (word v 0)) ∧
  (∀ a g, r.ins = .eget a g → (x.envReg a.val).item o0 = none → fails cENVOP) ∧
  (∀ d g, r.ins = .eclr d g → g.val = 0 → gives (Env.cleared negInf posInf)) ∧
  (∀ d g, r.ins = .eclr d g → g.val ≠ 0 → let lo := o0 % 2 ^ 32
    let hi := o0 / 2 ^ 32
    let nan := fun (n : Nat) => n / 2 ^ 23 % 2 ^ 8 = 255 ∧ n % 2 ^ 23 ≠ 0
    (nan lo ∨ nan hi → fails cENVOP) ∧
    (¬ nan lo → ¬ nan hi → gives (if (fcompare fp32 2 hi lo).1 then Env.empty else Env.cleared lo hi))) ∧
  (∀ d a l, r.ins = .eld d a l → (envOfImage r.image = none → fails cENVOP) ∧
    ∀ lo hi ls, envOfImage r.image = some (lo, hi, ls) → set (normalise ls lo hi)) ∧
  (∀ d a g l, r.ins = .eline d a g l → set (envLine (x.envReg a.val) ⟨o0 % 2 ^ 32, o0 / 2 ^ 32, o1 % 2 ^ 16⟩)) ∧
  (∀ d a b l, r.ins = .eadd d a b l → set (envAdd (x.envReg a.val) (x.envReg b.val))) ∧
  (∀ d a b l, r.ins = .emax d a b l → set (envMax (x.envReg a.val) (x.envReg b.val))) ∧
  (∀ d a b l, r.ins = .einf d a b l → set (envInf (x.envReg a.val) (x.envReg b.val))) ∧
  (∀ d a l, r.ins = .econj d a l → set (envConj (x.envReg a.val))) ∧
  (∀ d a l, r.ins = .esimp d a l → set (envSimp (x.envReg a.val) (r.s.ktol.toNat % 2 ^ 32)))

/-! ## Engines and the Spindle at work (R249 to R267, R298 to R307) -/

/-! ## Faults on their way (R344, R348 to R354, R359) -/

/-- R352 to R354, R359: an unanswered record is posted again, with the service core's generation; a retry reply lets a stopped thread run
its group again, a skip lets it go on at the next group, and containment ends its launch.
What these rules leave open is the model's choice: log entry 64. -/
def Obligations.FaultFlow : Prop := ∀ (s : State),
  (∀ w, s.flts[s.ev.k]? = some w → let n := (s.die (dieOf w.frec.core)).fltto
    n ≠ 0 → w.postedAt + n ≤ s.cycle → Gives .faultRepost s (fun t => t.mem = s.mem ∧
      (∃ v, t.flts = s.flts.set s.ev.k v ∧ v.postedAt = s.cycle ∧ v.frec = { w.frec with gen := (s.core w.svc).gen }) ∧
      Sent t s.net (fun x => x.kind = 8 ∧ x.dst = w.svc ∧ x.sys = .faultRecord { w.frec with gen := (s.core w.svc).gen }))) ∧
  (∀ m rid unit code gen svc w c j, s.arriving = some m → m.sys = .faultReply rid unit code gen svc → s.flts = [w] → w.frec.core = m.dst →
    w.frec.unit = unit → w.frec.rid = rid → w.resume = .group → s.findUid w.uid = some (c, j) → (s.thr c j).gang = none →
    (∃ r, (s.thr c j).blk = .mailbox r) → w.frec.cls ≠ cSAFEOVD →
    (code = 1 → Gives .faultReplyArrival s (fun t => t.mem = s.mem ∧ t.flts = [] ∧
      t.thr c j = { s.thr c j with blk := .none, readyAt := s.cycle })) ∧
    (code = 2 → Gives .faultReplyArrival s (fun t => t.mem = s.mem ∧ t.flts = [] ∧
      t.thr c j = { s.thr c j with blk := .none, readyAt := s.cycle, pc := (s.thr c j).pc + 8, refetch := false })) ∧
    (∀ l r, code ≠ 1 → code ≠ 2 → w.launch = some l → (s.fifo l.1).running = some r → r.sq = l.2 → Gives .faultReplyArrival s (fun t =>
      t.mem = s.mem ∧ ∃ q, (t.fifo l.1).running = some q ∧ q.contained = true ∧ q.toPlace = [])))

/-! ## Tokens and replicas (R52 to R69, R330, R376, R377, R391, R392) -/

/-- R56 to R61: a candidate with a free slot starts the replica thread and answers; the accepted slot becomes PENDING and its copy
begins; a finished copy makes it ACTIVE, its lines at the step's version, and its core is told; an aborted one makes it FREE;
activation gives the core its copies, a final push of its own of that step among them, and the owner's answers the `dirset` that asked
for it; a window's end restarts the meter; a drained slot becomes RETIRED with a forwarding entry to the
owner.
What these rules leave open is the model's choice: log entries 42 and 43. -/
def Obligations.ReplicaLife : Prop := ∀ (s : State),
  (∀ m name j, s.arriving = some m → m.sys = .claim name j → name < 2 ^ 20 → j < 8 → let h := s.home name
    s.isFirst m (fun o => o.tells m.dst name) = true →
    (∀ k, h.e.v = true → s.haltingOf h.launch = false → s.containedOf h.launch = false → s.freeSlot m.dst = some k → Gives .claimRequest s (fun t => t.mem = s.mem ∧
      let x := t.thr m.dst k
      x.live = true ∧ x.pc = BitVec.ofNat 64 h.e.hpc ∧ x.krole = 1 ∧ x.kstep = BitVec.ofNat 64 h.e.fver ∧ x.reg 8 = BitVec.ofNat 64 name ∧
      x.reg 9 = BitVec.ofNat 64 j ∧ x.reg 10 = BitVec.ofNat 64 (copyAddr h.e m.dst) ∧ fget? (t.core m.dst).claims name = some j ∧
      Sent t (netRest s m) (fun y => y.dst = homeCore name ∧ y.sys = .claimReply name j m.dst x.uid true))) ∧
    (s.freeSlot m.dst = none → Gives .claimRequest s (fun t => t.cores = s.cores ∧
      Sent t (netRest s m) (fun y => y.dst = homeCore name ∧ y.sys = .claimReply name j m.dst 0 false)))) ∧
  (∀ m name j c uid cl, s.arriving = some m → m.sys = .claimReply name j c uid true → let h := ((s.unNet m.uid).atHome name).home name
    h.claims.find? (fun x => x.j == j && x.core == c) = some cl → cl.asker = none → j < 8 → h.e.slots.length = 8 →
    Gives .claimReply s (fun t => t.mem = s.mem ∧
      (t.home name).e.slot j = { h.e.slot j with core := c, state := 1, wver := h.e.fver, depth := 0 } ∧
      (∀ x ∈ (t.home name).claims, x.j ≠ j) ∧ fget? (t.home name).reps j = some uid ∧ fget? (t.core c).copies name = some (j, h.e.fver, s.cycle))) ∧
  (∀ c name j ver since u, s.ev.q = c → s.ev.k = name → fget? (s.core c).copies name = some (j, ver, since) → j < 8 →
    (s.runCopy c name = (u, .done) → let w := (u.setCore c { u.core c with copies := ferase (u.core c).copies name }).beforeCopy name
      (w.home name).e.slots.length = 8 → ((w.home name).e.slot j).state = 1 → ver = (w.home name).e.fver →
      Gives .copyComplete s (fun t => t.mem = u.mem ∧ (t.home name).e.slot j = { (w.home name).e.slot j with state := 2, wver := ver } ∧
        fget? (t.core c).copies name = none ∧
        (∃ y ∈ t.net, y.dst = c ∧ ∃ f o g, y.sys = .activation name j ver f o g none) ∧
        (copyAddr (s.home name).e c + 64 * (s.home name).e.wlines ≤ 2 ^ 32 → ∀ i, i < (s.home name).e.wlines →
          (t.line (copyAddr (s.home name).e c + 64 * i)).c = ver))) ∧
    (s.runCopy c name = (u, .abort) →
      let w := (u.setCore c { u.core c with copies := ferase (u.core c).copies name, claims := ferase (u.core c).claims name }).beforeCopy name
      (w.home name).e.slots.length = 8 → ((w.home name).e.slot j).state = 1 → Gives .copyAbort s (fun t => ((t.home name).e.slot j).state = 0 ∧ fget? (t.core c).copies name = none ∧
        fget? (t.core c).claims name = none))) ∧
  (∀ m name j wv fin os gf asker, s.arriving = some m → m.sys = .activation name j wv fin os gf asker →
    s.isFirst m (fun o => o.tells m.dst name) = true → (s.core m.dst).parkedTokens name j = [] → Gives .activation s (fun t =>
      t.net = netRest s m ∧ t.mem = s.mem ∧ fget? (t.core m.dst).claims name = none ∧ (∃ a, fget? (t.core m.dst).acts name = some a ∧
        a.j = j ∧ a.wver = wv ∧ a.ostack = os ∧ a.gfmt = gf ∧ a.served = 0 ∧
        (a.fin = true ↔ fin = true ∨ ∃ b, fget? (s.core m.dst).acts name = some b ∧ b.j = j ∧ b.wver = wv ∧ b.fin = true)) ∧
      ∀ u k i d, asker = some u → s.findUid u = some (k, i) → (s.thr k i).blk = .answer d → (t.thr k i).blk = .none ∧
        (d % 16 ≠ 0 → (t.thr k i).reg d = 0))) ∧
  (let name := s.ev.k
   let h := s.home name
   (h.e.v = true → h.winLen ≠ 0 → h.winStart + 256 * h.winLen ≤ s.cycle →
    (h.e.win = 0 ∨ s.cycle < h.winStart + 256 * h.winLen + 256 * h.e.win) →
    (h.e.thret ≤ h.e.meter ∨ h.inUse < 2 → Gives .windowEnd s (fun t => t.cores = s.cores ∧ t.mem = s.mem ∧ t.home name =
      { h with winStart := h.winStart + 256 * h.winLen, winLen := h.e.win, e := { h.e with meter := 0 } })) ∧
    (∀ j, h.e.meter < h.e.thret → 2 ≤ h.inUse → h.e.slots.length = 8 → 1 ≤ j → j < 8 → (h.e.slot j).state = 2 →
      (∀ i, j < i → i < 8 → (h.e.slot i).state ≠ 2) → Gives .windowEnd s (fun t => t.cores = s.cores ∧ t.mem = s.mem ∧
        ((t.home name).e.slot j).state = 3 ∧ (t.home name).e.meter = 0))) ∧
   (let j := s.ev.t
    let c := (h.e.slot j).core
    h.e.v = true → h.e.slots.length = 8 → j < 8 → (h.e.slot j).state = 3 → fget [] h.drainWait j = [] →
    (∀ e ∈ (s.core c).inbox, e.msg.kind ≠ 2 ∨ e.msg.tag ≠ name) → (h.e.served.testBit j = false ∨ (h.e.slot j).fin = true) →
    s.fwdFull c = false → Gives .drainComplete s (fun t => t.mem = s.mem ∧ ((t.home name).e.slot j).state = 4 ∧
      ∃ f ∈ (t.core c).fwd, f.thread = false ∧ f.key = name ∧ f.core = ((t.home name).e.slot 0).core ∧
        f.expires = s.cycle + (s.core c).fwExp * 256)))

/-- R62, R63, R65, R330, R376: a token that its slot's copies accept enters the inbox, visible, and takes a unit of capacity; at a core
that knows nothing of the expert, or whose slot is RETIRED, it is refused with STEPOLD; the home counts each routed token, admits a step's first served
request and the answer reaches the core; depths are compared and reported in a cycle whose number is a multiple of 256, and kept. A token that an expert forwarding entry sends on keeps its
header and is judged as slot 0's (R61). A home acts on a message after its window ends that are due (R55).
What these rules leave open is the model's choice: log entries 40, 41 and 110.
R53, R66, R331, R392: a sharer applies a change and acknowledges it, and a replica core the change of its slot; the home counts
acknowledgements off; a fetch brings the entry into the cache and sets the sharer bit, an eviction clears it; a final push sets the
slot's fin and freezes the entry; a forwarding entry goes after the cycle it expires in. -/
def Obligations.TokensAndDirectory : Prop :=
  (∀ (s : State),
   (∀ m a n, Arrives s m → m.kind = 2 → s.fwdFor m.dst false m.tag = none → fget? (s.core m.dst).acts m.tag = some a →
     a.j = (if m.fwd then 0 else m.rix) → a.wver = m.step → a.state ≠ 1 → a.state ≠ 4 → a.fin = false → a.served = 2 →
     fget? (s.core m.dst).cap m.tag = some n → n ≠ 0 → Gives .tokenArrival s (fun t => t.net = netRest s m ∧ t.mem = s.mem ∧
       fget? (t.core m.dst).cap m.tag = some (n - 1) ∧ Placed (s.core m.dst).inbox (t.core m.dst).inbox { m with arr := s.cycle })) ∧
   (∀ m f, s.arriving = some m → m.kind = 2 → m.ddev = s.rank → s.fwdFor m.dst false m.tag = some f → Gives .tokenArrival s (fun t =>
     t.cores = s.cores ∧ t.mem = s.mem ∧ Sent t (netRest s m) (fun y => y.kind = 2 ∧ y.dst = f.core ∧ y.fwd = true ∧ y.rix = m.rix ∧
       y.tag = m.tag ∧ y.step = m.step ∧ y.flits = m.flits))) ∧
   (∀ m, s.arriving = some m → m.kind = 2 → m.sdev = s.rank → s.fwdFor m.dst false m.tag = none → fget? (s.core m.dst).claims m.tag = none →
     (∀ a, fget? (s.core m.dst).acts m.tag = some a → a.state = 4) → Gives .tokenArrival s (fun t => t.cores = s.cores ∧ t.mem = s.mem ∧
       Sent t (netRest s m) (fun y => y.kind = 3 ∧ y.reason = 2 ∧ y.dst = m.src ∧ y.dslot = m.sslot ∧ y.tag = m.tag ∧ y.flits = m.flits))) ∧
   (∀ m name, s.arriving = some m → m.sys = .meter name → let u := (s.unNet m.uid).atHome name
     (u.home name).e.v = true → (u.home name).e.threp = 0 → Gives .meterMessage s (fun t =>
     t.net = u.net ∧ t.cores = s.cores ∧ t.mem = s.mem ∧
     (t.home name).e = { (u.home name).e with meter := min ((u.home name).e.meter + 1) 65535 })) ∧
   (∀ m name j c, s.arriving = some m → m.sys = .served name j c → let u := (s.unNet m.uid).atHome name
     (u.home name).e.v = true → m.step = (u.home name).e.fver →
     ((u.home name).e.frz = false ∨ (u.home name).e.served.testBit j = true) → Gives .servedRequest s (fun t => t.mem = s.mem ∧
       (t.home name).e = { (u.home name).e with served := (u.home name).e.served ||| 2 ^ j } ∧
       Sent t u.net (fun y => y.kind = 7 ∧ y.dst = c ∧ y.step = m.step ∧ y.sys = .servedAnswer name j true))) ∧
   (∀ m name j a, s.arriving = some m → m.sys = .servedAnswer name j true → fget? (s.core m.dst).acts name = some a → a.j = j → a.wver = m.step →
     a.served = 1 → Gives .servedAnswer s (fun t => t.net = netRest s m ∧ t.mem = s.mem ∧
       fget? (t.core m.dst).acts name = some { a with served := 2 } ∧
       ∀ e ∈ (t.core m.dst).inbox, e.msg.kind = 2 → e.msg.tag = name → e.msg.slotOf = j → e.waitServed = false)) ∧
   (s.cycle % 256 ≠ 0 → exec .depthReport s = .next s) ∧
   (s.cycle % 256 = 0 → Gives .depthReport s (fun t => t.mem = s.mem ∧ (∀ c name, (fget? (s.core c).acts name).isSome → fget 0 (t.core c).lastDepth name = (s.core c).tokens name) ∧
     ∃ l, t.net = s.net ++ l ∧ ∀ y ∈ l, y.kind = 7 ∧ ∃ name j, y.sys = .depth name j ((s.core y.src).tokens name))) ∧
   ∀ m name j n, s.arriving = some m → m.sys = .depth name j n → let e := (((s.unNet m.uid).atHome name).home name).e
     e.v = true → (e.slot j).state ≠ 0 → (e.slot j).core = m.src → (e.slot j).depth ≠ min n 255 →
     Gives .depthUpdate s (fun t => t.mem = s.mem ∧ t.cores = s.cores ∧ (t.home name).e = e.setSlot j { e.slot j with depth := min n 255 })) ∧
  (∀ (s : State),
   (∀ m k name e, s.arriving = some m → m.sys = .change k name e → s.isFirst m (fun o => o.changes k name) = true → Gives .directoryChange s (fun t =>
     t.cores = s.cores ∧ t.mem = s.mem ∧ (∀ l, l ∈ (t.cluster k).dcache ↔
       if e.v = true then (l ∈ (s.cluster k).dcache ∧ l.name ≠ name ∨ l = ⟨name, e⟩ ∧ ∃ o ∈ (s.cluster k).dcache, o.name = name)
       else l ∈ (s.cluster k).dcache ∧ l.name ≠ name) ∧
     Sent t (netRest s m) (fun y => y.dst = homeCore name ∧ y.sys = .changeAck k name))) ∧
   (∀ m name j st wv fin a, s.arriving = some m → m.sys = .slotChange name j st wv fin → s.isFirst m (fun o => o.tells m.dst name) = true →
     st ≠ 0 → fget? (s.core m.dst).acts name = some a → a.j = j →
     (∀ e ∈ (s.core m.dst).inbox, e.msg.kind ≠ 2 ∨ e.msg.tag ≠ name) → Gives .directoryChange s (fun t => t.net = netRest s m ∧ t.mem = s.mem ∧
       fget? (t.core m.dst).acts name = some { a with
         state := st, wver := wv, fin := fin || (decide (wv = a.wver) && a.fin), served := if wv = a.wver then a.served else 0 })) ∧
   (∀ m name j wv fin a, s.arriving = some m → m.sys = .slotChange name j 0 wv fin → s.isFirst m (fun o => o.tells m.dst name) = true →
     fget? (s.core m.dst).acts name = some a → a.j = j →
     (∀ e ∈ (s.core m.dst).inbox, e.msg.kind ≠ 2 ∨ e.msg.tag ≠ name) → Gives .directoryChange s (fun t => t.net = netRest s m ∧ t.mem = s.mem ∧
       fget? (t.core m.dst).acts name = none ∧ fget? (t.core m.dst).claims name = none)) ∧
   (∀ m k name h, s.arriving = some m → m.sys = .changeAck k name → let u := (s.unNet m.uid).atHome name
     fget? u.dir name = some h → Gives .changeAck s (fun t => t.net = u.net ∧ t.cores = s.cores ∧ t.mem = s.mem ∧ (t.home name).e = h.e ∧ fget 0 (t.home name).unacked k = fget 0 h.unacked k - 1)) ∧
   (let k := s.ev.f
    let name := s.ev.k
    let u := (s.setCluster k { s.cluster k with fetching := (s.cluster k).fetching.erase name }).atHome name
    let e := { (u.home name).e with shr := (u.home name).e.shr ||| 2 ^ k }
    name ∈ (s.cluster k).fetching → s.messages.any (fun m => m.changes k name) = false → (u.home name).e.v = true → s.routing k name = [] →
    (s.cluster k).dcache.length < 64 → Gives .directoryFetchReply s (fun t => t.cores = s.cores ∧ t.mem = s.mem ∧
       (t.cluster k).dirLine name = some ⟨name, e⟩ ∧ (t.home name).e = e ∧ (t.cluster k).fetching = (s.cluster k).fetching.erase name)) ∧
   (∀ m k name h, s.arriving = some m → m.sys = .evict k name → (s.cluster k).dirLine name = none →
     let u := (s.unNet m.uid).atHome name
     fget? u.dir name = some h → Gives .evictionMessage s (fun t => t.net = u.net ∧ t.cores = s.cores ∧ t.mem = s.mem ∧
       ∀ i, (t.home name).e.shr.testBit i = (h.e.shr.testBit i && decide (i ≠ k)))) ∧
   (∀ m name j st, s.arriving = some m → m.sys = .finalPush name j st → let e := (((s.unNet m.uid).atHome name).home name).e
     e.v = true → st = e.fver → Gives .finalPushNotice s (fun t => t.cores = s.cores ∧ t.mem = s.mem ∧
       (t.home name).e = { e.setSlot j { e.slot j with fin := true } with frz := true })) ∧
   ((∀ h ∈ s.dir, h.2.fwdDue = []) → Gives .forwardExpiry s (fun t => t.mem = s.mem ∧
     (t.core s.ev.q).fwd = (s.core s.ev.q).fwd.filter (fun f => decide (s.cycle ≤ f.expires)))))

/-! ## Launches and contexts (R37 to R48, R357, R358, R370, R389) -/

/-- A FIFO alone has changed. -/
def Sys2Proof.Claims.OnlyFifo (s t : State) (f : Nat) : Prop :=
  { t with fifos := s.fifos } = s ∧ ∀ g, g ≠ f → t.fifo g = s.fifo g

/-- The completion word of a launch stands in host memory, when its record names a place (R42), and nothing else there has changed. -/
def Sys2Proof.Claims.Completed (s t : State) (f sq status : Nat) (r : BitVec 512) : Prop :=
  let a := r.toNat / 2 ^ 448 % 2 ^ 52
  if r.toNat / 2 ^ 448 = 0 then t.mem = s.mem
  else t.mem.nat (2 ^ 64 + a) 8 = sq + f * 2 ^ 27 + status * 2 ^ 32 ∧
    ∀ x, (x < 2 ^ 64 + a ∨ 2 ^ 64 + a + 8 ≤ x) → t.mem.get x = s.mem.get x

/-- R37, R39 to R43: a pushed record joins its FIFO's queue with the next sequence number, a full FIFO keeps the host waiting; the head
record starts once its tokens are met and no FIFO served before it has one that starts (R40), the vaults of its clusters filled, or is rejected with status 2; a launch whose threads,
records, commands of units and stores are all gone retires with status 0, or 1 when it was contained, its done count and completion word written.
What these rules leave open is the model's choice: log entries 61 and 65.
R41, R45, R47, R370, R389: the next block of an image reaches its core; a placed core whose image is there starts its thread, `g8`
the argument block, `g9` its rank, `g10` the number of placed cores; a free slot of a reserve core starts the communication image;
the reserve grows by one core when the pressure, sampled in a cycle whose number is a multiple of 256, is above its bound.
What these rules leave open is the model's choice: log entries 66, 67, 68, 110, 112 and, for the `kstage` of a communication image's
thread, 113. -/
def Obligations.Launches : Prop :=
  (∀ (s : State),
   let f := s.ev.f
   let x := s.fifo f
   (f < 16 → x.queue.length < 32 → Gives .launchPush s (fun t => OnlyFifo s t f ∧ t.fifo f =
     { x with queue := x.queue ++ [((x.pushed + 1) % 2 ^ 27, s.ev.data)], pushed := (x.pushed + 1) % 2 ^ 27 })) ∧
   (x.queue.length = 32 → exec .launchPush s = .next s) ∧
   (∀ sq r rest, x.running = none → x.queue = (sq, r) :: rest → sq < 2 ^ 27 → f < 16 → s.mem.wf = true →
     (∀ g ∈ fifoOrder.takeWhile (fun g => g != f), s.headReady g = false) →
     (s.rejects f sq r = true → Gives .launchStart s (fun t => t.fifo f = { x with queue := rest, done := (x.done + 1) % 2 ^ 27 } ∧
       Completed s t f sq 2 r ∧ t.cores = s.cores)) ∧
     (∀ k, s.rejects f sq r = false → (recTokens r).all s.tokenMet = true → fget? s.conts (recCont r) = some k → k.vault.length ≤ 2 ^ 25 →
       Gives .launchStart s (fun t => t.cores = s.cores ∧ (t.fifo f).queue = rest ∧
         (∃ l, (t.fifo f).running = some l ∧ l.sq = sq ∧ l.record = r ∧ l.contained = false ∧ l.placed = (k.placed (recRegion r)).length ∧
           l.toPlace.map (fun p => (p.1, p.2.1)) = (k.placed (recRegion r)).map (fun p => (p.1, p.2.1))) ∧
         (∀ c, c < 128 → (recRegion r).testBit c = true → t.mem.bytes (c * 2 ^ 25) k.vault.length = k.vault) ∧
         ∀ a, (2 ^ 32 ≤ a ∨ (recRegion r).testBit (a / 2 ^ 25) = false) → t.mem.get a = s.mem.get a))) ∧
   (∀ l, x.running = some l → l.halting = none → l.toPlace = [] → s.launchLives (f, l.sq) = false → s.unitsWork (f, l.sq) = false → s.acks = [] → l.sq < 2 ^ 27 → f < 16 →
     s.mem.wf = true → Gives .launchRetire s (fun t => t.fifo f = { x with running := none, done := (x.done + 1) % 2 ^ 27 } ∧
       Completed s t f l.sq (if l.contained then 1 else 0) l.record ∧ t.cores = s.cores ∧
       ∀ k r, r ∈ (t.cluster k).rings → r.2.launch ≠ some (f, l.sq)))) ∧
  (∀ (s : State),
   let f := s.ev.f
   let q := s.ev.q
   (∀ l k c role st o, (s.fifo f).running = some l → fget? s.conts (recCont l.record) = some k →
     l.toPlace.find? (fun p => p.2.2.1 == s.ev.k) = some (c, role, s.ev.k, st) → k.role role = some o →
     (k.tree (recRegion l.record) role).head? = some (s.ev.k, c) → s.blocksAt f s.ev.k < o.blocks → Gives .bootBlock s (fun t =>
       t.mem = s.mem ∧ t.blocksAt f s.ev.k = s.blocksAt f s.ev.k + 1 ∧
       (s.blocksAt f s.ev.k + 1 = o.blocks → t.hasImage c (recCont l.record) o.idx = true))) ∧
   (∀ l o rank stage k, s.nextPlaced f q = some (l, o, rank, stage) → s.freeSlot q = some k →
     (∀ g ∈ fifoOrder.takeWhile (fun g => g != f), s.nextPlaced g q = none) → Gives .placedThreadStart s (fun t => t.mem = s.mem ∧
       (∀ c j, (c ≠ q ∨ j ≠ k) → t.thr c j = s.thr c j) ∧ (∃ l', (t.fifo f).running = some l' ∧
         l'.toPlace = l.toPlace.filter (fun p => p.2.2.1 != rank)) ∧
       let x := t.thr q k
       x.live = true ∧ x.pc = BitVec.ofNat 64 o.entry ∧ x.reg 8 = BitVec.ofNat 64 (l.record.toNat / 2 ^ 192 % 2 ^ 64) ∧
       x.reg 9 = BitVec.ofNat 64 rank ∧ x.reg 10 = BitVec.ofNat 64 l.placed ∧
       (∀ n, n < 16 → n ≠ 8 → n ≠ 9 → n ≠ 10 → x.reg n = 0) ∧ x.launch = some (f, l.sq) ∧ x.cont = recCont l.record ∧
       x.krole = BitVec.ofNat 64 (o.krole + if o.comm then 4 else 0) ∧ x.kstage = BitVec.ofNat 64 stage ∧ x.kvwin = 0)) ∧
   (s.ev.t ∈ (s.core q).freed → (s.core q).free s.ev.t = true → s.reserved q = true → ∀ f l o, s.commImage q = some (f, l, o) →
     Gives .commImageStart s (fun t => t.mem = s.mem ∧ (t.thr q s.ev.t).live = true ∧ (t.thr q s.ev.t).pc = BitVec.ofNat 64 o.entry ∧
       (t.thr q s.ev.t).launch = some (f, l.sq) ∧ (t.thr q s.ev.t).kstage = 0 ∧ s.ev.t ∉ (t.core q).freed)) ∧
   (let x := s.die q
    q < 8 → s.cycle % 256 = 0 → (∀ c, x.changed = some c → c + 4096 ≤ s.cycle) → x.rsvhi < s.pressure q → x.rsvlo ≤ s.pressure q →
     x.n < x.rsvmax → Gives .reserveSample s (fun t => { t with dies := s.dies } = s ∧
       t.die q = { x with changed := some s.cycle, n := x.n + 1 })) ∧
   (s.cycle % 256 ≠ 0 → exec .reserveSample s = .next s))

/-- R21, R147: `migr` of an unmapped address, of the cluster the thread is on, or of one without a free slot writes its core's
number to d; a thread that may leave sends its context to the chosen core (kind 6, R356) and issues nothing until the answer, one
that may not yet leaves once it may (a page-table walk that is held keeps it waiting, R368); one with a window or a predicate is saved for the scheduler as at a `safe` with every register
live, and when it cannot be saved its request stays pending (R357).
R285, R331, R356, R357: a context that arrives takes the lowest free slot, its register d the core's number, and is acknowledged;
without a free slot it waits in its inbox slots. The acknowledgement frees the vacated slot and installs its forwarding entry.
R48, R142, R357, R358: a context that may come back takes the lowest free slot of its core with its registers, the window's
included, as far as they are marked live; a switch request sets pending bit 5 of its slot's thread.
What these rules leave open is the model's choice: log entries 2 and 25. -/
def Obligations.ContextMoves : Prop :=
  (∀ (s : State) (d a : R), s.me.drupe = none → s.me.gang = none →
   let ea := s.rd a.val
   let here := BitVec.ofNat 64 s.cur.core
   (2 ^ 52 ≤ ea.toNat → Gives (.migr d a) s (RegStep s · d here)) ∧
   (ea.toNat < 2 ^ 52 → s.walkHeld s.cur.core s.me.cont ea.toNat = true → exec (.migr d a) s = .next s.waits) ∧
   (ea.toNat < 2 ^ 52 → s.walkHeld s.cur.core s.me.cont ea.toNat = false → s.ownerCluster s.cur.core s.me.cont ea.toNat = none →
     Gives (.migr d a) s (RegStep s · d here)) ∧
   (∀ k, ea.toNat < 2 ^ 52 → s.ownerCluster s.cur.core s.me.cont ea.toNat = some k →
     (s.me.migratory = true → (isOpt s.cur.core = false ∧ clusterOf s.cur.core = k) ∨ s.roomIn k = none →
       Gives (.migr d a) s (RegStep s · d here)) ∧
     (s.me.migratory = true → (isOpt s.cur.core = true ∨ clusterOf s.cur.core ≠ k) →
       s.mayLeave s.cur.core s.cur.slot = true → s.here.fwd.length < 16 → ∀ m, s.roomIn k = some m →
       Gives (.migr d a) s (fun t => OnlyMe s { t with net := s.net, nextUid := s.nextUid } ∧
         t.me = { s.me with blk := .leaving } ∧ ∃ x th, t.net = s.net ++ [x] ∧ x.kind = 6 ∧ x.vn = 3 ∧ x.nf = 2 ∧ x.dst = m ∧
           x.sys = .context th s.cur.core s.cur.slot d.val ∧ th.uid = s.me.uid ∧ th.pc = s.cur.addr + 8 ∧ th.g = s.me.g ∧
           th.p = s.me.p ∧ (∀ j, j < 16 → ctl th j = ctl s.me j) ∧ th.launch = s.me.launch ∧ th.safeCount = s.me.safeCount)) ∧
     (s.me.migratory = true → (isOpt s.cur.core = true ∨ clusterOf s.cur.core ≠ k) → s.roomIn k ≠ none →
       (16 ≤ s.here.fwd.length ∨ (s.me.outs = [] ∧ s.here.envPend = [] ∧ s.mayHalt s.cur.core s.cur.slot = false)) →
       Gives (.migr d a) s (fun t => OnlyMe s t ∧ t.me = { s.me with after := .migr k d.val })) ∧
     (s.me.migratory = false → s.pendingOf s.cur.core s.cur.slot = false → s.latheIdle s.cur.core s.cur.slot = true →
       s.here.partnerDone s.me = true → s.savable s.cur.core s.cur.slot = false →
       Gives (.migr d a) s (fun t => OnlyMe s t ∧
         t.me = { s.me.setReg d.val here with safeCount := 0, migReq := some k, pend := s.me.pend ||| 32 })) ∧
     (s.me.migratory = false → s.savable s.cur.core s.cur.slot = true → s.pendingOf s.cur.core s.cur.slot = false →
       s.latheIdle s.cur.core s.cur.slot = true → s.here.partnerDone s.me = true →
       Gives (.migr d a) s (fun t => (t.thr s.cur.core s.cur.slot).live = false ∧ t.mem = s.mem ∧
         ∃ x, t.here.absent = s.here.absent ++ [x] ∧ x.slot = s.cur.slot ∧ x.thr.uid = s.me.uid ∧ x.thr.g = s.me.g ∧
           x.thr.p = s.me.p ∧ x.thr.pc = s.cur.addr + 8 ∧ x.target = some (k, d.val) ∧
           x.glive = BitVec.allOnes 16 ∧ x.plive = BitVec.allOnes 8 ∧ x.vlive = BitVec.allOnes 32)))) ∧
  (∀ (s : State),
   (∀ m th oc os d, Arrives s m → m.sys = .context th oc os d → s.ev.on = false → s.freeSlot m.dst = none → Gives .migrationArrival s (fun t =>
     t.net = netRest s m ∧ Placed (s.core m.dst).inbox (t.core m.dst).inbox { m with arr := s.cycle } ∧ t.mem = s.mem)) ∧
   (∀ m th oc os d k, Arrives s m → m.sys = .context th oc os d → d < 16 → s.ev.on = false →
     (∀ e ∈ (s.core m.dst).inbox, e.msg.kind ≠ 6) → s.freeSlot m.dst = some k → Gives .migrationArrival s (fun t =>
     let x := t.thr m.dst k
     x.live = true ∧ x.uid = th.uid ∧ x.pc = th.pc ∧ x.p = th.p ∧ (∀ j, j < 16 → ctl x j = ctl th j) ∧ x.sendCtr = th.sendCtr ∧
     (∀ n : R, x.reg n.val = if n.val = d ∧ d ≠ 0 then BitVec.ofNat 64 m.dst else th.reg n.val) ∧ t.mem = s.mem ∧
     Sent t (netRest s m) (fun y => y.kind = 7 ∧ y.dst = oc ∧ y.sys = .contextAck m.dst k os))) ∧
   (∀ m nc nt os, Arrives s m → m.sys = .contextAck nc nt os → (s.thr m.dst os).live = true → (s.thr m.dst os).blk = .leaving →
     (s.core m.dst).fwd.length < 16 → s.reserved m.dst = false → (s.core m.dst).inbox = [] → (s.core m.dst).qo = [] →
     Gives .migrationAck s (fun t => t.net = netRest s m ∧ (t.thr m.dst os).live = false ∧ t.mem = s.mem ∧
       ∃ f ∈ (t.core m.dst).fwd, f.thread = true ∧ f.key = os ∧ f.core = nc ∧ f.slot = nt ∧
         f.expires = s.cycle + (s.core m.dst).fwMig * 256))) ∧
  (∀ (s : State),
   let q := s.ev.q
   (∀ a j, s.ev.on = false → (s.core q).absent[s.ev.k]? = some a → s.mayResume q a = true → a.target = none → s.freeSlot q = some j →
     (s.core q).windowFits a.thr.kvwin none = true → s.fwdFull q = false → winBase a.thr.kvwin + a.win.length ≤ 32 → Gives .contextResume s (fun t => t.mem = s.mem ∧ let x := t.thr q j
       x.live = true ∧ x.uid = a.thr.uid ∧ x.pc = a.thr.pc ∧ (∀ k, k < 16 → ctl x k = ctl a.thr k) ∧
       (∀ r : R, r ≠ 0 → a.glive.getLsbD r.val = true → x.reg r.val = a.thr.reg r.val) ∧
       (∀ p : Fin 8, a.plive.getLsbD p.val = true → x.pred p.val = a.thr.pred p.val) ∧
       (∀ n : Fin 32, winBase a.thr.kvwin ≤ n.val → n.val - winBase a.thr.kvwin < a.win.length →
         a.vlive.getLsbD (n.val - winBase a.thr.kvwin) = true → some (t.core q).v[n] = a.win[n.val - winBase a.thr.kvwin]?) ∧
       (t.core q).absent.length + 1 = (s.core q).absent.length ∧
       ∀ c k, (c ≠ q ∨ k ≠ j) → t.thr c k = s.thr c k)) ∧
   (coreExists q = true → s.ev.t < slotCount q → (s.thr q s.ev.t).live = true →
     (s.ev.on = true → fget false s.mwSw (8 * q + s.ev.t) = false → Gives .mwSwitchRequest s (fun t => t.mem = s.mem ∧
       fget false t.mwSw (8 * q + s.ev.t) = true ∧ t.thr q s.ev.t = { s.thr q s.ev.t with pend := (s.thr q s.ev.t).pend ||| 32 })) ∧
     (s.ev.on = false → Gives .mwSwitchRequest s (fun t => { t with mwSw := s.mwSw } = s ∧ fget false t.mwSw (8 * q + s.ev.t) = false))))

/-! ## Other devices (R225 to R227, R243, R368) -/

/-- The tags that the device's hubs hold for a piece agree: they are of a lease, or of a read-only copy (R225). -/
def Sys2Proof.Claims.Agree (s : State) (r h f : Nat) (lease : Bool) : Prop :=
  ∀ x ∈ s.hubs, ∀ p ∈ x.2.tags, ∀ y ∈ p.2, y.holds r h f = true → y.lease = lease

/-- R225 to R227, R243: an invalidation and a recall leave no read-only copy, no lease, of the piece at any hub (which hold one copy for the device, log entry 88); a prefetched piece
arrives in its hub's page cache; another device's store lands in its frame and its read is recorded as a copy.
What these rules leave open is the model's choice: log entry 74. -/
def Obligations.PageCaches : Prop := ∀ (s : State),
  let gone := fun (t : State) (lease : Bool) => t.cores = s.cores ∧
    ∀ g p, p ∈ (t.hub g).tags → ∀ y ∈ p.2, ¬ (y.rank = s.ev.q ∧ y.hub = s.ev.f ∧ y.frame = s.ev.k ∧ y.lease = lease)
  let e := s.ev
  (Agree s e.q e.f e.k false → Gives .invalidation s (fun t => gone t false ∧ ∀ a, a < 2 ^ 80 → t.mem.get a = s.mem.get a)) ∧
  (e.on = false → Agree s e.q e.f e.k true → Gives .leaseRecall s (fun t => gone t true ∧ ∀ a, a < 2 ^ 72 → t.mem.get a = s.mem.get a)) ∧
  (e.on = true → Gives .leaseRecall s (fun t => { t with peerCopies := s.peerCopies } = s ∧ (e.q, e.f, e.k, true) ∉ t.peerCopies)) ∧
  (∀ g p r h f lease, s.fills[e.k]? = some (g, p, r, h, f, lease) → (∃ l, Agree s r h f l) → s.reachable r = true → (s.hub g).pcsz ≠ 0 → Gives .pageCacheFill s (fun t =>
    t.fills.length + 1 = s.fills.length ∧ t.cores = s.cores ∧ (∀ a, a < 2 ^ 72 → t.mem.get a = s.mem.get a) ∧
    ∃ w ∈ (t.hub g).tags, ∃ z ∈ w.2, z.holds r h f = true ∧ z.lease = lease)) ∧
  (e.on = false → e.f < 24 → e.k < 2 ^ 36 → e.q ≠ s.rank → s.rankExists e.q = true → (s.hub e.f).pointers = [] →
    s.peerWaits e (hbmPa e.f e.k) = false → s.mem.wf = true →
    (e.t = 1 + 16 * 3 → Gives .peerAccessRequest s (fun t => t.cores = s.cores ∧ t.mem.nat (hbmPa e.f e.k) 8 = e.v.toNat ∧
      ∀ x, (x < hbmPa e.f e.k ∨ hbmPa e.f e.k + 8 ≤ x) → t.mem.get x = s.mem.get x)) ∧
    (e.t = 0 → exec .peerAccessRequest s = .next s) ∧
    (e.t = 14 → Gives .peerAccessRequest s (fun t => { t with peerCopies := s.peerCopies } = s ∧
      (e.q, e.f, e.k / 2 ^ 16, false) ∈ t.peerCopies)))

/-! ## The management window (R48, R119, R122, R360 to R371) -/

/-- The management command has ended with a status and a handle (R362). -/
def Sys2Proof.Claims.Ended (t : State) (status handle : Nat) : Prop :=
  t.mwCst = BitVec.ofNat 64 (status + handle * 2 ^ 16) ∧ t.mwCmd = none

/-- The management command has ended with a status, and nothing else has changed. -/
def Sys2Proof.Claims.JustEnded (s t : State) (status : Nat) : Prop :=
  { t with mwCst := s.mwCst, mwCmd := s.mwCmd } = s ∧ Ended t status 0

/-- R362, R363, R369, R371: the opcode in bits 7:0 of the block written to `mw.cmd` names the command, its operands stand in the words after
it; while a command is being performed none other begins; an unknown one is status 0xFF; a container that
passes its checks, and for which the loader finds addresses and frames, takes the lowest free handle, one that does not gives the first
failing check's status; an unloaded handle is gone with every translation under it, status 1 while a launch uses it; the attestation
report and signature reach the host.
What these rules leave open is the model's choice: log entries 6, 61, 70 and 71. -/
def Obligations.ContainerCommands : Prop := ∀ (s : State),
  let d := s.ev.data
  let a := cmdW d 1 / 64 * 64
  let n := cmdW d 2
  (∀ (e : Instr) (v : EvArgs), isCommand e = true → v.on = false → let op := v.data.toNat % 256
    (∀ p ∈ [(1, Instr.loadContainer), (2, .unload), (3, .launchHalt), (4, .resume), (5, .checkpoint), (6, .restore), (7, .frameMoveBegin),
      (8, .frameMoveEnd), (9, .attest)], op = p.1 → s.eventOf e v = some p.2) ∧
    (op = 0 ∨ 9 < op → s.eventOf e v = some .unknownCommand)) ∧
  (s.mwBusy = true → (∀ i ∈ [Instr.loadContainer, .unload, .resume, .checkpoint, .restore, .frameMoveBegin, .attest, .unknownCommand],
      exec i s = .next s) ∧
    (s.ev.on = false → exec .launchHalt s = .next s ∧ exec .frameMoveEnd s = .next s)) ∧
  (s.mwBusy = false →
    Gives .unknownCommand s (JustEnded s · 0xFF) ∧
    (s.loadStatus a n ≠ 0 → Gives .loadContainer s (JustEnded s · (s.loadStatus a n))) ∧
    (∀ h secs fs, s.loadStatus a n = 0 → places (s.sections a) s.ev.v.toNat = some secs →
      s.framesAt s.ev.w.toNat (framesFor (pageRights secs)) = some fs → (∀ j, 1 ≤ j → j < h → (fget? s.conts j).isSome) → 1 ≤ h → h < 256 →
      fget? s.conts h = none → Gives .loadContainer s (fun t => Ended t 0 h ∧ t.cores = s.cores ∧ (∃ k, fget? t.conts h = some k ∧
        k.root = framePa (fs.headD 0) ∧ k.place = s.placement a ∧ k.verified = s.signed a ∧ k.measure = s.measurement a) ∧
        ∀ j, j ≠ h → fget? t.conts j = fget? s.conts j)) ∧
    (let h := cmdW d 1
     (s.contBusy h = true → Gives .unload s (JustEnded s · 1)) ∧
     (s.contBusy h = false → Gives .unload s (fun t => Ended t 0 0 ∧ t.mem = s.mem ∧ fget? t.conts h = none ∧
      (∀ j, j ≠ h → fget? t.conts j = fget? s.conts j) ∧
      ∀ c, (t.core c).dtlb = (s.core c).dtlb.filter (fun e => e.handle != h) ∧
        (t.core c).itlb = (s.core c).itlb.filter (fun e => e.handle != h) ∧
        ∀ k j, ∀ l ∈ fget [] (t.cluster k).l2tlb j, l.handle ≠ h))) ∧
    (s.mem.wf = true → let b := s.attestReport (d >>> 64) ++ (List.range 3309).map (Config.attestSign (s.attestReport (d >>> 64)))
      let at_ := 2 ^ 64 + cmdW d 5 % 2 ^ 52
      Gives .attest s (fun t => Ended t 0 0 ∧ t.mem.bytes at_ b.length = b ∧
        ∀ x, (x < at_ ∨ at_ + b.length ≤ x) → t.mem.get x = s.mem.get x)))

/-- R48, R264, R360, R363, R366, R368: a halt command marks its launch and ends when the launch stands still, at once for one that is halted,
and with the status of a retired one for one that is gone; a resume gives back its
contexts, status 1 for an area that holds none; a checkpoint copies stacks and vaults into its region, status 1 while a launch runs,
status 2 in a region without room for it; a restore copies them back, status 3 without a right trailer, and 2 from a region in which no
checkpoint has room (log entry 119); a frame is held from the begin of its move and has its pointer and
its data at the target after the end, which waits for a lease of it, and gives status 1 for no target, and for a hub's full pointer area; a
region's bytes lie from its base in the pool (R365).
What these rules leave open is the model's choice: log entries 61, 62, 63, 72, 73 and 119. -/
def Obligations.MachineCommands : Prop := ∀ (s : State),
  let d := s.ev.data
  let g := cmdW d 1
  let o := cmdW d 2
  let area := cmdW d 3
  let b := 2 ^ 60 + (fget 0 s.mwCxl g).toNat % 2 ^ 52 + o
  let held := (s.hub g).heldFrames
  let mine := fun (p : Nat × Nat × Nat × Bool) => p.2.1 = g ∧ p.2.2.1 = o
  (∀ r, s.mwBusy = true → s.ev.on = true → s.mwCmd = some d → (s.fifo g).running = some r → r.sq = o → r.halting = some area →
    r.halted = false → r.contained = false → s.quiet (g, o) = true → s.mem.wf = true → Gives .launchHalt s (fun t => Ended t 0 0 ∧
      (t.fifo g).running = some { r with halted := true } ∧ ∃ h ∈ t.halts, h.area = area ∧ h.fifo = g ∧ h.run = r ∧
        ∀ i, (i < areaPa area ∨ areaPa area + h.bytes ≤ i) → t.mem.get i = s.mem.get i)) ∧
  (s.mwBusy = false →
    (s.ev.on = false →
      (∀ r, (s.fifo g).running = some r → r.sq = o →
        (r.halting = none → r.halted = false → r.contained = false → Gives .launchHalt s (fun t => t.mem = s.mem ∧ t.mwBusy = true ∧
          t.mwCmd = some d ∧ (t.fifo g).running = some { r with halting := some area })) ∧
        (r.halted = true → Gives .launchHalt s (JustEnded s · 0))) ∧
      ((∀ r, (s.fifo g).running = some r → r.sq ≠ o) → (∀ q ∈ (s.fifo g).queue, q.1 ≠ o) →
        Gives .launchHalt s (JustEnded s · Config.retiredStatus.toNat))) ∧
    (s.halts.find? (fun h => h.area == g) = none → Gives .resume s (JustEnded s · 1)) ∧
    (∀ h, s.halts.find? (fun h => h.area == g) = some h → h.late = [] →
      ((∀ r, (s.fifo h.fifo).running = some r → r.sq = h.run.sq) → Gives .resume s (fun t => Ended t 0 0 ∧ t.mem = s.mem ∧
        t.halts = s.halts.erase h ∧ (t.fifo h.fifo).running = some { h.run with halting := none, halted := false } ∧
        ∀ p ∈ h.contexts, p.2 ∈ (t.core p.1).absent)) ∧
      (∀ r, (s.fifo h.fifo).running = some r → r.sq ≠ h.run.sq → Gives .resume s (JustEnded s · 1))) ∧
    (s.stands = false → Gives .checkpoint s (JustEnded s · 1) ∧ Gives .restore s (JustEnded s · 1)) ∧
    (s.stands = true → s.regionHolds g o (ckSize s.hbmLines.length) = false → Gives .checkpoint s (JustEnded s · 2)) ∧
    (s.stands = true → s.regionHolds g o (ckSize 0) = false → Gives .restore s (JustEnded s · 2)) ∧
    (s.stands = true → s.regionHolds g o (ckSize s.hbmLines.length) = true → s.mem.wf = true → Gives .checkpoint s (fun t =>
      Ended t 0 0 ∧ t.cores = s.cores ∧ (∀ x, x < 24 * 2 ^ 36 → t.mem.get (b + x) = s.mem.get (2 ^ 40 + x)) ∧
      (∀ x, x < 2 ^ 32 → t.mem.get (b + 24 * 2 ^ 36 + x) = s.mem.get x) ∧ ∀ x, x < 2 ^ 60 → t.mem.get x = s.mem.get x)) ∧
    (s.stands = true → s.regionHolds g o (ckSize 0) = true → s.mem.wf = true →
      (s.checkpointAt g o = none → Gives .restore s (JustEnded s · 3)) ∧
      (∀ n, s.checkpointAt g o = some n → Gives .restore s (fun t => Ended t 0 0 ∧ t.cores = s.cores ∧
        (∀ x, x < 24 * 2 ^ 36 → t.mem.get (2 ^ 40 + x) = s.mem.get (b + x)) ∧ (∀ x, x < 2 ^ 32 → t.mem.get x = s.mem.get (b + 24 * 2 ^ 36 + x)) ∧
        ∀ x, 2 ^ 60 ≤ x → t.mem.get x = s.mem.get x))) ∧
    (g < 24 → o < 2 ^ 20 → Gives .frameMoveBegin s (fun t => Ended t 0 0 ∧ t.mem = s.mem ∧ o ∈ (t.hub g).heldFrames ∧
        (∀ k ∈ held, k ∈ (t.hub g).heldFrames) ∧ ∀ p ∈ t.peerCopies, mine p → p.2.2.2 = true) ∧
      (s.ev.on = false → ((∃ p ∈ s.peerCopies, mine p ∧ p.2.2.2 = true) → Gives .frameMoveEnd s (fun t =>
          { t with mwCst := s.mwCst, mwCmd := s.mwCmd } = s ∧ t.mwBusy = true ∧ t.mwCmd = some d)) ∧
        ((∀ p ∈ s.peerCopies, ¬ (mine p ∧ p.2.2.2 = true)) →
          (s.targetBase area (cmdW d 4 % 4) = none ∨ ((s.hub g).pointers.length = 65536 ∧ fget? (s.hub g).pointers o = none) →
            Gives .frameMoveEnd s (JustEnded s · 1)) ∧
          ∀ c, s.targetBase area (cmdW d 4 % 4) = some c → (s.hub g).pointers.length < 65536 → s.mem.wf = true →
            Gives .frameMoveEnd s (fun t => Ended t 0 0 ∧ fget? (t.hub g).pointers o = some c ∧ o ∉ (t.hub g).heldFrames ∧
              ∀ i, i < 2 ^ 16 → t.mem.get (s.pooled c + i) = s.mem.get (2 ^ 40 + g * 2 ^ 36 + o * 2 ^ 16 + i))))))

/-! ## Links, temperature, power (R345, R347, R367, R372) -/

/-- R45, R225, R362, R365, R367, R372: the fabric register is written when its sizes make at most 8,192 devices; the registers of the
management window take the written value in their legal range, the page-cache size only while no launch is loaded. The host reads the FIFO
counts, `mw.cst`, `mw.fab`, and zero where nothing is listed (R10, R37, R362; at the push blocks the zero is the model's choice, log
entry 108).
What these rules leave open is the model's choice: log entry 69.
R345, R347, R367, R372: a retrain and a memory error count in the lifetime record; a link goes down and comes up; a sensor's temperature
is kept, and its crossing of the throttle temperature counted for the core of the die, or the hub and its cores, as an excursion; with a
sensor at the shutdown temperature every launch is contained and retires, the record is written and the device off; a reset keeps the
lifetime record and what lies outside; the record is logged in a cycle whose number is a multiple of 2^24, and power lost leaves it as
last written.
What these rules leave open is the model's choice: log entries 75 and 76. -/
def Obligations.ManagementAndPhysical : Prop :=
  (∀ (s : State),
   let v := s.ev.v
   let n := v.toNat
   let at_ := fun (a : Nat) (P : State → Prop) => s.ev.k = a → Gives .mwRegisterWrite s P
   (if (n / 2 ^ 16 % 4 + 1) * (n / 2 ^ 18 % 4 + 1) * (n / 2 ^ 20 % 64 + 1) * (n / 2 ^ 26 % 64 + 1) ≤ 8192 then
      exec .mwFabWrite s = .next { s with mwFab := v } else exec .mwFabWrite s = .next s) ∧
   at_ 0x1110 (fun t => t = { s with mwPol := BitVec.ofNat 64 (n % 2) }) ∧
   at_ 0x1100 (fun t => t = { s with mwFltoff := BitVec.ofNat 64 (n / 65536 * 65536) }) ∧
   (∀ h, h < 24 → at_ (0x1000 + 8 * h) (fun t =>
     (s.anyLaunch = true ∨ 524288 < n ∨ n % 8 ≠ 0 → t = s) ∧
     (s.anyLaunch = false → n ≤ 524288 → n % 8 = 0 → (t.hub h).pcsz = n ∧ (t.hub h).tags = [] ∧ t.cores = s.cores ∧
       ∀ a, a < 2 ^ 72 → t.mem.get a = s.mem.get a))) ∧
   (∀ c, c < 2240 → at_ (0x1200 + 8 * c) (fun t => t = if s.anyLaunch = true ∨ 256 < n then s else { s with mwOvf := fset s.mwOvf c v })) ∧
   (∀ d, d < 8 → (n < 2 ^ 16 → at_ (0x30000 + 64 * d + 16) (fun t => { t with dies := s.dies } = s ∧ t.die d = { s.die d with rsvhi := n })) ∧
     (n < 2 ^ 20 → at_ (0x30000 + 64 * d + 32) (fun t => { t with dies := s.dies } = s ∧ t.die d = { s.die d with dlto := n })) ∧
     (n < 2 ^ 20 → at_ (0x30000 + 64 * d + 40) (fun t => { t with dies := s.dies } = s ∧ t.die d = { s.die d with fltto := n }))) ∧
   (∀ r, r < 16 → at_ (0x31000 + 16 * r) (fun t => { t with mwCxl := s.mwCxl } = s ∧
     (fget 0 t.mwCxl r).toNat = (fget 0 s.mwCxl r).toNat / 2 ^ 64 * 2 ^ 64 + n ∧ ∀ k, k ≠ r → fget 0 t.mwCxl k = fget 0 s.mwCxl k)) ∧
   s.mwRead 0x840 = s.mwCst ∧ s.mwRead 0x1108 = s.mwFab ∧
   (∀ f, f < 16 → (s.mwRead (0x400 + 16 * f)).toNat % 2 ^ 32 = (s.fifo f).pushed % 2 ^ 27 ∧
     ((s.fifo f).queue.length ≤ 32 → (s.mwRead (0x400 + 16 * f)).toNat / 2 ^ 32 = 32 - (s.fifo f).queue.length) ∧
     s.mwRead (0x408 + 16 * f) = BitVec.ofNat 64 ((s.fifo f).done % 2 ^ 27)) ∧
   (∀ a, a % 8 = 0 → a < 0x400 → s.mwRead a = 0)) ∧
  (∀ (s : State),
   let e := s.ev
   let counted := fun (t : State) (kind idx item : Nat) => { t with life := s.life } = s ∧
     fget 0 t.life (lifeKey kind idx item 15) = min (fget 0 s.life (lifeKey kind idx item 15) + 1) (2 ^ 48 - 1)
   (e.k < 12 → Gives .linkRetrain s (counted · 1 e.k 5)) ∧
   (e.on = true → Gives .linkDown s (fun t => { t with linksDown := s.linksDown } = s ∧
     ∀ k, k ∈ t.linksDown ↔ k = e.k ∨ k ∈ s.linksDown)) ∧
   (e.on = false → Gives .linkDown s (fun t => { t with linksDown := s.linksDown } = s ∧
     ∀ k, k ∈ t.linksDown ↔ k ≠ e.k ∧ k ∈ s.linksDown)) ∧
   ((e.t = 0 ∧ e.k < 2240) ∨ (e.t = 1 ∧ e.k < 12) ∨ (e.t = 2 ∧ e.k < 24) →
     (e.on = true → e.t = 2 → ∀ x ∈ s.hubs, ∀ m ∈ x.2.svq, m.active = true → e.k ∉ m.svrec.hubs) → Gives .memoryError s (counted · e.t e.k (if e.on then 1 else 0))) ∧
   (∀ d, (e.k ≠ 1 ∧ d = e.f ∨ e.k = 1 ∧ d = e.f / 3) → d < 8 → let x := s.die d
     let id := if e.k = 1 then 1 + e.f else 0
     let crossed := ¬ (x.thr % 256 < fget 0 x.temps id ↔ x.thr % 256 < e.t)
     Gives .thermalThrottle s (fun t => t.mem = s.mem ∧ t.cores = s.cores ∧ t.die d = { x with temps := fset x.temps id e.t } ∧
       (¬ crossed → t.life = s.life) ∧
       (crossed → ∀ kind i, (if e.k = 1 then kind = 2 ∧ i = e.f ∨ kind = 0 ∧ ∃ j, j < 8 ∧ i = ocore e.f j else kind = 0 ∧ ∃ j, j < 256 ∧ i = 256 * d + j) →
         fget 0 t.life (lifeKey kind i 4 15) = min (fget 0 s.life (lifeKey kind i 4 15) + 1) (2 ^ 48 - 1)))) ∧
   (s.dies.any (fun d => d.2.tooHot) = true → Gives .thermalShutdown s (fun t => t.on = false ∧ t.lifeLog = t.life ∧
     ∀ f r, f < 16 → (s.fifo f).running = some r → (t.fifo f).running = none ∧ (t.fifo f).done = ((s.fifo f).done + 1) % 2 ^ 27)) ∧
   (s.dies.any (fun d => d.2.tooHot) = false → exec .thermalShutdown s = .next s) ∧
   (s.cycle % 2 ^ 24 = 0 → exec .lifetimeLog s = .next { s with lifeLog := s.life }) ∧
   (s.cycle % 2 ^ 24 ≠ 0 → exec .lifetimeLog s = .next s) ∧
   exec .lossOfPower s = .next { s with life := s.lifeLog, on := false } ∧
   Gives .deviceReset s (fun t => t.life = s.life ∧ t.lifeLog = s.lifeLog ∧ t.powerOn = s.powerOn + s.cycle ∧ t.cycle = 0 ∧
     (∀ c, t.core c = State.reset.core c) ∧ t.net = [] ∧ (∀ f, t.fifo f = State.reset.fifo f) ∧ ∀ a, a < 2 ^ 60 → t.mem.get a = 0))

/-! ## The whole machine -/

/-- R94 to R98, R107 to R110: decoding the words of a well-formed instruction of the scalar, memory, matrix, Rind, message, engine and
table families gives it back, every operand at every value its encoding admits.
R98, R106, R111, R157: the same of the vector and predicate instructions, in pair form and in LV form. -/
def Obligations.EncodingsRoundTrip : Prop :=
  (∀ i : Instr, i.wf = true → lvSplit i = none → encVec i = none → isEvent i = false →
   ∃ e, encode i = some e ∧ decodeEncoded e = some i) ∧
  (∀ i : Instr, i.wf = true → (lvSplit i).isSome ∨ (encVec i).isSome →
   ∃ e, encode i = some e ∧ decodeEncoded e = some i)

/-- Words written out field by field from the encoding tables (R97, R98) decode to the instruction they stand for: an SR, an SM, an SB,
a VR and the two `nop` words, and an LI and an LK group. -/
def Obligations.DecodeWords : Prop :=  decodeTableWord 32 (0x21 * 2 ^ 25 + 3 * 2 ^ 19 + 1 * 2 ^ 13 + 2 * 2 ^ 7) = some (.add 3 1 2) ∧
  decodeTableWord 32 (0x07 * 2 ^ 25 + 5 * 2 ^ 19 + 4 * 2 ^ 13 + 6 * 2 ^ 6 + 1) = some (.ld ⟨0, 5⟩ 4 0 6 1) ∧
  decodeTableWord 32 (0x01 * 2 ^ 25 + 0x7FFFE) = some (.br (-2)) ∧
  decodeTableWord 32 (0x28 * 2 ^ 25 + 1 * 2 ^ 18 + 2 * 2 ^ 11 + 3 * 2 ^ 4 + 6) = some (.vadd 6 ⟨0, 1⟩ ⟨0, 2⟩ ⟨0, 3⟩) ∧
  decodeTableWord 32 0 = some .nopC ∧ decodeTableWord 32 0x40000000 = some .nopA ∧
  decodeTableWord 64 (2 ^ 31 + 0x01 * 2 ^ 25 + 5 * 2 ^ 19 + 0xFFFFFFFE * 2 ^ 32) = some (.movi 5 (-2)) ∧
  decodeTableWord 64 (2 ^ 31 + 0x0A * 2 ^ 25 + 1 * 2 ^ 20 + 0x12 * 2 ^ 14 + 5 * 2 ^ 8 +
    (64 * 2 ^ 16 + 63 * 2 ^ 10 + 31 * 2 ^ 5) * 2 ^ 32) = some (.mma 1 1 5 64 63 31)

/-- R92, R93, R99, R101: a pick of the schedule for a core whose only thread (no gang, no Drupe) has a vault address as its PC: the two
words there are decoded, and the step is what `exec` makes of the lone instruction, or of the two of a pair, both from the sources of
before the group and a control transfer last, run with the group begun; no interlock, capture or bound holding it. The cycles pass first, and the moments at
which other threads became ready are noted (R23).
What these rules leave open is the model's choice: log entry 1, and for the accesses that the pick may defer, 3. -/
def Obligations.StepRunsDecoded : Prop := ∀ (s : State) (n c t : Nat) (late : Bool) (rest : List Pick) (g : Group),
  let q : State := { s with sched := rest }
  let p : State := { (q.noteReady (fun k => k != c || (q.loneSlot c).isNone)).pass (1 + n) with defers := late }
  let u := p.wakes c t
  let th := u.thr c t
  let a := th.pc.toNat
  let w0 := u.mem.nat a 4
  s.on = true → s.sched = .issue n c late :: rest → coreExists c = true → p.cool c = true → p.loneSlot c = some t →
  th.gang = none → th.drupe = none → a % 8 = 0 → a + 8 ≤ 2 ^ 32 → decodeGroup w0 (u.mem.nat (a + 4) 4) = .ok g →
  (isOpt c = false ∨ w0 / 2 ^ 25 ≠ 2 ^ 6 + 0x0A) → (u.core c).lathe = none →
  let v := u.landFor c t (absOf th.kvwin (groupWrites g))
  v.groupHeld c t g = false → v.overdueAt c t g = false →
  let b := v.begin c t th.pc
  let cur : Cur := { core := c, slot := t, addr := th.pc }
  let latch := fun x => { cur with latch := some { thr := b.thr c t, v := (b.core c).v, heads := v.headsFor cur x, count := v.countFor cur x } }
  (∀ i w, g = .lone i → exec i { b with cur := cur } = .next w → w.cur.stop = false →
    step s = .next { ({ w with cur := {} } : State).gather c t with defers := false }) ∧
  ∀ x y w z, g = .pair x y →
    let first := if goesLast x then y else x
    let second := if goesLast x then x else y
    exec first { b with cur := latch x } = .next w → w.cur.stop = false →
    exec second { b.notePartner w c t with cur := latch x } = .next z → z.cur.stop = false →
    step s = .next { ({ z with cur := {} } : State).gather c t with defers := false }

/-- R1, R220: the memory's canonical form is kept by every step.
What these rules leave open is the model's choice: log entry 5. -/
def Obligations.MemoryStaysCanonical : Prop := ∀ s t : State, s.mem.wf = true → step s = .next t → t.mem.wf = true

/-- R28, R41, R49, R131, R220, R293, R352, R372: the state after reset: memory canonical and zero, no thread, every core's and die's
control registers at the values the spec gives, a starting thread's and the management window's.
That bytes outside the vaults read 0 is the model's choice: log entry 5. -/
def Obligations.ResetState : Prop :=  State.reset.mem.wf = true ∧ (∀ a, State.reset.mem.get a = 0) ∧ State.reset.on = true ∧ State.reset.net = [] ∧
  (∀ c k, (State.reset.thr c k).live = false) ∧
  (∀ c, (State.reset.core c).kage = 64 ∧ (State.reset.core c).kpre = 4096 ∧
    (State.reset.core c).kvwait = 0x100000 ∧ (State.reset.core c).gen = 0 ∧
    (∀ i : Fin 32, (State.reset.core c).v[i] = 0)) ∧
  (∀ d, (State.reset.die d).rsvmin = 2 ∧ (State.reset.die d).rsvmax = 8 ∧ (State.reset.die d).rsvhi = 1024 ∧
    (State.reset.die d).rsvlo = 256 ∧ (State.reset.die d).dlto = 65536 ∧ (State.reset.die d).fltto = 262144 ∧
    (State.reset.die d).thr = 95 + 105 * 256) ∧
  (∀ n, n < 16 → n ≠ 8 → ctl {} n = if n < 2 then 4 else if n = 2 then 6 else 0) ∧
  State.reset.mwFltoff = 0x1FA0000 ∧ State.reset.mwFab = 0 ∧ State.reset.mwPol = 0 ∧ State.reset.mwCst = 0 ∧
  (∀ l, State.reset.line l = { c := 0, f := 0, shadows := [] }) ∧ (∀ n, (State.reset.home n).e.v = false)

/-- R347, R372: the machine refuses nothing and stops only without power: every instruction and event answers a next state, and so does
every step of a device that has power. -/
def Obligations.EveryStepGoesOn : Prop :=  (∀ (i : Instr) (s : State), ∃ t, exec i s = .next t) ∧ (∀ s : State, s.on = true → ∃ t, step s = .next t) ∧
  ∀ s : State, s.on = false → step s = .fault .poweredOff

/-! ## Single rules -/

/-- R32: in every thread, a control transfer whose target is address 0 retires the thread exactly as `halt` does: every transfer, taken,
in a thread that may retire; and in every state, a gang's leader and a thread
that has to wait among them, one does what `halt` does after the registers it writes, or the words of the trap block, are written. A
follower of a dissolved gang whose `g13` is 0 retires, or does so once it may. -/
def Obligations.TargetZeroRetires : Prop := ∀ (s : State),
  (MayGo s → MayRetire s →
    (∀ (a : R) (disp : BitVec 19), target s disp.toInt = 0 → Gives (.br disp) s (Retired s) ∧
      (s.rd a.val = 0 → Gives (.bz a disp) s (Retired s)) ∧ (s.rd a.val ≠ 0 → Gives (.bnz a disp) s (Retired s)) ∧
      (s.rd a.val ≠ 1 → Gives (.brdec a disp) s (Retired s)) ∧ Gives (.call disp) s (Retired s)) ∧
    (∀ (disp : BitVec 32), target s disp.toInt = 0 → Gives (.jmp disp) s (Retired s) ∧ Gives (.callLong disp) s (Retired s)) ∧
    (∀ (d a : R), s.rd a.val = 0 → Gives (.jr d a) s (Retired s)) ∧ (s.rd 14 = 0 → Gives .ret s (Retired s))) ∧
  (MayGo s →
    (∀ (a : R) (disp : BitVec 19), target s disp.toInt = 0 → exec (.br disp) s = exec .halt s ∧
      (s.rd a.val = 0 → exec (.bz a disp) s = exec .halt s) ∧ (s.rd a.val ≠ 0 → exec (.bnz a disp) s = exec .halt s)) ∧
    (∀ (a : R) (disp : BitVec 19), target s disp.toInt = 0 →
      exec (.call disp) s = exec .halt (s.wr 14 (s.cur.addr + 8)) ∧
      (s.rd a.val ≠ 1 → exec (.brdec a disp) s = exec .halt (s.wr a.val (s.rd a.val - 1)))) ∧
    (∀ (d a : R), s.rd a.val = 0 → exec (.jr d a) s = exec .halt (s.wr d.val (s.cur.addr + 8))) ∧
    (∀ (disp : BitVec 32), target s disp.toInt = 0 → exec (.jmp disp) s = exec .halt s ∧
      exec (.callLong disp) s = exec .halt (s.wr 14 (s.cur.addr + 8))) ∧ (s.rd 14 = 0 → exec .ret s = exec .halt s) ∧
    (let b := s.src.ktrap.toNat / 64 * 64
     let cause := s.mem.nat (b + 24) 8
     s.me.gang = none → s.src.ktrap ≠ 0 → s.src.ktrap.toNat < 2 ^ 32 → s.mem.wf = true → s.me.unsettled = false →
      (∀ code : BitVec 12, s.mem.nat (b + 8) 8 = 0 → cause < 2 ^ 63 → exec (.trap code) s =
        exec .halt ((s.setVaultWord (b + 16) (s.cur.addr + 8)).setVaultWord (b + 24) (BitVec.ofNat 64 (2 ^ 63 + code.toNat * 2 ^ 32 + 2)))) ∧
      (s.mem.nat (b + 16) 8 = 0 → 2 ^ 63 ≤ cause →
        exec .eret s = exec .halt (s.setVaultWord (b + 24) (BitVec.ofNat 64 (cause - 2 ^ 63)))))) ∧
  (s.me.drupe.isSome → exec (.jmp 0) s = exec .halt s) ∧
  ∀ c k, s.headOf c k = 0 → let u := s.setThr c k { s.thr c k with gang := none }
    s.splitOff c k = if u.canRetire c k then u.retired c k else u.setThr c k { u.thr c k with after := .retire }

/-- R143: `yield` changes nothing but the moment from which its thread counts as ready, the cycle after its issue; every thread of its
role that was ready before is then preferred (neither promoted, neither in a gang); in a gang it has no effect. -/
def Obligations.YieldReorders : Prop := ∀ (s : State),
  (s.me.gang = none → Gives .yield s (fun t => OnlyMe s t ∧ t.me = { s.me with readyAt := s.cycle + 1 } ∧
    ∀ k (b : Thread), b.gang = none → b.krole.toNat % 4 = s.me.krole.toNat % 4 → b.promoted = false → s.me.promoted = false → b.readyAt ≤ s.cycle →
      prefers k b s.cur.slot t.me = true ∧ prefers s.cur.slot t.me k b = false)) ∧
  (s.me.gang.isSome → exec .yield s = .next s)

/-- R136: the short-immediate forms, word and effect: majors 0x23 to 0x27, d, a and the 13-bit immediate, sign-extended. -/
def Obligations.ShortImmediates : Prop := ∀ (s : State) (d a : R) (i : BitVec 13),
  let x := s.rd a.val
  let word := fun (major : Nat) => major * 2 ^ 25 + d.val * 2 ^ 19 + a.val * 2 ^ 13 + i.toNat
  decA' (word 0x23) = .ok (.addi d a i) ∧ Gives (.addi d a i) s (RegStep s · d (x + BitVec.ofInt 64 i.toInt)) ∧
  decA' (word 0x24) = .ok (.andi d a i) ∧ Gives (.andi d a i) s (RegStep s · d (x &&& BitVec.ofInt 64 i.toInt)) ∧
  decA' (word 0x25) = .ok (.ori d a i) ∧ Gives (.ori d a i) s (RegStep s · d (x ||| BitVec.ofInt 64 i.toInt)) ∧
  decA' (word 0x26) = .ok (.xori d a i) ∧ Gives (.xori d a i) s (RegStep s · d (x ^^^ BitVec.ofInt 64 i.toInt)) ∧
  decA' (word 0x27) = .ok (.slti d a i) ∧ Gives (.slti d a i) s (RegStep s · d (if x.toInt < i.toInt then 1 else 0))

/-- R94: majors 0x20 to 0x3F are no C-slot instruction and majors 0x00 to 0x1F no A-slot instruction: the group is ILLENC, field 1, in
the word where it stands; the all-zero group names word 1, and a thread that meets it in vault memory takes that
fault. -/
def Obligations.SlotMaps : Prop :=  (∀ w0 w1 : Nat, w0 < 2 ^ 31 → w1 < 2 ^ 31 →
    (0x20 ≤ w0 / 2 ^ 25 → decodeGroup w0 w1 = .error ⟨0, 1⟩) ∧
    (∀ c, decC w0 = .ok c → w1 / 2 ^ 25 < 0x20 → decodeGroup w0 w1 = .error ⟨1, 1⟩)) ∧
  decodeGroup 0 0 = .error ⟨1, 1⟩ ∧
  ∀ (s : State) (c t : Nat),
    (s.thr c t).drupe = none → (s.thr c t).pc.toNat % 8 = 0 → (s.thr c t).pc.toNat + 8 ≤ 2 ^ 32 →
    (∀ i, i < 8 → s.mem.get ((s.thr c t).pc.toNat + i) = 0) →
    attempt s c t = .next (s.faultAt c t cILLENC 6 0 (16 * 1 + 1))

/-- R100: a pair of instructions that write one register is ILLENC naming word 1; `g0` is never written; any other pair is a group.
Registers of a wide operand, `g14` of `call` and the counter of `brdec` are among those written. -/
def Obligations.TwoWriters : Prop :=  (∀ w0 w1 c a, w0 < 2 ^ 31 → w1 < 2 ^ 31 → decC w0 = .ok c → decA' w1 = .ok a →
    decodeGroup w0 w1 = if ∃ r, r ∈ c.writes ∧ r ∈ a.writes then .error ⟨1, 13⟩ else .ok (.pair c a)) ∧
  (∀ i : Instr, .g 0 ∉ i.writes) ∧
  (∀ disp, Reg.g 14 ∈ (Instr.call disp).writes) ∧ (∀ (a : R) disp, a ≠ 0 → Reg.g a.val ∈ (Instr.brdec a disp).writes) ∧
  ∀ (t : GOp) b l z o n, t.n.val ≤ n → n < t.n.val + 2 ^ t.w.val → n ≠ 0 → Reg.g n ∈ (Instr.ld t b l z o).writes

/-- R28: `split` by the leader dissolves the gang: it goes on at the next group, and each follower whose `g13`, as it was
before the group (R99), is an aligned address other than 0 jumps there, a thread of its core with the role, window and registers it
had. -/
def Obligations.SplitDissolves : Prop := ∀ (s : State), s.cur.follows = false → s.me.gang.isSome → s.me.leads = true → s.me.live = true →
  (∀ m ∈ s.members s.cur.core s.cur.slot, m ≠ (s.cur.core, s.cur.slot) →
    s.headOf m.1 m.2 ≠ 0 ∧ (s.headOf m.1 m.2).toNat % 8 = 0) →
  (s.cur.latch = none → ∀ c k, s.headOf c k = (s.thr c k).reg 13) ∧
  Gives .split s (fun t => t.mem = s.mem ∧ t.me = { s.me with gang := none } ∧
    (∀ m ∈ s.members s.cur.core s.cur.slot, m ≠ (s.cur.core, s.cur.slot) →
      t.thr m.1 m.2 = { s.thr m.1 m.2 with gang := none, pc := s.headOf m.1 m.2 } ∧ (t.core m.1).v = (s.core m.1).v) ∧
    ∀ c k, (c, k) ∉ s.members s.cur.core s.cur.slot → (c, k) ≠ (s.cur.core, s.cur.slot) → t.thr c k = s.thr c k)

/-- R42: a launch that retires writes its completion word: the sequence number, the FIFO, the status (0 retired, 1 contained, 2
rejected), every other bit 0; a contained launch advances the FIFO's done count as a retired one does; host addresses
have 52 bits (R361).
R43: the record at the head of its FIFO is rejected, with status 2 and no thread started, exactly when a reserved bit of R38 is set,
its region is zero, its argument block is misaligned or out of range, it names no loaded container, or a token names its own FIFO and
a sequence number not below its own; one that names its own FIFO with a smaller number, the record before it retired, is satisfied.
That a record which starts leaves the queue is the model's choice: log entry 65. -/
def Obligations.CompletionAndRejection : Prop :=
  (∀ (s : State),
   let f := s.ev.f
   let x := s.fifo f
   f < 16 → s.mem.wf = true →
   let writes := fun (t : State) (sq status : Nat) (r : BitVec 512) =>
     t.fifo f = { x with running := none, queue := (t.fifo f).queue, done := (x.done + 1) % 2 ^ 27 } ∧
     (r.toNat / 2 ^ 448 ≠ 0 → r.toNat / 2 ^ 448 < 2 ^ 52 → t.mem.nat (2 ^ 64 + r.toNat / 2 ^ 448) 8 = sq + f * 2 ^ 27 + status * 2 ^ 32)
   (∀ l, x.running = some l → l.sq < 2 ^ 27 → l.halting = none → l.toPlace = [] → s.launchLives (f, l.sq) = false →
     s.unitsWork (f, l.sq) = false → s.storesDone (f, l.sq) = true → Gives .launchRetire s (fun t => writes t l.sq (if l.contained then 1 else 0) l.record)) ∧
   ∀ sq r rest, x.running = none → x.queue = (sq, r) :: rest → sq < 2 ^ 27 → s.rejects f sq r = true →
     (∀ g ∈ fifoOrder.takeWhile (fun g => g != f), s.headReady g = false) →
     Gives .launchStart s (fun t => writes t sq 2 r)) ∧
  (∀ (s : State) (sq : Nat) (r : BitVec 512) (rest : List (Nat × BitVec 512)),
   let f := s.ev.f
   let n := r.toNat
   let tok := fun (i : Nat) => n / 2 ^ (256 + 32 * i) % 2 ^ 32
   let bad := n % 2 ^ 32 ≠ 0 ∨ n / 2 ^ 48 % 2 ^ 16 ≠ 0 ∨ n / 2 ^ 384 % 2 ^ 64 ≠ 0 ∨ n / 2 ^ 64 % 2 ^ 128 = 0 ∨
     2 ^ 52 ≤ n / 2 ^ 192 % 2 ^ 64 ∨ n / 2 ^ 192 % 8 ≠ 0 ∨ fget? s.conts (n / 2 ^ 32 % 2 ^ 16) = none ∨
     ∃ i, i < 4 ∧ tok i / 2 ^ 31 = 1 ∧ tok i / 2 ^ 27 % 16 = f ∧ (tok i % 2 ^ 27 + 2 ^ 27 - sq) % 2 ^ 27 < 2 ^ 26
   f < 16 → sq < 2 ^ 27 → (s.fifo f).running = none → (s.fifo f).queue = (sq, r) :: rest → s.mem.wf = true →
   (∀ g ∈ fifoOrder.takeWhile (fun g => g != f), s.headReady g = false) →
   (bad → Gives .launchStart s (fun t => t.cores = s.cores ∧ t.fifo f = { s.fifo f with queue := rest, done := ((s.fifo f).done + 1) % 2 ^ 27 } ∧
     (n / 2 ^ 448 ≠ 0 → n / 2 ^ 448 < 2 ^ 52 → t.mem.nat (2 ^ 64 + n / 2 ^ 448) 8 = sq + f * 2 ^ 27 + 2 * 2 ^ 32))) ∧
   (¬ bad → Gives .launchStart s (fun t => (t.fifo f).done = (s.fifo f).done ∧
     ((∀ i, i < 4 → tok i / 2 ^ 31 = 1 → ((s.fifo (tok i / 2 ^ 27 % 16)).done + 2 ^ 27 - tok i % 2 ^ 27) % 2 ^ 27 < 2 ^ 26) →
       (t.fifo f).queue = rest ∧ (t.fifo f).running.isSome = true) ∧
     (((s.fifo f).done + 1) % 2 ^ 27 = sq → (∀ i, i < 4 → tok i / 2 ^ 31 = 1 → tok i / 2 ^ 27 % 16 = f) →
       (t.fifo f).queue = rest ∧ (t.fifo f).running.isSome = true) ∧
     ((∃ i, i < 4 ∧ tok i / 2 ^ 31 = 1 ∧ ¬ ((s.fifo (tok i / 2 ^ 27 % 16)).done + 2 ^ 27 - tok i % 2 ^ 27) % 2 ^ 27 < 2 ^ 26) → t = s))))

/-- R332: `fwdset` by a service thread, bits above 1:0 of b ignored: the two times, written unless 0; the expiry of the expert's or the
slot's entry, which still forwards in this cycle and no more in the next. -/
def Obligations.ForwardTimes : Prop := ∀ (s : State) (d a b : R), s.src.krole.toNat % 4 = 3 →
  let v := (s.rd a.val).toNat
  let op := (s.rd b.val).toNat % 4
  let c := s.cur.core
  let does := fun (st : Word) (x : Core) (t : State) =>
    { t with cores := s.cores } = s ∧ (∀ k, k ≠ c → t.core k = s.core k) ∧ t.here = x.setThr s.cur.slot (s.me.setReg d.val st)
  let entry := fun (thread : Bool) (key : Nat) =>
    (s.fwdFor c thread key = none → Gives (.fwdset d a b) s (does 1 s.here)) ∧
    ((s.fwdFor c thread key).isSome = true → Gives (.fwdset d a b) s (fun t => does 0 { s.here with fwd := s.here.fwd.map (fun e =>
        if e.thread = thread ∧ e.key = key then { e with expires := s.cycle } else e) } t ∧
      (t.fwdFor c thread key).isSome = true ∧ ∀ n, 0 < n → (t.pass n).fwdFor c thread key = none))
  (op < 2 → v % 2 ^ 16 = 0 → Gives (.fwdset d a b) s (does 1 s.here)) ∧
  (op = 0 → v % 2 ^ 16 ≠ 0 → Gives (.fwdset d a b) s (does 0 { s.here with fwExp := v % 2 ^ 16 })) ∧
  (op = 1 → v % 2 ^ 16 ≠ 0 → Gives (.fwdset d a b) s (does 0 { s.here with fwMig := v % 2 ^ 16 })) ∧
  (op = 2 → entry false (v % 2 ^ 20)) ∧ (op = 3 → entry true (v % 8))

/-- R344: a fault record that arrives with the service core's generation enters its fault buffer; with another it is discarded, the
counter goes up, no reply is sent and the thread that waits for it stays as it is. -/
def Obligations.RecordGenerations : Prop := ∀ (s : State) (m : Msg) (r : FaultRec), s.arriving = some m → m.sys = .faultRecord r →
  let c := m.dst
  (∀ k, r.gen = (s.core c).gen → (s.core c).spillFlt = [] → s.fltSlot c = some k → s.mem.wf = true →
    Gives .faultRecordArrival s (fun t => t.mem.nat (s.fltBuf c + 64 * k) 64 = r.line.toNat ∧ t.net = netRest s m ∧ t.cores = s.cores)) ∧
  (r.gen ≠ (s.core c).gen → Gives .faultRecordArrival s (fun t => { t with cores := s.cores, net := s.net } = s ∧ t.net = netRest s m ∧
    (∀ k, k ≠ c → t.core k = s.core k) ∧
    t.core c = { s.core c with discarded := min ((s.core c).discarded + 1) (2 ^ 32 - 1) }))

/-- R346: a counted event (here a link's retraining) adds 1 to its total and 1 to the bin of the band in which the power-on time lies,
both saturating, and to no other bin. -/
def Obligations.HistogramBands : Prop := ∀ (s : State) (band : Nat), s.ev.k < 12 → band < 8 →
  (band = 0 → s.hours < 64) → (1 ≤ band → 64 * 4 ^ (band - 1) ≤ s.hours) → (1 ≤ band → band ≤ 6 → s.hours < 64 * 4 ^ band) →
  Gives .linkRetrain s (fun t => { t with life := s.life } = s ∧
    fget 0 t.life (lifeKey 1 s.ev.k 5 15) = min (fget 0 s.life (lifeKey 1 s.ev.k 5 15) + 1) (2 ^ 48 - 1) ∧
    fget 0 t.life (lifeKey 1 s.ev.k 5 band) = min (fget 0 s.life (lifeKey 1 s.ev.k 5 band) + 1) (2 ^ 32 - 1) ∧
    ∀ k, k ≠ lifeKey 1 s.ev.k 5 15 → k ≠ lifeKey 1 s.ev.k 5 band → fget 0 t.life k = fget 0 s.life k)

/-! ## The units of the engines (R302 to R306, R310) -/

/-- `n` bytes have gone from `src` to `dst` and no other byte has changed; the running command is `e'`. -/
def Sys2Proof.Claims.Moves (s t : State) (src dst n : Nat) (e' : ECmd) : Prop :=
  t.mem.bytes dst n = s.mem.bytes src n ∧ (∀ x, (x < dst ∨ dst + n ≤ x) → t.mem.get x = s.mem.get x) ∧
  (t.running s.ev.q s.ev.f)[s.ev.k]? = some { e' with retried := false }

/-- Memory is as it was; the running command is `e'`. -/
def Sys2Proof.Claims.Stays (s t : State) (e' : ECmd) : Prop :=
  t.mem = s.mem ∧ (t.running s.ev.q s.ev.f)[s.ev.k]? = some { e' with retried := false }

/-- R298, R299, R303 to R305, R307: a command whose checks pass begins to run, in push order; a `cp.copy` in the vaults copies its next
64 bytes and after the last its result is the bytes written; a complete command's result enters its thread's output FIFO and sets
bit 1; a `cp.token` behind nothing completes; a remote command its target's capability admits joins that core's matrix queue.
What these rules leave open is the model's choice: log entries 46 and 60.
R302 to R304, R306, R310: one unit of each command whose ranges lie in the vaults. `cp.gather` and `cp.scatter` read their index list
first, and a row past 2^52 - 1 ends them with ERANGE; then each moves 64 bytes of a row, a hole giving zeros and taking nothing;
`cp.fill` writes its word; `sg.read` moves one element. A ring endpoint takes the next slot in turn, or waits; a unit then lands in the
slot, or comes from it, and the last one of the slot publishes it, or frees it. The result counts the bytes written.
That the list is read once and before any row is log entry 47. -/
def Obligations.EngineRuns : Prop :=
  (∀ (s : State),
   let c := s.ev.q
   let f := s.ev.f
   let k := s.ev.k
   (∀ e rest, s.ev.on = false → fget [] (s.core c).qi f = e :: rest → s.mayStart c f e = true → e.op ≠ 0x20 → s.startStatus e 0 = 0 →
     Gives .engineCommandStart s (fun t => t.mem = s.mem ∧ fget [] (t.core c).qi f = rest ∧
       t.running c f = s.running c f ++ [{ e with pattern := 0, result := none }])) ∧
   (∀ e, s.ev.on = true → (s.running c f)[k]? = some e → e.result = none → e.faulted = false → e.op = 0 → e.w 0 < 2 ^ 63 → e.w 1 < 2 ^ 63 →
     let n := min 64 (e.w 2 - e.done)
     e.w 0 + e.w 2 ≤ 2 ^ 32 → e.w 1 + e.w 2 ≤ 2 ^ 32 → s.mem.wf = true → Gives .engineCommandStart s (fun t =>
       t.mem.bytes (e.w 1 + e.done) n = s.mem.bytes (e.w 0 + e.done) n ∧
       (∀ x, (x < e.w 1 + e.done ∨ e.w 1 + e.done + n ≤ x) → t.mem.get x = s.mem.get x) ∧
       (t.running c f)[k]? = some { e with
         done := e.done + n, result := if e.w 2 ≤ e.done + n then some (0, [BitVec.ofNat 64 (e.w 2)]) else none, retried := false })) ∧
   (∀ e st b j, (s.running c f)[k]? = some e → e.result = some (st, b) → s.findUid e.uid = some (c, j) → (s.thr c j).live = true →
     s.hasParked e.uid = false → (fget [] (s.core c).qo f).length < fifoDepth f → (s.core c).spillRes = [] → Gives .engineResult s (fun t => t.mem = s.mem ∧
       t.running c f = (s.running c f).eraseIdx k ∧ (t.thr c j).pend = (s.thr c j).pend ||| 2 ∧
       ∃ q, fget [] (t.core c).qo f = fget [] (s.core c).qo f ++ [q] ∧ q.body = b ∧ q.uid = e.uid)) ∧
   (∀ e, (s.running c 0)[k]? = some e → e.op = 4 → e.result = none → s.copyBefore e = false → Gives .cpTokenComplete s (fun t =>
     t.mem = s.mem ∧ (t.running c 0)[k]? = some { e with result := some (0, [0, e.body.getD 0 0]) })) ∧
   (∀ e, s.ev.on = false → (s.running c 2)[k]? = some e → e.done = 0 → e.result = none →
     let tgt := s.target (e.body.getD 0 0)
     let y := s.core tgt.core
     tgt.dev = s.rank → isOpt tgt.core = false → coreExists tgt.core = true → tgt.core ≠ c →
     ∀ a pin mask, decodeGroup (e.w 2 % 2 ^ 32) (e.w 2 / 2 ^ 32) = .ok (.lone (.mzero a pin)) →
     (∃ p ∈ y.capab, p.2 = (e.body.getD 1 0, mask)) → e.body.getD 1 0 ≠ 0 → mask.testBit a.val = true → y.mq = [] → y.mrun = none →
     Gives .remoteMatrixAccept s (fun t => t.mem = s.mem ∧ (t.running c 2)[k]? = some { e with done := 1 } ∧
       ∃ m, (t.core tgt.core).mq = [m] ∧ m.ins = .mzero a pin ∧ m.uid = e.uid ∧ m.core = tgt.core))) ∧
  (∀ (s : State) (e : ECmd),
   s.ev.on = true → (s.running s.ev.q s.ev.f)[s.ev.k]? = some e → e.result = none → e.faulted = false → s.mem.wf = true →
   let start := fun (P : State → Prop) => Gives .engineCommandStart s P
   let rb := e.w 2 / 2 ^ 32 % 2 ^ 16
   let rows := e.w 2 % 2 ^ 16
   let off := e.done % rb
   let on := fun (n total out : Nat) (e : ECmd) =>
     ({ e with done := e.done + n, result := if total ≤ e.done + n then some (0, [BitVec.ofNat 64 out]) else none } : ECmd)
   let leave := fun (last : Bool) (e : ECmd) => (if last then { e with ringPos := none } else e : ECmd)
   ((e.op = 1 ∨ e.op = 2) → e.idx.length < rows → e.w 1 + 4 * rows ≤ 2 ^ 32 → 0 < rb →
     let n := min 16 (rows - e.idx.length)
     let at_ := fun (j : Nat) => s.mem.nat (e.w 1 + 4 * (e.idx.length + j)) 4
     let far := fun (j : Nat) => at_ j ≠ 2 ^ 32 - 1 ∧ 2 ^ 52 < (if e.op = 1 then e.w 0 else e.w 3) + at_ j * rb + rb
     ((∃ j, j < n ∧ far j) → start (fun t => Stays s t { e with result := some (2, [0]) })) ∧
     ((∀ j, j < n → ¬ far j) → start (fun t => Stays s t { e with idx := e.idx ++ (List.range n).map (fun j => some (at_ j)) }))) ∧
   (∀ i, e.op = 1 → e.w 3 < 2 ^ 63 → rows ≤ e.idx.length → e.idx.getD (e.done / rb) none = some i → e.w 3 + e.done + 64 ≤ 2 ^ 32 →
     let e' := on 64 (rows * rb) (rows * rb) e
     (i ≠ 2 ^ 32 - 1 → e.w 0 + i * rb + off + 64 ≤ 2 ^ 32 → start (fun t => Moves s t (e.w 0 + i * rb + off) (e.w 3 + e.done) 64 e')) ∧
     (i = 2 ^ 32 - 1 → start (fun t => t.mem.bytes (e.w 3 + e.done) 64 = List.replicate 64 0 ∧
       (∀ x, (x < e.w 3 + e.done ∨ e.w 3 + e.done + 64 ≤ x) → t.mem.get x = s.mem.get x) ∧
       (t.running s.ev.q s.ev.f)[s.ev.k]? = some { e' with retried := false }))) ∧
   (∀ i, e.op = 2 → e.w 0 < 2 ^ 63 → rows ≤ e.idx.length → e.idx.getD (e.done / rb) none = some i →
     let n := e.pattern.toNat + (if i = 2 ^ 32 - 1 then 0 else 64)
     let e' : ECmd := { on 64 (rows * rb) n e with pattern := BitVec.ofNat 256 n }
     (i ≠ 2 ^ 32 - 1 → e.w 0 + e.done + 64 ≤ 2 ^ 32 → e.w 3 + i * rb + off + 64 ≤ 2 ^ 32 →
       start (fun t => Moves s t (e.w 0 + e.done) (e.w 3 + i * rb + off) 64 e')) ∧
     (i = 2 ^ 32 - 1 → start (fun t => Stays s t e'))) ∧
   (e.op = 3 → e.w 2 % 8 = 0 → e.done % 8 = 0 → e.w 0 + e.w 2 ≤ 2 ^ 32 → let n := min 64 (e.w 2 - e.done)
     start (fun t => (∀ j, 8 * j < n → t.mem.nat (e.w 0 + e.done + 8 * j) 8 = e.w 1) ∧
       (∀ x, (x < e.w 0 + e.done ∨ e.w 0 + e.done + n ≤ x) → t.mem.get x = s.mem.get x) ∧
       (t.running s.ev.q s.ev.f)[s.ev.k]? = some { on n (e.w 2) (e.w 2) e with retried := false })) ∧
   (∀ r, e.op = 0x20 → e.w 1 < 2 ^ 63 → patternOf e.pattern (e.w 0) = some r → e.rest = [] →
     let a := (r.addr (e.done / unitBytes r.fmt)).toNat
     a + unitBytes r.fmt ≤ 2 ^ 32 → e.w 1 + e.done + unitBytes r.fmt ≤ 2 ^ 32 →
     start (fun t => Moves s t a (e.w 1 + e.done) (unitBytes r.fmt) (on (unitBytes r.fmt) r.packed r.packed e))) ∧
   (∀ h w g, h < 8192 → w = 2 ^ 63 + h → s.ringOf h e.launch = some g → e.ringPos = none →
     ((e.op = 0 ∧ w = e.w 1) ∨ (e.op = 1 ∧ w = e.w 3 ∧ rows ≤ e.idx.length) ∨
         (e.op = 0x20 ∧ w = e.w 1 ∧ (patternOf e.pattern (e.w 0)).isSome = true) →
       ((g.a + 2 ^ 32 - g.f) % 2 ^ 32 < g.slots → turn g.waitA e.key = true → start (fun t => Stays s t { e with ringPos := some g.a } ∧
         t.ringOf h e.launch = some { g with a := (g.a + 1) % 2 ^ 32, waitA := g.waitA.erase e.key })) ∧
       (¬ ((g.a + 2 ^ 32 - g.f) % 2 ^ 32 < g.slots ∧ turn g.waitA e.key = true) → start (fun t => Stays s t e ∧
         t.ringOf h e.launch = some { g with waitA := queueUp g.waitA e.key }))) ∧
     (e.op = 2 → w = e.w 0 → rows ≤ e.idx.length →
       (g.c ≠ g.p → turn g.waitC e.key = true → start (fun t => Stays s t { e with ringPos := some g.c } ∧
         t.ringOf h e.launch = some { g with c := (g.c + 1) % 2 ^ 32, waitC := g.waitC.erase e.key })) ∧
       (¬ (g.c ≠ g.p ∧ turn g.waitC e.key = true) → start (fun t => Stays s t e ∧
         t.ringOf h e.launch = some { g with waitC := queueUp g.waitC e.key })))) ∧
   (∀ h w g x, h < 8192 → w = 2 ^ 63 + h → s.ringOf h e.launch = some g → e.ringPos = some x →
     let slot := g.base + x % g.slots * g.bytes
     let full := fun (last : Bool) (t : State) => t.ringOf h e.launch = some (if last then g.publish x else g)
     (e.op = 0 → w = e.w 1 → let n := min 64 (e.w 2 - e.done)
       e.w 0 + e.done + n ≤ 2 ^ 32 → slot + e.done + n ≤ 2 ^ 32 → let last := decide (e.w 2 ≤ e.done + n)
       start (fun t => Moves s t (e.w 0 + e.done) (slot + e.done) n (leave last (on n (e.w 2) (e.w 2) e)) ∧ full last t)) ∧
     (∀ i, e.op = 1 → w = e.w 3 → rows ≤ e.idx.length → e.idx.getD (e.done / rb) none = some i → i ≠ 2 ^ 32 - 1 →
       e.w 0 + i * rb + off + 64 ≤ 2 ^ 32 → slot + off + 64 ≤ 2 ^ 32 → let last := decide (rb ≤ off + 64)
       start (fun t => Moves s t (e.w 0 + i * rb + off) (slot + off) 64 (leave last (on 64 (rows * rb) (rows * rb) e)) ∧ full last t)) ∧
     (∀ i, e.op = 2 → w = e.w 0 → rows ≤ e.idx.length → e.idx.getD (e.done / rb) none = some i → i ≠ 2 ^ 32 - 1 →
       slot + off + 64 ≤ 2 ^ 32 → e.w 3 + i * rb + off + 64 ≤ 2 ^ 32 → let last := decide (rb ≤ off + 64)
       let n := e.pattern.toNat + 64
       start (fun t => Moves s t (slot + off) (e.w 3 + i * rb + off) 64
           (leave last { on 64 (rows * rb) n e with pattern := BitVec.ofNat 256 n }) ∧
         t.ringOf h e.launch = some (if last then g.release x else g))) ∧
     (∀ r, e.op = 0x20 → w = e.w 1 → patternOf e.pattern (e.w 0) = some r → e.rest = [] →
       let a := (r.addr (e.done / unitBytes r.fmt)).toNat
       let o := e.done % g.bytes
       let n := min (unitBytes r.fmt) (g.bytes - o)
       a + unitBytes r.fmt ≤ 2 ^ 32 → slot + o + n ≤ 2 ^ 32 → let last := decide (g.bytes ≤ o + n) || decide (r.packed ≤ e.done + n)
       start (fun t => Moves s t a (slot + o) n
         (leave last { on n r.packed r.packed e with rest := (s.mem.bytes a (unitBytes r.fmt)).drop n }) ∧ full last t))))

/-! ## Amplitudes (R251, R256 to R261) -/

/-- The byte address of the amplitude at a physical index of a vector (R251). -/
def Sys2Proof.Claims.ampAt (s : State) (r : SvRec) (pages : List (List Nat)) (p : Nat) : Nat :=
  s.pooled (s.moved (r.at_ (s.ownDev r) pages p) 16)

/-- The amplitudes listed have the values listed, and no byte outside them has changed. -/
def Sys2Proof.Claims.Amps (s t : State) (r : SvRec) (pages : List (List Nat)) (l : List (Nat × Nat)) : Prop :=
  (∀ x ∈ l, t.mem.nat (ampAt s r pages x.1) 8 = x.2 % 2 ^ 64) ∧
  ∀ i, (∀ x ∈ l, i < ampAt s r pages x.1 ∨ ampAt s r pages x.1 + 8 ≤ i) → t.mem.get i = s.mem.get i

/-- R252 to R257, R261, R263, R266: a push whose record is legal is accepted by its lead hub; `sv.swapq` exchanges two qubits in every
replica of the map and moves no amplitude; a local `sv.g1` gives every pair of amplitudes the products of its matrix; a finished
command's result goes to its thread; a hub's fault halts the command and is posted.
What these rules leave open is the model's choice: log entry 58.
R252, R256 to R261: what a chunk of a running Spindle command does to the amplitudes of its vector, on one region or several, of
one hub or device or several. A gate writes to every group of this chunk its matrix's rows times the group (`sv.cg`, to those its
control selects); `sv.diag`, `sv.init` and the scaling of `sv.norm` write every amplitude of the chunk; an exchange for a target or for
`sv.perm` trades the amplitudes of each pair and, after its last chunk, the two bits of the map; a sum writes nothing. No other byte
changes. After its last chunk the command has its result, or goes on to its next phase.
The half-by-half product of `sv.norm` is log entry 104. -/
def Obligations.SpindleRuns : Prop :=
  (∀ (s : State),
   let c := s.ev.q
   let h := s.ev.f
   let k := s.ev.k
   (∀ e rest pa u, s.ev.on = false → fget [] (s.core c).qi 3 = e :: rest → e.result = none → e.faulted = false → e.body.length = svWords e.op →
     s.svSend e = (u, .lead h pa) → e.w 0 % 32 = 0 → let r := svRecOf (s.mem.nat pa 32)
     u.mem = s.mem → r.bad = false → r.hubs.head? = some h → r.rank0 = s.rank → Gives .spindleAccept s (fun t => t.mem = s.mem ∧
       fget [] (t.core c).qi 3 = rest ∧ ∃ m, (t.hub h).svq = (u.hub h).svq ++ [m] ∧ m.hdr = e.hdr ∧ m.body = e.body ∧ m.uid = e.uid ∧
         m.mapid = r.mapid ∧ m.record = BitVec.ofNat 256 (s.mem.nat pa 32) ∧ m.ord = u.nextUid)) ∧
   (∀ m, (s.hub h).svq[k]? = some m → m.result = none → m.halted = false → s.haltingOf m.launch = false →
     (m.active = true ∨ s.svFree h m = true) → s.svReached m.svrec = true →
     let r := m.svrec
     let map := s.svMap h m.mapid
     (m.started = false → m.op = 0x65 → m.badQubits r.n = false → map.valid = true → map.recAddr = m.w 0 →
       map.map.length = r.n → r.hubs = [h] → Gives .chunkCommit s (fun t => t.mem = s.mem ∧
         (t.hub h).svq[k]? = some { m with started := true, active := true, retried := false, result := some (0, [0]) } ∧
         let a := map.map.getD (m.w 1 % 64) 0
         let b := map.map.getD (m.w 1 / 2 ^ 8 % 64) 0
         (t.svMap h m.mapid).map = map.map.map (fun p => if p = a then b else if p = b then a else p))) ∧
     (m.started = true → m.op = 0x60 → m.phase = 3 → m.chunk = 0 → m.passes = false → r.s = 0 → r.d = 0 → 1 ≤ r.l → r.l ≤ 7 →
       m.data.length = 4 → s.mem.wf = true →
       let bit := map.map.getD (m.w 1 % 64) 0
       let at_ := fun (p : Nat) => s.pooled (s.moved (r.at_ (s.ownDev r) map.pages p) 16)
       bit < r.l → (∀ p q, p < 2 ^ r.l → q < 2 ^ r.l → p ≠ q → at_ p + 8 ≤ at_ q ∨ at_ q + 8 ≤ at_ p) →
       let d := m.data.map (·.toNat)
       Gives .chunkCommit s (fun t => (t.hub h).svq[k]?.map (·.result) = some (some (0, [BitVec.ofNat 64 m.count])) ∧
         (∀ j, j < 2 ^ (r.l - 1) →
           let p := j / 2 ^ bit * 2 ^ (bit + 1) + j % 2 ^ bit
           let x := s.mem.nat (at_ p) 8
           let y := s.mem.nat (at_ (p + 2 ^ bit)) 8
           let row := fun (m0 m1 : Nat) => (cadd rne (cmul rne m0 x).1 (cmul rne m1 y).1).1
           t.mem.nat (at_ p) 8 = row (d.getD 0 0) (d.getD 1 0) % 2 ^ 64 ∧
           t.mem.nat (at_ (p + 2 ^ bit)) 8 = row (d.getD 2 0) (d.getD 3 0) % 2 ^ 64) ∧
         ∀ i, (∀ p, p < 2 ^ r.l → i < at_ p ∨ at_ p + 8 ≤ i) → t.mem.get i = s.mem.get i)) ∧
     (m.active = true → c ∈ r.hubs → (fget 0 s.svcmap (128 + h)).toNat / 2 ^ 15 = 1 → Gives .svfault s (fun t => t.mem = s.mem ∧
       (t.hub h).svq[k]? = some { m with halted := true } ∧
       ∃ f, t.flts = s.flts ++ [f] ∧ f.frec.cls = cSVFAULT ∧ f.frec.unit = 7 ∧ f.resume = .spindle h))) ∧
   (∀ m st b q j, (s.hub h).svq[k]? = some m → m.result = some (st, b) → m.far = false → s.findUid m.uid = some (q, j) → s.hasParked m.uid = false →
     (fget [] (s.core q).qo 3).length < 8 → (s.core q).spillRes = [] → Gives .spindleComplete s (fun t => t.mem = s.mem ∧
       (t.hub h).svq = (s.hub h).svq.eraseIdx k ∧ ∃ e, fget [] (t.core q).qo 3 = fget [] (s.core q).qo 3 ++ [e] ∧ e.body = b))) ∧
  (∀ (s : State) (m0 : SvCmd),
   let h := s.ev.f
   let k := s.ev.k
   (s.hub h).svq[k]? = some m0 → m0.result = none → m0.halted = false → s.haltingOf m0.launch = false → m0.active = true →
   m0.started = true → m0.passes = false → s.svReached m0.svrec = true → s.mem.wf = true →
   let m := { m0 with retried := false }
   let r := m.svrec
   let map := (s.svMap h m.mapid).map
   let pages := (s.svMap h m.mapid).pages
   let old := fun (p : Nat) => s.mem.nat (ampAt s r pages p) 8
   (∀ p q, p < 2 ^ r.n → q < 2 ^ r.n → p ≠ q → ampAt s r pages p + 8 ≤ ampAt s r pages q ∨ ampAt s r pages q + 8 ≤ ampAt s r pages p) →
   let commits := fun (P : State → Prop) => Gives .chunkCommit s P
   let cmd := fun (t : State) (m' : SvCmd) => (t.hub h).svq[k]? = some m'
   let todo := fun (n : Nat) => (List.range (2 ^ (r.s + r.d))).flatMap (fun g => (chunkItems n m.chunk).map (fun j => (g, j)))
   let ends := fun (t : State) (n : Nat) (b : List Word) =>
     cmd t (if m.chunk + 1 < chunksOf n then { m with chunk := m.chunk + 1 } else { m with result := some (0, b) })
   let d := m.data.map (·.toNat)
   ((m.op = 0x60 ∨ m.op = 0x61 ∨ m.op = 0x62 ∨ m.op = 0x63) → m.phase = 3 →
     let bits := m.targets.map (fun q => map.getD q 0)
     let n := 2 ^ bits.length
     bits.Nodup → (∀ u ∈ bits, u < r.l) →
     let low := fun (g j : Nat) => g * 2 ^ r.l + insertZeros (bits.foldl (fun l b => insertSorted b l) []) j
     let member := fun (p i : Nat) => p + ((List.range bits.length).map (fun b => if i.testBit b then 2 ^ bits.getD b 0 else 0)).sum
     commits (fun t => ends t (2 ^ (r.l - bits.length)) [BitVec.ofNat 64 m.count] ∧
       Amps s t r pages ((todo (2 ^ (r.l - bits.length))).flatMap (fun (x : Nat × Nat) =>
         let p : Nat := low x.1 x.2
         if (m.op == 0x63 && Nat.land (logicalOf map p) (m.w 3) != m.w 4) = true then ([] : List (Nat × Nat)) else (List.range n).map (fun i =>
           (member p i, gateRow ((d.drop (n * i)).take n) ((List.range n).map (fun j => old (member p j))))))))) ∧
   (m.op = 0x64 → m.phase = 3 →
     let i := fun (x : Nat) => ((List.range m.targets.length).map (fun b => if x.testBit (m.targets.getD b 0) then 2 ^ b else 0)).sum
     commits (fun t => ends t (2 ^ r.l) [BitVec.ofNat 64 m.count] ∧
       Amps s t r pages ((todo (2 ^ r.l)).map (fun x => let p := x.1 * 2 ^ r.l + x.2
         (p, (cmul rne (d.getD (i (logicalOf map p)) 0) (old p)).1))))) ∧
   (m.op = 0x69 → m.phase = 3 → commits (fun t => ends t (2 ^ r.l) [0] ∧
     Amps s t r pages ((todo (2 ^ r.l)).map (fun x => let p := x.1 * 2 ^ r.l + x.2
       (p, if logicalOf map p = m.w 1 then 0x3F800000 else 0))))) ∧
   (m.op = 0x68 → m.phase = 3 → commits (fun t => ends t (2 ^ r.l) (m.data.drop 1) ∧
     Amps s t r pages ((todo (2 ^ r.l)).map (fun x => let p := x.1 * 2 ^ r.l + x.2
       (p, (fmul fp32 rne (old p % 2 ^ 32) (d.getD 0 0)).1 + 2 ^ 32 * (fmul fp32 rne (old p / 2 ^ 32) (d.getD 0 0)).1))))) ∧
   (let swaps := fun (a b : Nat) (mid next : SvCmd) => a ≠ b → a < r.n → b < r.n → 2 ≤ r.l → r.hubs.Nodup →
      (∀ x ∈ r.swapPairs (min a b) (max a b) m.chunk, x.1 < 2 ^ r.n ∧ x.1.testBit (max a b) = true ∧ x.1.testBit (min a b) = false ∧
        x.2 = x.1 - 2 ^ max a b + 2 ^ min a b) ∧
      commits (fun t => Amps s t r pages ((r.swapPairs (min a b) (max a b) m.chunk).flatMap (fun x => [(x.1, old x.2), (x.2, old x.1)])) ∧
        (m.chunk + 1 < chunksOf (r.swapCount a b) → cmd t { mid with chunk := m.chunk + 1 } ∧
          ∀ j, (t.svMap j m.mapid).map = (s.svMap j m.mapid).map) ∧
        (¬ m.chunk + 1 < chunksOf (r.swapCount a b) → cmd t { next with chunk := 0, count := m.count + 1 } ∧
          ∀ j ∈ r.hubs, (t.svMap j m.mapid).map = (s.svMap j m.mapid).map.map (fun p => if p = a then b else if p = b then a else p)))
    (∀ q, (m.op = 0x60 ∨ m.op = 0x61 ∨ m.op = 0x62 ∨ m.op = 0x63) → m.phase ≤ 2 → m.targets[m.phase]? = some q →
      let a := map.getD q 0
      let next := { m with phase := if m.phase + 1 < m.targets.length then m.phase + 1 else 3 }
      (a < r.l → commits (fun t => cmd t next ∧ t.mem = s.mem)) ∧
      (r.l ≤ a → ∀ b, b < r.l → (∀ t ∈ m.targets, map.getD t 0 ≠ b) → (∀ c, b < c → c < r.l → ∃ t ∈ m.targets, map.getD t 0 = c) →
        swaps a b m next)) ∧
    (m.op = 0x66 → m.phase = 4 → let target := (m.data.map (·.toNat)).take r.n
      let from_ := fun (p : Nat) => map.getD (qubitAt target p) 0
      ((∀ p, p ≤ m.pidx → from_ p = p) → commits (fun t => cmd t { m with result := some (0, [BitVec.ofNat 64 m.count]) } ∧ t.mem = s.mem)) ∧
      ∀ p, p ≤ m.pidx → from_ p ≠ p → (∀ q, p < q → q ≤ m.pidx → from_ q = q) →
        swaps (from_ p) p { m with pidx := p } { m with pidx := p - 1 })) ∧
   ((m.op = 0x67 ∨ m.op = 0x68) → m.phase = 5 →
     let before := if m.chunk = 0 then List.replicate (2 ^ (r.s + r.d)) 0 else m.sums
     before.length = 2 ^ (r.s + r.d) →
     let sums := (List.range (2 ^ (r.s + r.d))).map (fun g => (chunkItems (2 ^ r.l) m.chunk).foldl (fun acc i =>
       let p := g * 2 ^ r.l + i
       if m.op = 0x68 ∨ logicalOf map p &&& m.w 1 = m.w 2 then accAdd acc (magnitude (old p)) else acc) (before.getD g 0))
     let tot := r.total sums
     let w0 := BitVec.ofNat 64 tot
     let f := if m.w 1 % 2 = 1 then rsqTotal tot else 0
     let body := [w0, BitVec.ofNat 64 (toFp32 tot * 2 ^ 32 + f)]
     commits (fun t => t.mem = s.mem ∧
       (m.chunk + 1 < chunksOf (2 ^ r.l) → cmd t { m with chunk := m.chunk + 1, sums := sums }) ∧
       (¬ m.chunk + 1 < chunksOf (2 ^ r.l) →
         (m.op = 0x67 → cmd t { m with result := some (0, [w0, BitVec.ofNat 64 (toFp32 tot)]) }) ∧
         (m.op = 0x68 → m.w 1 % 2 = 1 → tot ≠ 0 → cmd t { m with phase := 3, chunk := 0, data := BitVec.ofNat 64 f :: body }) ∧
         (m.op = 0x68 → m.w 1 % 2 = 0 ∨ tot = 0 → cmd t { m with result := some (0, body) })))))

/-! ## Groups of k-steps (R87, R89, R188, R192 to R195) -/

/-- The groups that the k-steps from `k` up to `e` fall into, first step and length, when the chain stands at `pos`: each ends at a
multiple of 32 of the chain or with the command (R87, R194); `n` bounds them. -/
def Sys2Proof.Claims.cuts (pos k e n : Nat) : List (Nat × Nat) :=
  match n with
  | 0 => []
  | n + 1 =>
    if e ≤ k then []
    else
      let len := min (32 - pos % 32) (e - k)
      (k, len) :: cuts (pos + len) (k + len) e n

/-- R78, R87, R188, R194 to R197, R202: the oldest matrix command starts when none runs: `mzero` leaves every element +0 and the pin as
given; `mwb` copies a legal panel into the weight buffer; `asave` writes the image; a plain `mma` of one group of k-steps replaces
each element of its corner by RN(element + the exact sum of products) and no other.
R88, R89, R195, R199 to R201: a segment end rounds the corner to FP32 rows for the drain stage and zeroes it. A row of a drain, each
element times its row's and column's scale in mode 1, is rounded once to the destination format and goes to memory; with a handler it goes
into the lowest free row slot, zeros behind it, and then to a new epilogue thread, which knows its slot, destination, row and tag; with no
row slot free it waits. The rows of a segment go the same way as FP32. After the last row of a drain the corner is cleared unless kept; a
command that is over leaves the unit and its flags reach its thread.
What these rules leave open is the model's choice: log entry 36; that a chain a short group has closed (mode 3) drains unscaled: log
entry 98.
R71, R87, R89, R188, R192, R194, R195: an `mma` or `mmas`, at its start or going on, with its rows of A in the vaults: its k-steps, of
an `mmas` up to the next multiple of 128 of the chain, go in groups into every element of its corner, each by one rounding of the element
plus the group's exact sum of products, blocks of a BFP format unit by unit; no other element, no other accumulator and no memory changes.
`kcnt` counts on and saturates, a segment end is then due, and a command that ends off a multiple of 32 closes the chain.
`pos`, the chain's position beyond a saturated `kcnt`, is the model's field: log entry 120. -/
def Obligations.MatrixUnitRuns : Prop :=
  (∀ (s : State) (m : MCmd) (rest : List MCmd),
   let c := s.ev.q
   let x := s.core c
   x.mrun = none → x.mq = m :: rest →
   (∀ a pin, m.ins = .mzero a pin → Gives .matrixCommandStart s (fun t => t.mem = s.mem ∧ (t.core c).mq = rest ∧
     (t.core c).mrun = some { m with done := true } ∧ (∀ r k, ((t.core c).accum a.val).elem r k = 0) ∧ ((t.core c).accum a.val).pin = pin ∧
     ((t.core c).accum a.val).mode = 0 ∧ ∀ b, b ≠ a.val → (t.core c).accum b = x.accum b)) ∧
   (∀ ga gb, m.ins = .mwb ga gb →
     let src := (m.s.ops.getD 0 0).toNat
     let off := (m.s.ops.getD 1 0).toNat
     let p := panelOf off (s.mem.bytes src 64)
     src % 64 = 0 → off % 64 = 0 → off < 2 ^ 18 → src + p.size ≤ 2 ^ 32 → src + 64 ≤ 2 ^ 32 → p.resv = 0 → panelFmt p.fmt = true →
     off + p.size ≤ 2 ^ 18 → x.wbuf.wf = true → Gives .matrixCommandStart s (fun t => t.mem = s.mem ∧
       (t.core c).wbuf.bytes off p.size = s.mem.bytes src p.size ∧
       ∀ i, (i < off ∨ off + p.size ≤ i) → (t.core c).wbuf.get i = x.wbuf.get i)) ∧
   (∀ a ga, m.ins = .asave a ga → let ea := (m.s.ops.getD 0 0).toNat
     ea % 64 = 0 → ea + 16448 ≤ 2 ^ 32 → s.mem.wf = true → Gives .matrixCommandStart s (fun t => (t.core c).acc = x.acc ∧
       t.mem.nat (ea + 8) 8 = (x.accum a.val).sclA.toNat ∧
       (∀ r k, r < 64 → k < 32 → t.mem.nat (ea + 64 + 8 * (32 * r + k)) 8 = (x.accum a.val).elem r k % 2 ^ 64) ∧
       ∀ i, (i < ea ∨ ea + 16448 ≤ i) → t.mem.get i = s.mem.get i)) ∧
   (∀ a ga, m.ins = .arest a ga → let ea := (m.s.ops.getD 0 0).toNat
     ea % 64 = 0 → ea + 16448 ≤ 2 ^ 32 → s.mem.nat ea 8 / 2 ^ 63 = 0 → s.mem.nat ea 8 / 2 ^ 48 % 16 = 0 → s.mem.nat ea 8 / 2 ^ 46 % 4 = 0 →
     Gives .matrixCommandStart s (fun t => t.mem = s.mem ∧ ((t.core c).accum a.val).mode = s.mem.nat ea 8 / 2 ^ 60 % 4 ∧
       ∀ r k, r < 64 → k < 32 → ((t.core c).accum a.val).elem r k = s.mem.nat (ea + 64 + 8 * (32 * r + k)) 8 % 2 ^ 48)) ∧
   (∀ acc ga gb ks r1 c1, m.ins = .mma acc ga gb ks r1 c1 →
     let ra := (m.s.ops.getD 0 0).toNat
     let pos := (m.s.ops.getD 1 0).toNat
     let wb := (m.s.ops.getD 2 0).toNat
     let h : MShape := ⟨acc.val, ks.toNat, r1.val + 1, c1.val + 1, false, false, wb, pos, ra⟩
     let r := shapeOf (s.mem.bytes ra 32)
     let fa := m.s.kfmtA.toNat
     let p := panelOf (panelAt wb) (x.wbuf.bytes (panelAt wb) 64)
     m.shapeRec = [] → m.started = false → m.k = 0 → m.fetched = [] → m.due = false → 0 < ks.toNat →
     (x.accum acc.val).pos % 32 + ks.toNat ≤ 32 → ra % 32 = 0 → ra + 32 ≤ 2 ^ 32 →
     mmaCheck x m h r = none → isBfp fa = false →
     (∀ row k, row ≤ r1.val → k < ks.toNat → r.has (pos + k) row = true → (r.addr2 (pos + k) row).toNat + unitBytes r.fmt ≤ 2 ^ 32) →
     let A := fun (row k : Nat) => elemVal fa (if r.has (pos + k) row then s.mem.nat (r.addr2 (pos + k) row).toNat (unitBytes r.fmt) else 0)
     let B := fun (col k : Nat) => blockElem m.s.kfmtB.toNat (p.block x.wbuf (wb / 2 ^ 32 % 2 ^ 16) col) k
     Gives .matrixCommandStart s (fun t => t.mem = s.mem ∧ (t.core c).wbuf = x.wbuf ∧
       (∀ row col, row < 64 → col < 32 → ((t.core c).accum acc.val).elem row col =
         if row ≤ r1.val ∧ col ≤ c1.val then (accStep ((x.accum acc.val).elem row col) (dotSum (A row) (B col) ks.toNat)).1
         else (x.accum acc.val).elem row col) ∧
       (∀ b, b ≠ acc.val → (t.core c).accum b = x.accum b)))) ∧
  (∀ (s : State) (m : MCmd),
   let c := s.ev.q
   let x := s.core c
   let e := epiOf m.epiRec
   let slot := fun (j : Nat) => e.stage + 128 * j
   let lowest := fun (j : Nat) => j < 8 ∧ fget? x.rowSlots j = none ∧ ∀ i, i < j → fget? x.rowSlots i ≠ none
   let staged := fun (t : State) (j acc row seg b : Nat) (vs : List Nat) =>
     (∀ i, i < vs.length → t.mem.nat (slot j + b * i) b = vs.getD i 0 % 2 ^ (8 * b)) ∧
     (∀ i, b * vs.length ≤ i → i < 128 → t.mem.get (slot j + i) = 0) ∧
     (∀ i, (i < slot j ∨ slot j + 128 ≤ i) → t.mem.get i = s.mem.get i) ∧
     fget? (t.core c).rowSlots j = some ⟨acc, row, slot j, b * vs.length, m.seq⟩ ∧
     ∃ n, (t.core c).mrun = some n ∧ n.waiting = some (j, row, seg)
   x.mrun = some m →
   (∀ acc ga gb ks r1 c1 l, m.ins = .mmas acc ga gb ks r1 c1 l → m.due = true → m.stage = [] → m.waiting = none →
     Gives .segmentEnd s (fun t => t.mem = s.mem ∧ ((t.core c).accum acc.val).seg = ((x.accum acc.val).seg + 1) % 256 ∧
       (∀ row col, row ≤ r1.val → col ≤ c1.val → ((t.core c).accum acc.val).elem row col = 0) ∧
       ∃ n, (t.core c).mrun = some n ∧ n.due = false ∧ n.stage = (List.range (r1.val + 1)).map (fun row =>
         ((x.accum acc.val).seg, row, (List.range (c1.val + 1)).map (fun col =>
           (finish fp32 rne (unpack acc48 ((x.accum acc.val).elem row col), 0)).1))))) ∧
   (m.faulted = false → m.done = false → m.epiRec ≠ [] → s.mem.wf = true → e.stage + 1024 ≤ 2 ^ 32 →
   (∀ acc ga r1 c1 keep, m.ins = .mdrain acc ga r1 c1 keep → m.started = true → (m.s.ops.getD 0 0).toNat % 32 = 0 → m.waiting = none →
     let fmt := m.s.kfmtC.toNat
     let b := elemBits fmt / 8
     let ea := e.row m.row
     let a := x.accum acc.val
     let scale := fun (base : Word) (i : Nat) => if a.mode = 1 then (if base = 0 then 0x3F800000 else s.mem.nat (base.toNat + 4 * i) 4) else 0
     let v := fun (col : Nat) => (drainElem fmt ⟨m.s.kround.toNat, false,
       if m.s.kround = 4 then srRho m.s.kseq (32 * m.row + col) else 0⟩ (a.elem m.row col) (scale a.sclA m.row) (scale a.sclB col)
       (decide (a.mode = 1))).1
     (m.row ≤ r1.val → drainFmt fmt = true → a.sclA.toNat + 256 ≤ 2 ^ 32 → a.sclB.toNat + 128 ≤ 2 ^ 32 →
       (e.hpc = 0 → ea % b = 0 → ea + b * (c1.val + 1) ≤ 2 ^ 32 →
         Gives .drainRowStage s (fun t => (t.core c).acc = x.acc ∧ (∃ n, (t.core c).mrun = some n ∧ n.row = m.row + 1) ∧
           (∀ col, col ≤ c1.val → t.mem.nat (ea + b * col) b = v col % 2 ^ (8 * b)) ∧
           ∀ i, (i < ea ∨ ea + b * (c1.val + 1) ≤ i) → t.mem.get i = s.mem.get i)) ∧
       (e.hpc ≠ 0 → (∀ j, lowest j → Gives .drainRowStage s (fun t => (t.core c).acc = x.acc ∧
           staged t j acc.val m.row 0 b ((List.range (c1.val + 1)).map v))) ∧
         ((∀ j, j < 8 → fget? x.rowSlots j ≠ none) → exec .drainRowStage s = .next s))) ∧
     (r1.val < m.row → Gives .drainRowStage s (fun t => t.mem = s.mem ∧ (∃ n, (t.core c).mrun = some n ∧ n.done = true) ∧
       ∀ row col, row < 64 → col < 32 → ((t.core c).accum acc.val).elem row col =
         if keep = false ∧ row ≤ r1.val ∧ col ≤ c1.val then 0 else (x.accum acc.val).elem row col))) ∧
   (∀ acc ga gb ks r1 c1 l seg row vs rest, m.ins = .mmas acc ga gb ks r1 c1 l → m.waiting = none → m.stage = (seg, row, vs) :: rest →
     vs.length ≤ 32 →
     (e.hpc = 0 → e.row row + 4 * vs.length ≤ 2 ^ 32 → Gives .drainRowStage s (fun t =>
       (∀ i, i < vs.length → t.mem.nat (e.row row + 4 * i) 4 = vs.getD i 0 % 2 ^ 32) ∧
       (∀ i, (i < e.row row ∨ e.row row + 4 * vs.length ≤ i) → t.mem.get i = s.mem.get i) ∧
       ∃ n, (t.core c).mrun = some n ∧ n.stage = rest)) ∧
     (e.hpc ≠ 0 → (∀ j, lowest j → Gives .drainRowStage s (fun t => staged t j acc.val row seg 4 vs ∧
         ∃ n, (t.core c).mrun = some n ∧ n.stage = rest)) ∧
       ((∀ j, j < 8 → fget? x.rowSlots j ≠ none) → exec .drainRowStage s = .next s))) ∧
   (∀ acc j row seg k, m.waiting = some (j, row, seg) → s.haltingOf m.launch = false → s.freeSlot c = some k →
     ((∃ ga r1 c1 keep, m.ins = .mdrain acc ga r1 c1 keep ∧ m.started = true ∧ (m.s.ops.getD 0 0).toNat % 32 = 0) ∨
       ∃ ga gb ks r1 c1 l, m.ins = .mmas acc ga gb ks r1 c1 l) →
     Gives .drainRowStage s (fun t => t.mem = s.mem ∧ (∃ n, (t.core c).mrun = some n ∧ n.waiting = none) ∧
       let h := t.thr c k
       h.live = true ∧ h.pc = BitVec.ofNat 64 e.hpc ∧ h.launch = m.launch ∧ h.cont = m.cont ∧ h.reg 8 = BitVec.ofNat 64 (slot j) ∧
       h.reg 9 = BitVec.ofNat 64 (e.row row) ∧ h.reg 10 = BitVec.ofNat 64 (row + 2 ^ 16 * seg + 2 ^ 32 * acc.val) ∧
       h.reg 11 = BitVec.ofInt 64 (BitVec.ofNat 32 e.tag).toInt))) ∧
   (m.done = true → x.mrows = [] → (∀ r ∈ x.rowSlots, r.2.cmd ≠ m.seq) → (∀ t ∈ x.threads, t.2.rowCopy ≠ some m.seq) → m.remote = none →
     m.shape = none → m.sr = false → Gives .matrixCommandComplete s (fun t => t.mem = s.mem ∧ (t.core c).mrun = none ∧ (t.core c).acc = x.acc ∧
       ∀ k j th, fget? (s.core k).threads j = some th → th.uid = m.uid → (t.thr k j).kflags = th.kflags ||| m.flags.zeroExtend 64))) ∧
  (∀ (s : State) (m : MCmd) (h : MShape),
   let c := s.ev.q
   let x := s.core c
   let a := x.accum h.acc
   let r := shapeOf (if m.started then m.shapeRec else s.mem.bytes h.ra 32)
   m.shape = some h → m.fetched = [] → m.due = false → m.faulted = false → m.done = false → m.k < h.ks → h.ra % 32 = 0 → r.fmt = m.s.kfmtA.toNat →
   ((x.mrun = some m ∧ m.started = true ∧ m.shapeRec ≠ []) ∨
     (x.mrun = none ∧ (∃ rest, x.mq = m :: rest) ∧ m.started = false ∧ m.shapeRec = [] ∧ m.k = 0 ∧ h.ra + 32 ≤ 2 ^ 32 ∧ mmaCheck x m h r = none)) →
   let n := if h.seg then min (128 - a.pos % 128) (h.ks - m.k) else h.ks - m.k
   let u := fun (k : Nat) => h.pos + (if isBfp r.fmt then k / 32 else k)
   (∀ row k, row < h.rows → m.k ≤ k → k < m.k + n → r.has (u k) row = true → (r.addr2 (u k) row).toNat + unitBytes r.fmt ≤ 2 ^ 32) →
   let unit := fun (row k : Nat) => if r.has (u k) row then s.mem.nat (r.addr2 (u k) row).toNat (unitBytes r.fmt) else 0
   let p := panelOf (panelAt h.wb) (x.wbuf.bytes (panelAt h.wb) 64)
   let A := fun (row k : Nat) => if isBfp r.fmt then bfpElem (bfpM r.fmt) (unit row k) (k % 32) else elemVal r.fmt (unit row k)
   let B := fun (col k : Nat) => blockElem m.s.kfmtB.toNat (p.block x.wbuf (h.wb / 2 ^ 32 % 2 ^ 16 + k / 32) col) (k % 32)
   let whole := m.k + n = h.ks
   Gives .matrixCommandStart s (fun t => t.mem = s.mem ∧ (t.core c).wbuf = x.wbuf ∧
     let b := (t.core c).accum h.acc
     (∀ row col, row < 64 → col < 32 → b.elem row col =
       if row < h.rows ∧ col < h.cols then (cuts a.pos m.k (m.k + n) (n + 1)).foldl (fun v g =>
         (accStep v (dotSum (fun j => A row (g.1 + j)) (fun j => B col (g.1 + j)) g.2)).1) (a.elem row col)
       else a.elem row col) ∧
     (∀ k, k ≠ h.acc → (t.core c).accum k = x.accum k) ∧
     b.pos = (a.pos + n) % 128 ∧ b.kcnt = min (a.kcnt + n) (2 ^ 32 - 1) ∧
     (m.started = true → b.mode = if whole ∧ (h.ks % 32 ≠ 0 ∨ (a.pos + n) % 32 ≠ 0) then 3 else a.mode) ∧
     (m.started = false → b.mode = if whole ∧ (h.ks % 32 ≠ 0 ∨ (a.pos + n) % 32 ≠ 0) then 3
       else if a.mode = 0 then (if h.seg then 2 else 1) else a.mode) ∧
     ∃ q, (t.core c).mrun = some q ∧ q.k = m.k + n ∧ q.started = true ∧ q.fetched = [] ∧
       (q.due = true ↔ h.seg = true ∧ ((a.pos + n) % 128 = 0 ∨ (whole ∧ h.last = true)))))
end

