-- ==== Sys2Proof/Laws/Maps.lean ====
section
/-! SUPPORT. Laws of sparse maps: a read after a write, and what a write leaves alone. -/

namespace Sys2Proof.Machine

/-! ## Sparse maps -/

@[simp] theorem fget_nil {α : Type} (d : α) (k : Nat) : fget d [] k = d := rfl
@[simp] theorem fget_fset_same {α : Type} (d : α) (m : FMap α) (k : Nat) (v : α) : fget d (fset m k v) k = v := by
  induction m with
  | nil => simp [fset, fget]
  | cons p m ih =>
    obtain ⟨j, a⟩ := p
    simp only [fset]
    split
    · simp [fget]
    · split
      · simp [fget]
      · rename_i h _; simp [fget, h, ih]
theorem fget_fset_ne {α : Type} (d : α) (m : FMap α) {k j : Nat} (v : α) (h : j ≠ k) : fget d (fset m k v) j = fget d m j := by
  induction m with
  | nil => simp [fset, fget, Ne.symm h]
  | cons p m ih =>
    obtain ⟨i, a⟩ := p
    simp only [fset]
    split
    · rename_i hi; simp only [beq_iff_eq] at hi; subst hi; simp [fget, Ne.symm h]
    · split
      · simp [fget, Ne.symm h]
      · simp only [fget, ih]
theorem fget_fset {α : Type} (d : α) (m : FMap α) (k j : Nat) (v : α) :
    fget d (fset m k v) j = if j = k then v else fget d m j := by
  split
  · subst j; simp
  · exact fget_fset_ne d m v ‹_›
@[simp] theorem fget?_fset_same {α : Type} (m : FMap α) (k : Nat) (v : α) : fget? (fset m k v) k = some v := by
  induction m with
  | nil => simp [fset, fget?]
  | cons p m ih =>
    obtain ⟨j, a⟩ := p
    simp only [fset]
    split
    · simp [fget?]
    · split
      · simp [fget?]
      · rename_i h _; simp [fget?, h, ih]
theorem fget?_fset_ne {α : Type} (m : FMap α) {k j : Nat} (v : α) (h : j ≠ k) : fget? (fset m k v) j = fget? m j := by
  induction m with
  | nil => simp [fset, fget?, Ne.symm h]
  | cons p m ih =>
    obtain ⟨i, a⟩ := p
    simp only [fset]
    split
    · rename_i hi; simp only [beq_iff_eq] at hi; subst hi; simp [fget?, Ne.symm h]
    · split
      · simp [fget?, Ne.symm h]
      · simp only [fget?, ih]

@[simp] theorem fget_ferase_same {α : Type} (d : α) (m : FMap α) (k : Nat) : fget d (ferase m k) k = d := by
  induction m with
  | nil => rfl
  | cons p m ih =>
    obtain ⟨i, a⟩ := p
    simp only [ferase, List.filter_cons]
    split
    · rename_i h; simp only [bne_iff_ne, ne_eq] at h; simp only [fget, beq_iff_eq, h, if_false]; exact ih
    · exact ih
theorem fget_ferase_ne {α : Type} (d : α) (m : FMap α) {k j : Nat} (h : j ≠ k) : fget d (ferase m k) j = fget d m j := by
  induction m with
  | nil => rfl
  | cons p m ih =>
    obtain ⟨i, a⟩ := p
    simp only [ferase, List.filter_cons]
    split
    · simp only [fget]; split
      · rfl
      · exact ih
    · rename_i hi; simp only [bne_iff_ne, ne_eq, Decidable.not_not] at hi; subst hi
      simp only [fget, beq_iff_eq, Ne.symm h, if_false]; exact ih

end Sys2Proof.Machine
end

