-- ==== Sys2Proof/Laws/Memory.lean ====
section
/-! SUPPORT. Laws of memory (R1, R220): every operation keeps the canonical form, a read after a write gives what was written,
and a write leaves every other byte alone. -/

namespace Sys2Proof.Machine

/-! ## The canonical form -/

theorem Memory.wf_cons (a : Nat) (v : Byte) (m : Memory) :
    Memory.wf ((a, v) :: m) = true ↔ v ≠ 0 ∧ (∀ c ∈ m, a < c.1) ∧ m.wf = true := by
  simp [Memory.wf, and_assoc]
/-- Nothing is listed at an address below every listed one. -/
theorem Memory.get_below (m : Memory) (a : Nat) (h : ∀ c ∈ m, a < c.1) : m.get a = 0 := by
  induction m with
  | nil => rfl
  | cons c m ih =>
    obtain ⟨b, w⟩ := c
    have hb : a < b := h (b, w) (by simp)
    have hne : (b == a) = false := by simp; omega
    simpa [Memory.get, hne] using ih (fun c hc => h c (by simp [hc]))
/-- The addresses listed after a write: those before and the one written. -/
theorem Memory.mem_set (m : Memory) (a : Nat) (v : Byte) : ∀ c ∈ m.set a v, c.1 = a ∨ c ∈ m := by
  induction m with
  | nil => intro c hc; by_cases hv : v = 0#8 <;> simp [Memory.set, hv] at hc; simp [hc]
  | cons d m ih =>
    obtain ⟨b, w⟩ := d
    intro c hc
    simp only [Memory.set] at hc
    split at hc
    · split at hc <;> simp at hc ⊢ <;> grind
    · split at hc
      · split at hc <;> simp at hc ⊢ <;> grind
      · simp at hc ⊢
        rcases hc with h | h
        · exact .inr (.inl h)
        · rcases ih c h with h | h <;> simp [h]
/-- A write keeps the canonical form. -/
theorem Memory.set_wf (m : Memory) (a : Nat) (v : Byte) (h : m.wf = true) : (m.set a v).wf = true := by
  induction m with
  | nil => by_cases hv : v = 0#8 <;> simp [Memory.set, Memory.wf, hv]
  | cons c m ih =>
    obtain ⟨b, w⟩ := c
    obtain ⟨hw, hlt, hm⟩ := (wf_cons b w m).1 h
    simp only [Memory.set, beq_iff_eq]
    split
    · rename_i hba
      subst hba
      by_cases hv : v = 0#8
      · simpa [hv] using hm
      · simpa [hv] using (wf_cons b v m).2 ⟨hv, hlt, hm⟩
    · split
      · rename_i hab
        by_cases hv : v = 0#8
        · simpa [hv] using h
        · rw [if_neg (by simpa using hv)]
          exact (wf_cons a v _).2 ⟨hv, fun c hc => by
            rcases List.mem_cons.1 hc with rfl | hc
            · exact hab
            · exact Nat.lt_trans hab (hlt c hc), h⟩
      · rename_i hne hab
        exact (wf_cons b w _).2 ⟨hw, fun c hc => by
          rcases mem_set m a v c hc with h | h
          · omega
          · exact hlt c h, ih hm⟩
/-- A byte after a write of one byte. -/
theorem Memory.get_set (m : Memory) (a b : Nat) (v : Byte) (h : m.wf = true) :
    (m.set a v).get b = if b = a then v else m.get b := by
  induction m with
  | nil =>
    by_cases hv : v = 0#8 <;> by_cases hb : b = a <;> simp [Memory.set, Memory.get, hv, hb]
    intro h; exact absurd h.symm hb
  | cons c m ih =>
    obtain ⟨x, w⟩ := c
    obtain ⟨hw, hlt, hm⟩ := (wf_cons x w m).1 h
    simp only [Memory.set, beq_iff_eq]
    split
    · rename_i hxa
      subst hxa
      by_cases hv : v = 0#8
      · by_cases hb : b = x
        · subst hb; simpa [hv] using get_below m b hlt
        · simp [hv, hb, Memory.get, Ne.symm hb]
      · by_cases hb : b = x
        · simp [hv, hb, Memory.get]
        · simp [hv, hb, Memory.get, Ne.symm hb]
    · rename_i hxa
      split
      · rename_i hax
        by_cases hv : v = 0#8
        · by_cases hb : b = a
          · subst hb
            simpa [hv] using get_below ((x, w) :: m) b (fun c hc => by
              rcases List.mem_cons.1 hc with rfl | hc
              · exact hax
              · exact Nat.lt_trans hax (hlt c hc))
          · simp [hv, hb]
        · by_cases hb : b = a
          · simp [hv, hb, Memory.get]
          · simp [hv, hb, Memory.get, Ne.symm hb]
      · by_cases hbx : b = x
        · subst hbx; simp [Memory.get, hxa]
        · have := ih hm
          simp [Memory.get, Ne.symm hbx, this]

/-! ## Runs of bytes -/

theorem Memory.setBytes_wf (m : Memory) (a : Nat) (l : List Byte) (h : m.wf = true) : (m.setBytes a l).wf = true := by
  induction l generalizing m a with
  | nil => exact h
  | cons b l ih => exact ih _ _ (set_wf m a b h)
/-- The addresses listed after a write of a run: those before and those written. -/
theorem Memory.mem_setBytes (m : Memory) (a : Nat) (l : List Byte) :
    ∀ c ∈ m.setBytes a l, (a ≤ c.1 ∧ c.1 < a + l.length) ∨ c ∈ m := by
  induction l generalizing m a with
  | nil => intro c hc; exact .inr hc
  | cons b l ih =>
    intro c hc
    rcases ih _ _ c hc with h | h
    · left; simp; omega
    · rcases mem_set m a b c h with h | h
      · left; simp; omega
      · exact .inr h
/-- A byte after a write of a run: inside, the run's byte; outside, as before. -/
theorem Memory.get_setBytes (m : Memory) (a b : Nat) (l : List Byte) (h : m.wf = true) :
    (m.setBytes a l).get b = if a ≤ b ∧ b < a + l.length then l.getD (b - a) 0 else m.get b := by
  induction l generalizing m a with
  | nil => rw [if_neg (by simp only [List.length_nil]; omega)]; rfl
  | cons x l ih =>
    rw [Memory.setBytes, ih _ _ (set_wf m a x h), get_set m a b x h]
    by_cases hb : b = a
    · rw [if_neg (by omega), if_pos hb, if_pos (by simp only [List.length_cons]; omega), hb, Nat.sub_self]; rfl
    · by_cases hin : a + 1 ≤ b ∧ b < a + 1 + l.length
      · have h2 : a ≤ b ∧ b < a + (x :: l).length := by simp; omega
        rw [if_pos hin, if_pos h2]
        have : b - a = (b - (a + 1)) + 1 := by omega
        rw [this]; simp
      · have h2 : ¬ (a ≤ b ∧ b < a + (x :: l).length) := by simp; omega
        rw [if_neg hin, if_neg h2, if_neg hb]
/-- A run of bytes read outside a run that was written is as before. -/
theorem Memory.bytes_setBytes_of_disjoint (m : Memory) (a b n : Nat) (l : List Byte) (h : m.wf = true)
    (hd : b + n ≤ a ∨ a + l.length ≤ b) : (m.setBytes a l).bytes b n = m.bytes b n := by
  apply List.map_congr_left
  intro i hi
  have := List.mem_range.1 hi
  rw [get_setBytes m a (b + i) l h, if_neg (by omega)]
/-- A run of bytes read where it was written. -/
theorem Memory.bytes_setBytes_same (m : Memory) (a : Nat) (l : List Byte) (h : m.wf = true) : (m.setBytes a l).bytes a l.length = l := by
  apply List.ext_getElem
  · simp [Memory.bytes]
  · intro i h1 h2
    simp only [Memory.bytes, List.getElem_map, List.getElem_range]
    rw [get_setBytes m a (a + i) l h, if_pos (by omega)]
    simp [List.getD, h2]

/-! ## Words -/

@[simp] theorem length_leBytes (n v : Nat) : (leBytes n v).length = n := by simp [leBytes]
theorem Memory.setNat_wf (m : Memory) (a n v : Nat) (h : m.wf = true) : (m.setNat a n v).wf = true := setBytes_wf m a _ h
theorem Memory.get_setNat (m : Memory) (a b n v : Nat) (h : m.wf = true) :
    (m.setNat a n v).get b = if a ≤ b ∧ b < a + n then (leBytes n v).getD (b - a) 0 else m.get b := by
  simpa [Memory.setNat] using get_setBytes m a b (leBytes n v) h
theorem Memory.bytes_setNat_of_disjoint (m : Memory) (a b k n v : Nat) (h : m.wf = true) (hd : b + k ≤ a ∨ a + n ≤ b) :
    (m.setNat a n v).bytes b k = m.bytes b k := bytes_setBytes_of_disjoint m a b k _ h (by simpa using hd)
theorem Memory.nat_setNat_of_disjoint (m : Memory) (a b k n v : Nat) (h : m.wf = true) (hd : b + k ≤ a ∨ a + n ≤ b) :
    (m.setNat a n v).nat b k = m.nat b k := by
  rw [Memory.nat, bytes_setNat_of_disjoint m a b k n v h hd, Memory.nat]
theorem Memory.bytes_setNat_same (m : Memory) (a n v : Nat) (h : m.wf = true) : (m.setNat a n v).bytes a n = leBytes n v := by
  simpa [Memory.setNat] using bytes_setBytes_same m a (leBytes n v) h
theorem leBytes_succ (n v : Nat) : leBytes (n + 1) v = BitVec.ofNat 8 v :: leBytes n (v / 256) := by
  simp only [leBytes, List.range_succ_eq_map, List.map_cons, List.map_map]
  congr 1
  · simp
  · apply List.map_congr_left
    intro i _
    have : 2 ^ (8 * (i + 1)) = 256 * 2 ^ (8 * i) := by rw [Nat.mul_succ, Nat.pow_add, Nat.mul_comm]
    simp [Function.comp, this, Nat.div_div_eq_div_mul]
/-- The low bytes of a number, read back. -/
theorem leNat_leBytes (n v : Nat) : leNat (leBytes n v) = v % 2 ^ (8 * n) := by
  induction n generalizing v with
  | zero => simp [leBytes, leNat, Nat.mod_one]
  | succ n ih =>
    rw [leBytes_succ, leNat, ih, Nat.mul_succ, Nat.add_comm (8 * n) 8, Nat.pow_add, Nat.mod_mul]
    simp
/-- A word read where it was written. -/
theorem Memory.nat_setNat_same (m : Memory) (a n v : Nat) (h : m.wf = true) : (m.setNat a n v).nat a n = v % 2 ^ (8 * n) := by
  rw [Memory.nat, bytes_setNat_same m a n v h, leNat_leBytes]
theorem leNat_lt (l : List Byte) : leNat l < 2 ^ (8 * l.length) := by
  induction l with
  | nil => simp [leNat]
  | cons b l ih =>
    have hb : b.toNat < 256 := b.isLt
    have hp : 2 ^ (8 * (b :: l).length) = 256 * 2 ^ (8 * l.length) := by
      rw [List.length_cons, Nat.mul_succ, Nat.add_comm, Nat.pow_add]
    rw [leNat, hp]
    omega
/-- A word read from memory fits its bytes. -/
theorem Memory.nat_lt (m : Memory) (a n : Nat) : m.nat a n < 2 ^ (8 * n) := by
  simpa [Memory.nat, Memory.bytes] using leNat_lt (m.bytes a n)

/-! ## What a write leaves alone, whatever the memory's form -/

/-- A write leaves every other byte alone, in any memory. -/
theorem Memory.get_set_ne (m : Memory) (a b : Nat) (v : Byte) (h : b ≠ a) : (Memory.set m a v).get b = Memory.get m b := by
  induction m with
  | nil =>
    simp only [Memory.set]; split <;> simp [Memory.get, Ne.symm h]
  | cons p m ih =>
    obtain ⟨c, w⟩ := p
    simp only [Memory.set]
    split
    · rename_i hc; simp only [beq_iff_eq] at hc; subst hc
      split <;> simp [Memory.get, Ne.symm h]
    · split
      · split <;> simp [Memory.get, Ne.symm h]
      · simp only [Memory.get, ih]
/-- So does a write of a run. -/
theorem Memory.get_setBytes_out (l : List Byte) (m : Memory) (a b : Nat) (h : b < a ∨ a + l.length ≤ b) :
    (m.setBytes a l).get b = Memory.get m b := by
  induction l generalizing m a with
  | nil => rfl
  | cons x l ih =>
    simp only [List.length_cons] at h
    simp only [Memory.setBytes]
    rw [ih (Memory.set m a x) (a + 1) (by omega), Memory.get_set_ne m a b x (by omega)]
/-- And a write of a word. -/
theorem Memory.get_setNat_out (m : Memory) (a n v b : Nat) (h : b < a ∨ a + n ≤ b) : (m.setNat a n v).get b = Memory.get m b :=
  Memory.get_setBytes_out _ m a b (by simpa [leBytes] using h)
/-- A run read outside the one written. -/
theorem Memory.bytes_setBytes_out (l : List Byte) (m : Memory) (a b n : Nat) (h : b + n ≤ a ∨ a + l.length ≤ b) :
    (m.setBytes a l).bytes b n = m.bytes b n := by
  simp only [Memory.bytes]
  apply List.map_congr_left
  intro i hi
  have := List.mem_range.mp hi
  exact Memory.get_setBytes_out l m a (b + i) (by omega)

/-! ## Ranges -/

theorem Memory.filter_wf (m : Memory) (p : Host.Cell → Bool) (h : m.wf = true) : Memory.wf (m.filter p) = true := by
  induction m with
  | nil => rfl
  | cons c m ih =>
    obtain ⟨a, v⟩ := c
    obtain ⟨hv, hlt, hm⟩ := (wf_cons a v m).1 h
    simp only [List.filter_cons]
    split
    · exact (wf_cons a v _).2 ⟨hv, fun c hc => hlt c (List.mem_filter.1 hc).1, ih hm⟩
    · exact ih hm
theorem Memory.range_wf (m : Memory) (a n : Nat) (h : m.wf = true) : (m.range a n).wf = true := filter_wf m _ h
theorem Memory.clear_wf (m : Memory) (a n : Nat) (h : m.wf = true) : (m.clear a n).wf = true := filter_wf m _ h
theorem Memory.foldl_set_wf (l : List Host.Cell) (f : Host.Cell → Nat) (m : Memory) (h : m.wf = true) :
    Memory.wf (l.foldl (fun acc c => acc.set (f c) c.2) m) = true := by
  induction l generalizing m with
  | nil => exact h
  | cons c l ih => exact ih _ (set_wf m _ _ h)
/-- A copy of a range keeps the canonical form. -/
theorem Memory.copy_wf (m : Memory) (dst src n : Nat) (h : m.wf = true) : (m.copy dst src n).wf = true :=
  foldl_set_wf _ (fun c => dst + (c.1 - src)) _ (clear_wf m dst n h)
/-- A byte of a memory of which some cells are kept. -/
theorem Memory.get_filter (m : Memory) (p : Nat → Bool) (b : Nat) (h : m.wf = true) :
    Memory.get (m.filter (fun c => p c.1)) b = if p b then m.get b else 0 := by
  induction m with
  | nil => simp [Memory.get]
  | cons c m ih =>
    obtain ⟨a, v⟩ := c
    obtain ⟨hv, hlt, hm⟩ := (wf_cons a v m).1 h
    have hb := ih hm
    by_cases hab : a = b
    · subst hab
      by_cases hp : p a
      · simp [hp, Memory.get]
      · rw [if_neg hp] at hb ⊢
        simpa [hp] using hb
    · by_cases hp : p a
      · simp [hp, Memory.get, hab, hb]
      · simp [hp, Memory.get, hab, hb]
/-- A byte after a range was cleared. -/
theorem Memory.get_clear (m : Memory) (a n b : Nat) (h : m.wf = true) :
    (m.clear a n).get b = if a ≤ b ∧ b < a + n then 0 else m.get b := by
  have := get_filter m (fun x => !(decide (a ≤ x) && decide (x < a + n))) b h
  rw [Memory.clear, this]
  by_cases hb : a ≤ b ∧ b < a + n <;> simp [hb]

/-! ## The machine right after reset -/

/-- Reset memory lists nothing, so it is canonical. -/
theorem State.reset_mem_wf : State.reset.mem.wf = true := rfl

end Sys2Proof.Machine
end

