-- ==== Sys2Proof/Laws/State.lean ====
section
/-! SUPPORT. The fields of State, Core and Thread under each update: one lemma per field and update, so that no proof unfolds a
record update; and what an update does to the part it changes. -/

namespace Sys2Proof.Machine

/-! ## setCore -/

@[simp] theorem State.setCore_cycle (s : State) (c : Nat) (x : Core) : (s.setCore c x).cycle = s.cycle := rfl
@[simp] theorem State.setCore_clusters (s : State) (c : Nat) (x : Core) : (s.setCore c x).clusters = s.clusters := rfl
@[simp] theorem State.setCore_hubs (s : State) (c : Nat) (x : Core) : (s.setCore c x).hubs = s.hubs := rfl
@[simp] theorem State.setCore_dies (s : State) (c : Nat) (x : Core) : (s.setCore c x).dies = s.dies := rfl
@[simp] theorem State.setCore_dir (s : State) (c : Nat) (x : Core) : (s.setCore c x).dir = s.dir := rfl
@[simp] theorem State.setCore_mem (s : State) (c : Nat) (x : Core) : (s.setCore c x).mem = s.mem := rfl
@[simp] theorem State.setCore_ver (s : State) (c : Nat) (x : Core) : (s.setCore c x).ver = s.ver := rfl
@[simp] theorem State.setCore_stalls (s : State) (c : Nat) (x : Core) : (s.setCore c x).stalls = s.stalls := rfl
@[simp] theorem State.setCore_acks (s : State) (c : Nat) (x : Core) : (s.setCore c x).acks = s.acks := rfl
@[simp] theorem State.setCore_hidden (s : State) (c : Nat) (x : Core) : (s.setCore c x).hidden = s.hidden := rfl
@[simp] theorem State.setCore_fifos (s : State) (c : Nat) (x : Core) : (s.setCore c x).fifos = s.fifos := rfl
@[simp] theorem State.setCore_conts (s : State) (c : Nat) (x : Core) : (s.setCore c x).conts = s.conts := rfl
@[simp] theorem State.setCore_halts (s : State) (c : Nat) (x : Core) : (s.setCore c x).halts = s.halts := rfl
@[simp] theorem State.setCore_ckHalts (s : State) (c : Nat) (x : Core) : (s.setCore c x).ckHalts = s.ckHalts := rfl
@[simp] theorem State.setCore_svcmap (s : State) (c : Nat) (x : Core) : (s.setCore c x).svcmap = s.svcmap := rfl
@[simp] theorem State.setCore_mwCst (s : State) (c : Nat) (x : Core) : (s.setCore c x).mwCst = s.mwCst := rfl
@[simp] theorem State.setCore_mwCmd (s : State) (c : Nat) (x : Core) : (s.setCore c x).mwCmd = s.mwCmd := rfl
@[simp] theorem State.setCore_mwFltoff (s : State) (c : Nat) (x : Core) : (s.setCore c x).mwFltoff = s.mwFltoff := rfl
@[simp] theorem State.setCore_mwFab (s : State) (c : Nat) (x : Core) : (s.setCore c x).mwFab = s.mwFab := rfl
@[simp] theorem State.setCore_mwPol (s : State) (c : Nat) (x : Core) : (s.setCore c x).mwPol = s.mwPol := rfl
@[simp] theorem State.setCore_mwOvf (s : State) (c : Nat) (x : Core) : (s.setCore c x).mwOvf = s.mwOvf := rfl
@[simp] theorem State.setCore_mwSw (s : State) (c : Nat) (x : Core) : (s.setCore c x).mwSw = s.mwSw := rfl
@[simp] theorem State.setCore_mwCxl (s : State) (c : Nat) (x : Core) : (s.setCore c x).mwCxl = s.mwCxl := rfl
@[simp] theorem State.setCore_net (s : State) (c : Nat) (x : Core) : (s.setCore c x).net = s.net := rfl
@[simp] theorem State.setCore_fabric (s : State) (c : Nat) (x : Core) : (s.setCore c x).fabric = s.fabric := rfl
@[simp] theorem State.setCore_pushes (s : State) (c : Nat) (x : Core) : (s.setCore c x).pushes = s.pushes := rfl
@[simp] theorem State.setCore_linksDown (s : State) (c : Nat) (x : Core) : (s.setCore c x).linksDown = s.linksDown := rfl
@[simp] theorem State.setCore_flts (s : State) (c : Nat) (x : Core) : (s.setCore c x).flts = s.flts := rfl
@[simp] theorem State.setCore_fills (s : State) (c : Nat) (x : Core) : (s.setCore c x).fills = s.fills := rfl
@[simp] theorem State.setCore_peerCopies (s : State) (c : Nat) (x : Core) : (s.setCore c x).peerCopies = s.peerCopies := rfl
@[simp] theorem State.setCore_peerInval (s : State) (c : Nat) (x : Core) : (s.setCore c x).peerInval = s.peerInval := rfl
@[simp] theorem State.setCore_peerHeld (s : State) (c : Nat) (x : Core) : (s.setCore c x).peerHeld = s.peerHeld := rfl
@[simp] theorem State.setCore_life (s : State) (c : Nat) (x : Core) : (s.setCore c x).life = s.life := rfl
@[simp] theorem State.setCore_lifeLog (s : State) (c : Nat) (x : Core) : (s.setCore c x).lifeLog = s.lifeLog := rfl
@[simp] theorem State.setCore_powerOn (s : State) (c : Nat) (x : Core) : (s.setCore c x).powerOn = s.powerOn := rfl
@[simp] theorem State.setCore_on (s : State) (c : Nat) (x : Core) : (s.setCore c x).on = s.on := rfl
@[simp] theorem State.setCore_boot (s : State) (c : Nat) (x : Core) : (s.setCore c x).boot = s.boot := rfl
@[simp] theorem State.setCore_inputs (s : State) (c : Nat) (x : Core) : (s.setCore c x).inputs = s.inputs := rfl
@[simp] theorem State.setCore_sched (s : State) (c : Nat) (x : Core) : (s.setCore c x).sched = s.sched := rfl
@[simp] theorem State.setCore_ev (s : State) (c : Nat) (x : Core) : (s.setCore c x).ev = s.ev := rfl
@[simp] theorem State.setCore_free (s : State) (c : Nat) (x : Core) : (s.setCore c x).free = s.free := rfl
@[simp] theorem State.setCore_cur (s : State) (c : Nat) (x : Core) : (s.setCore c x).cur = s.cur := rfl
@[simp] theorem State.setCore_defers (s : State) (c : Nat) (x : Core) : (s.setCore c x).defers = s.defers := rfl
@[simp] theorem State.setCore_nextUid (s : State) (c : Nat) (x : Core) : (s.setCore c x).nextUid = s.nextUid := rfl
@[simp] theorem State.setCore_rr (s : State) (c : Nat) (x : Core) : (s.setCore c x).rr = s.rr := rfl

/-! ## setThr -/

@[simp] theorem State.setThr_cycle (s : State) (c t : Nat) (y : Thread) : (s.setThr c t y).cycle = s.cycle := rfl
@[simp] theorem State.setThr_clusters (s : State) (c t : Nat) (y : Thread) : (s.setThr c t y).clusters = s.clusters := rfl
@[simp] theorem State.setThr_hubs (s : State) (c t : Nat) (y : Thread) : (s.setThr c t y).hubs = s.hubs := rfl
@[simp] theorem State.setThr_dies (s : State) (c t : Nat) (y : Thread) : (s.setThr c t y).dies = s.dies := rfl
@[simp] theorem State.setThr_dir (s : State) (c t : Nat) (y : Thread) : (s.setThr c t y).dir = s.dir := rfl
@[simp] theorem State.setThr_mem (s : State) (c t : Nat) (y : Thread) : (s.setThr c t y).mem = s.mem := rfl
@[simp] theorem State.setThr_ver (s : State) (c t : Nat) (y : Thread) : (s.setThr c t y).ver = s.ver := rfl
@[simp] theorem State.setThr_stalls (s : State) (c t : Nat) (y : Thread) : (s.setThr c t y).stalls = s.stalls := rfl
@[simp] theorem State.setThr_acks (s : State) (c t : Nat) (y : Thread) : (s.setThr c t y).acks = s.acks := rfl
@[simp] theorem State.setThr_hidden (s : State) (c t : Nat) (y : Thread) : (s.setThr c t y).hidden = s.hidden := rfl
@[simp] theorem State.setThr_fifos (s : State) (c t : Nat) (y : Thread) : (s.setThr c t y).fifos = s.fifos := rfl
@[simp] theorem State.setThr_conts (s : State) (c t : Nat) (y : Thread) : (s.setThr c t y).conts = s.conts := rfl
@[simp] theorem State.setThr_halts (s : State) (c t : Nat) (y : Thread) : (s.setThr c t y).halts = s.halts := rfl
@[simp] theorem State.setThr_ckHalts (s : State) (c t : Nat) (y : Thread) : (s.setThr c t y).ckHalts = s.ckHalts := rfl
@[simp] theorem State.setThr_svcmap (s : State) (c t : Nat) (y : Thread) : (s.setThr c t y).svcmap = s.svcmap := rfl
@[simp] theorem State.setThr_mwCst (s : State) (c t : Nat) (y : Thread) : (s.setThr c t y).mwCst = s.mwCst := rfl
@[simp] theorem State.setThr_mwCmd (s : State) (c t : Nat) (y : Thread) : (s.setThr c t y).mwCmd = s.mwCmd := rfl
@[simp] theorem State.setThr_mwFltoff (s : State) (c t : Nat) (y : Thread) : (s.setThr c t y).mwFltoff = s.mwFltoff := rfl
@[simp] theorem State.setThr_mwFab (s : State) (c t : Nat) (y : Thread) : (s.setThr c t y).mwFab = s.mwFab := rfl
@[simp] theorem State.setThr_mwPol (s : State) (c t : Nat) (y : Thread) : (s.setThr c t y).mwPol = s.mwPol := rfl
@[simp] theorem State.setThr_mwOvf (s : State) (c t : Nat) (y : Thread) : (s.setThr c t y).mwOvf = s.mwOvf := rfl
@[simp] theorem State.setThr_mwSw (s : State) (c t : Nat) (y : Thread) : (s.setThr c t y).mwSw = s.mwSw := rfl
@[simp] theorem State.setThr_mwCxl (s : State) (c t : Nat) (y : Thread) : (s.setThr c t y).mwCxl = s.mwCxl := rfl
@[simp] theorem State.setThr_net (s : State) (c t : Nat) (y : Thread) : (s.setThr c t y).net = s.net := rfl
@[simp] theorem State.setThr_fabric (s : State) (c t : Nat) (y : Thread) : (s.setThr c t y).fabric = s.fabric := rfl
@[simp] theorem State.setThr_pushes (s : State) (c t : Nat) (y : Thread) : (s.setThr c t y).pushes = s.pushes := rfl
@[simp] theorem State.setThr_linksDown (s : State) (c t : Nat) (y : Thread) : (s.setThr c t y).linksDown = s.linksDown := rfl
@[simp] theorem State.setThr_flts (s : State) (c t : Nat) (y : Thread) : (s.setThr c t y).flts = s.flts := rfl
@[simp] theorem State.setThr_fills (s : State) (c t : Nat) (y : Thread) : (s.setThr c t y).fills = s.fills := rfl
@[simp] theorem State.setThr_peerCopies (s : State) (c t : Nat) (y : Thread) : (s.setThr c t y).peerCopies = s.peerCopies := rfl
@[simp] theorem State.setThr_peerInval (s : State) (c t : Nat) (y : Thread) : (s.setThr c t y).peerInval = s.peerInval := rfl
@[simp] theorem State.setThr_peerHeld (s : State) (c t : Nat) (y : Thread) : (s.setThr c t y).peerHeld = s.peerHeld := rfl
@[simp] theorem State.setThr_life (s : State) (c t : Nat) (y : Thread) : (s.setThr c t y).life = s.life := rfl
@[simp] theorem State.setThr_lifeLog (s : State) (c t : Nat) (y : Thread) : (s.setThr c t y).lifeLog = s.lifeLog := rfl
@[simp] theorem State.setThr_powerOn (s : State) (c t : Nat) (y : Thread) : (s.setThr c t y).powerOn = s.powerOn := rfl
@[simp] theorem State.setThr_on (s : State) (c t : Nat) (y : Thread) : (s.setThr c t y).on = s.on := rfl
@[simp] theorem State.setThr_boot (s : State) (c t : Nat) (y : Thread) : (s.setThr c t y).boot = s.boot := rfl
@[simp] theorem State.setThr_inputs (s : State) (c t : Nat) (y : Thread) : (s.setThr c t y).inputs = s.inputs := rfl
@[simp] theorem State.setThr_sched (s : State) (c t : Nat) (y : Thread) : (s.setThr c t y).sched = s.sched := rfl
@[simp] theorem State.setThr_ev (s : State) (c t : Nat) (y : Thread) : (s.setThr c t y).ev = s.ev := rfl
@[simp] theorem State.setThr_free (s : State) (c t : Nat) (y : Thread) : (s.setThr c t y).free = s.free := rfl
@[simp] theorem State.setThr_cur (s : State) (c t : Nat) (y : Thread) : (s.setThr c t y).cur = s.cur := rfl
@[simp] theorem State.setThr_defers (s : State) (c t : Nat) (y : Thread) : (s.setThr c t y).defers = s.defers := rfl
@[simp] theorem State.setThr_nextUid (s : State) (c t : Nat) (y : Thread) : (s.setThr c t y).nextUid = s.nextUid := rfl
@[simp] theorem State.setThr_rr (s : State) (c t : Nat) (y : Thread) : (s.setThr c t y).rr = s.rr := rfl

/-! ## modHere -/

@[simp] theorem State.modHere_cycle (s : State) (f : Core → Core) : (s.modHere f).cycle = s.cycle := rfl
@[simp] theorem State.modHere_clusters (s : State) (f : Core → Core) : (s.modHere f).clusters = s.clusters := rfl
@[simp] theorem State.modHere_hubs (s : State) (f : Core → Core) : (s.modHere f).hubs = s.hubs := rfl
@[simp] theorem State.modHere_dies (s : State) (f : Core → Core) : (s.modHere f).dies = s.dies := rfl
@[simp] theorem State.modHere_dir (s : State) (f : Core → Core) : (s.modHere f).dir = s.dir := rfl
@[simp] theorem State.modHere_mem (s : State) (f : Core → Core) : (s.modHere f).mem = s.mem := rfl
@[simp] theorem State.modHere_ver (s : State) (f : Core → Core) : (s.modHere f).ver = s.ver := rfl
@[simp] theorem State.modHere_stalls (s : State) (f : Core → Core) : (s.modHere f).stalls = s.stalls := rfl
@[simp] theorem State.modHere_acks (s : State) (f : Core → Core) : (s.modHere f).acks = s.acks := rfl
@[simp] theorem State.modHere_hidden (s : State) (f : Core → Core) : (s.modHere f).hidden = s.hidden := rfl
@[simp] theorem State.modHere_fifos (s : State) (f : Core → Core) : (s.modHere f).fifos = s.fifos := rfl
@[simp] theorem State.modHere_conts (s : State) (f : Core → Core) : (s.modHere f).conts = s.conts := rfl
@[simp] theorem State.modHere_halts (s : State) (f : Core → Core) : (s.modHere f).halts = s.halts := rfl
@[simp] theorem State.modHere_ckHalts (s : State) (f : Core → Core) : (s.modHere f).ckHalts = s.ckHalts := rfl
@[simp] theorem State.modHere_svcmap (s : State) (f : Core → Core) : (s.modHere f).svcmap = s.svcmap := rfl
@[simp] theorem State.modHere_mwCst (s : State) (f : Core → Core) : (s.modHere f).mwCst = s.mwCst := rfl
@[simp] theorem State.modHere_mwCmd (s : State) (f : Core → Core) : (s.modHere f).mwCmd = s.mwCmd := rfl
@[simp] theorem State.modHere_mwFltoff (s : State) (f : Core → Core) : (s.modHere f).mwFltoff = s.mwFltoff := rfl
@[simp] theorem State.modHere_mwFab (s : State) (f : Core → Core) : (s.modHere f).mwFab = s.mwFab := rfl
@[simp] theorem State.modHere_mwPol (s : State) (f : Core → Core) : (s.modHere f).mwPol = s.mwPol := rfl
@[simp] theorem State.modHere_mwOvf (s : State) (f : Core → Core) : (s.modHere f).mwOvf = s.mwOvf := rfl
@[simp] theorem State.modHere_mwSw (s : State) (f : Core → Core) : (s.modHere f).mwSw = s.mwSw := rfl
@[simp] theorem State.modHere_mwCxl (s : State) (f : Core → Core) : (s.modHere f).mwCxl = s.mwCxl := rfl
@[simp] theorem State.modHere_net (s : State) (f : Core → Core) : (s.modHere f).net = s.net := rfl
@[simp] theorem State.modHere_fabric (s : State) (f : Core → Core) : (s.modHere f).fabric = s.fabric := rfl
@[simp] theorem State.modHere_pushes (s : State) (f : Core → Core) : (s.modHere f).pushes = s.pushes := rfl
@[simp] theorem State.modHere_linksDown (s : State) (f : Core → Core) : (s.modHere f).linksDown = s.linksDown := rfl
@[simp] theorem State.modHere_flts (s : State) (f : Core → Core) : (s.modHere f).flts = s.flts := rfl
@[simp] theorem State.modHere_fills (s : State) (f : Core → Core) : (s.modHere f).fills = s.fills := rfl
@[simp] theorem State.modHere_peerCopies (s : State) (f : Core → Core) : (s.modHere f).peerCopies = s.peerCopies := rfl
@[simp] theorem State.modHere_peerInval (s : State) (f : Core → Core) : (s.modHere f).peerInval = s.peerInval := rfl
@[simp] theorem State.modHere_peerHeld (s : State) (f : Core → Core) : (s.modHere f).peerHeld = s.peerHeld := rfl
@[simp] theorem State.modHere_life (s : State) (f : Core → Core) : (s.modHere f).life = s.life := rfl
@[simp] theorem State.modHere_lifeLog (s : State) (f : Core → Core) : (s.modHere f).lifeLog = s.lifeLog := rfl
@[simp] theorem State.modHere_powerOn (s : State) (f : Core → Core) : (s.modHere f).powerOn = s.powerOn := rfl
@[simp] theorem State.modHere_on (s : State) (f : Core → Core) : (s.modHere f).on = s.on := rfl
@[simp] theorem State.modHere_boot (s : State) (f : Core → Core) : (s.modHere f).boot = s.boot := rfl
@[simp] theorem State.modHere_inputs (s : State) (f : Core → Core) : (s.modHere f).inputs = s.inputs := rfl
@[simp] theorem State.modHere_sched (s : State) (f : Core → Core) : (s.modHere f).sched = s.sched := rfl
@[simp] theorem State.modHere_ev (s : State) (f : Core → Core) : (s.modHere f).ev = s.ev := rfl
@[simp] theorem State.modHere_free (s : State) (f : Core → Core) : (s.modHere f).free = s.free := rfl
@[simp] theorem State.modHere_cur (s : State) (f : Core → Core) : (s.modHere f).cur = s.cur := rfl
@[simp] theorem State.modHere_defers (s : State) (f : Core → Core) : (s.modHere f).defers = s.defers := rfl
@[simp] theorem State.modHere_nextUid (s : State) (f : Core → Core) : (s.modHere f).nextUid = s.nextUid := rfl
@[simp] theorem State.modHere_rr (s : State) (f : Core → Core) : (s.modHere f).rr = s.rr := rfl

/-! ## modMe -/

@[simp] theorem State.modMe_cycle (s : State) (f : Thread → Thread) : (s.modMe f).cycle = s.cycle := rfl
@[simp] theorem State.modMe_clusters (s : State) (f : Thread → Thread) : (s.modMe f).clusters = s.clusters := rfl
@[simp] theorem State.modMe_hubs (s : State) (f : Thread → Thread) : (s.modMe f).hubs = s.hubs := rfl
@[simp] theorem State.modMe_dies (s : State) (f : Thread → Thread) : (s.modMe f).dies = s.dies := rfl
@[simp] theorem State.modMe_dir (s : State) (f : Thread → Thread) : (s.modMe f).dir = s.dir := rfl
@[simp] theorem State.modMe_mem (s : State) (f : Thread → Thread) : (s.modMe f).mem = s.mem := rfl
@[simp] theorem State.modMe_ver (s : State) (f : Thread → Thread) : (s.modMe f).ver = s.ver := rfl
@[simp] theorem State.modMe_stalls (s : State) (f : Thread → Thread) : (s.modMe f).stalls = s.stalls := rfl
@[simp] theorem State.modMe_acks (s : State) (f : Thread → Thread) : (s.modMe f).acks = s.acks := rfl
@[simp] theorem State.modMe_hidden (s : State) (f : Thread → Thread) : (s.modMe f).hidden = s.hidden := rfl
@[simp] theorem State.modMe_fifos (s : State) (f : Thread → Thread) : (s.modMe f).fifos = s.fifos := rfl
@[simp] theorem State.modMe_conts (s : State) (f : Thread → Thread) : (s.modMe f).conts = s.conts := rfl
@[simp] theorem State.modMe_halts (s : State) (f : Thread → Thread) : (s.modMe f).halts = s.halts := rfl
@[simp] theorem State.modMe_ckHalts (s : State) (f : Thread → Thread) : (s.modMe f).ckHalts = s.ckHalts := rfl
@[simp] theorem State.modMe_svcmap (s : State) (f : Thread → Thread) : (s.modMe f).svcmap = s.svcmap := rfl
@[simp] theorem State.modMe_mwCst (s : State) (f : Thread → Thread) : (s.modMe f).mwCst = s.mwCst := rfl
@[simp] theorem State.modMe_mwCmd (s : State) (f : Thread → Thread) : (s.modMe f).mwCmd = s.mwCmd := rfl
@[simp] theorem State.modMe_mwFltoff (s : State) (f : Thread → Thread) : (s.modMe f).mwFltoff = s.mwFltoff := rfl
@[simp] theorem State.modMe_mwFab (s : State) (f : Thread → Thread) : (s.modMe f).mwFab = s.mwFab := rfl
@[simp] theorem State.modMe_mwPol (s : State) (f : Thread → Thread) : (s.modMe f).mwPol = s.mwPol := rfl
@[simp] theorem State.modMe_mwOvf (s : State) (f : Thread → Thread) : (s.modMe f).mwOvf = s.mwOvf := rfl
@[simp] theorem State.modMe_mwSw (s : State) (f : Thread → Thread) : (s.modMe f).mwSw = s.mwSw := rfl
@[simp] theorem State.modMe_mwCxl (s : State) (f : Thread → Thread) : (s.modMe f).mwCxl = s.mwCxl := rfl
@[simp] theorem State.modMe_net (s : State) (f : Thread → Thread) : (s.modMe f).net = s.net := rfl
@[simp] theorem State.modMe_fabric (s : State) (f : Thread → Thread) : (s.modMe f).fabric = s.fabric := rfl
@[simp] theorem State.modMe_pushes (s : State) (f : Thread → Thread) : (s.modMe f).pushes = s.pushes := rfl
@[simp] theorem State.modMe_linksDown (s : State) (f : Thread → Thread) : (s.modMe f).linksDown = s.linksDown := rfl
@[simp] theorem State.modMe_flts (s : State) (f : Thread → Thread) : (s.modMe f).flts = s.flts := rfl
@[simp] theorem State.modMe_fills (s : State) (f : Thread → Thread) : (s.modMe f).fills = s.fills := rfl
@[simp] theorem State.modMe_peerCopies (s : State) (f : Thread → Thread) : (s.modMe f).peerCopies = s.peerCopies := rfl
@[simp] theorem State.modMe_peerInval (s : State) (f : Thread → Thread) : (s.modMe f).peerInval = s.peerInval := rfl
@[simp] theorem State.modMe_peerHeld (s : State) (f : Thread → Thread) : (s.modMe f).peerHeld = s.peerHeld := rfl
@[simp] theorem State.modMe_life (s : State) (f : Thread → Thread) : (s.modMe f).life = s.life := rfl
@[simp] theorem State.modMe_lifeLog (s : State) (f : Thread → Thread) : (s.modMe f).lifeLog = s.lifeLog := rfl
@[simp] theorem State.modMe_powerOn (s : State) (f : Thread → Thread) : (s.modMe f).powerOn = s.powerOn := rfl
@[simp] theorem State.modMe_on (s : State) (f : Thread → Thread) : (s.modMe f).on = s.on := rfl
@[simp] theorem State.modMe_boot (s : State) (f : Thread → Thread) : (s.modMe f).boot = s.boot := rfl
@[simp] theorem State.modMe_inputs (s : State) (f : Thread → Thread) : (s.modMe f).inputs = s.inputs := rfl
@[simp] theorem State.modMe_sched (s : State) (f : Thread → Thread) : (s.modMe f).sched = s.sched := rfl
@[simp] theorem State.modMe_ev (s : State) (f : Thread → Thread) : (s.modMe f).ev = s.ev := rfl
@[simp] theorem State.modMe_free (s : State) (f : Thread → Thread) : (s.modMe f).free = s.free := rfl
@[simp] theorem State.modMe_cur (s : State) (f : Thread → Thread) : (s.modMe f).cur = s.cur := rfl
@[simp] theorem State.modMe_defers (s : State) (f : Thread → Thread) : (s.modMe f).defers = s.defers := rfl
@[simp] theorem State.modMe_nextUid (s : State) (f : Thread → Thread) : (s.modMe f).nextUid = s.nextUid := rfl
@[simp] theorem State.modMe_rr (s : State) (f : Thread → Thread) : (s.modMe f).rr = s.rr := rfl

/-! ## wr -/

@[simp] theorem State.wr_cycle (s : State) (n : Nat) (v : Word) : (s.wr n v).cycle = s.cycle := rfl
@[simp] theorem State.wr_clusters (s : State) (n : Nat) (v : Word) : (s.wr n v).clusters = s.clusters := rfl
@[simp] theorem State.wr_hubs (s : State) (n : Nat) (v : Word) : (s.wr n v).hubs = s.hubs := rfl
@[simp] theorem State.wr_dies (s : State) (n : Nat) (v : Word) : (s.wr n v).dies = s.dies := rfl
@[simp] theorem State.wr_dir (s : State) (n : Nat) (v : Word) : (s.wr n v).dir = s.dir := rfl
@[simp] theorem State.wr_mem (s : State) (n : Nat) (v : Word) : (s.wr n v).mem = s.mem := rfl
@[simp] theorem State.wr_ver (s : State) (n : Nat) (v : Word) : (s.wr n v).ver = s.ver := rfl
@[simp] theorem State.wr_stalls (s : State) (n : Nat) (v : Word) : (s.wr n v).stalls = s.stalls := rfl
@[simp] theorem State.wr_acks (s : State) (n : Nat) (v : Word) : (s.wr n v).acks = s.acks := rfl
@[simp] theorem State.wr_hidden (s : State) (n : Nat) (v : Word) : (s.wr n v).hidden = s.hidden := rfl
@[simp] theorem State.wr_fifos (s : State) (n : Nat) (v : Word) : (s.wr n v).fifos = s.fifos := rfl
@[simp] theorem State.wr_conts (s : State) (n : Nat) (v : Word) : (s.wr n v).conts = s.conts := rfl
@[simp] theorem State.wr_halts (s : State) (n : Nat) (v : Word) : (s.wr n v).halts = s.halts := rfl
@[simp] theorem State.wr_ckHalts (s : State) (n : Nat) (v : Word) : (s.wr n v).ckHalts = s.ckHalts := rfl
@[simp] theorem State.wr_svcmap (s : State) (n : Nat) (v : Word) : (s.wr n v).svcmap = s.svcmap := rfl
@[simp] theorem State.wr_mwCst (s : State) (n : Nat) (v : Word) : (s.wr n v).mwCst = s.mwCst := rfl
@[simp] theorem State.wr_mwCmd (s : State) (n : Nat) (v : Word) : (s.wr n v).mwCmd = s.mwCmd := rfl
@[simp] theorem State.wr_mwFltoff (s : State) (n : Nat) (v : Word) : (s.wr n v).mwFltoff = s.mwFltoff := rfl
@[simp] theorem State.wr_mwFab (s : State) (n : Nat) (v : Word) : (s.wr n v).mwFab = s.mwFab := rfl
@[simp] theorem State.wr_mwPol (s : State) (n : Nat) (v : Word) : (s.wr n v).mwPol = s.mwPol := rfl
@[simp] theorem State.wr_mwOvf (s : State) (n : Nat) (v : Word) : (s.wr n v).mwOvf = s.mwOvf := rfl
@[simp] theorem State.wr_mwSw (s : State) (n : Nat) (v : Word) : (s.wr n v).mwSw = s.mwSw := rfl
@[simp] theorem State.wr_mwCxl (s : State) (n : Nat) (v : Word) : (s.wr n v).mwCxl = s.mwCxl := rfl
@[simp] theorem State.wr_net (s : State) (n : Nat) (v : Word) : (s.wr n v).net = s.net := rfl
@[simp] theorem State.wr_fabric (s : State) (n : Nat) (v : Word) : (s.wr n v).fabric = s.fabric := rfl
@[simp] theorem State.wr_pushes (s : State) (n : Nat) (v : Word) : (s.wr n v).pushes = s.pushes := rfl
@[simp] theorem State.wr_linksDown (s : State) (n : Nat) (v : Word) : (s.wr n v).linksDown = s.linksDown := rfl
@[simp] theorem State.wr_flts (s : State) (n : Nat) (v : Word) : (s.wr n v).flts = s.flts := rfl
@[simp] theorem State.wr_fills (s : State) (n : Nat) (v : Word) : (s.wr n v).fills = s.fills := rfl
@[simp] theorem State.wr_peerCopies (s : State) (n : Nat) (v : Word) : (s.wr n v).peerCopies = s.peerCopies := rfl
@[simp] theorem State.wr_peerInval (s : State) (n : Nat) (v : Word) : (s.wr n v).peerInval = s.peerInval := rfl
@[simp] theorem State.wr_peerHeld (s : State) (n : Nat) (v : Word) : (s.wr n v).peerHeld = s.peerHeld := rfl
@[simp] theorem State.wr_life (s : State) (n : Nat) (v : Word) : (s.wr n v).life = s.life := rfl
@[simp] theorem State.wr_lifeLog (s : State) (n : Nat) (v : Word) : (s.wr n v).lifeLog = s.lifeLog := rfl
@[simp] theorem State.wr_powerOn (s : State) (n : Nat) (v : Word) : (s.wr n v).powerOn = s.powerOn := rfl
@[simp] theorem State.wr_on (s : State) (n : Nat) (v : Word) : (s.wr n v).on = s.on := rfl
@[simp] theorem State.wr_boot (s : State) (n : Nat) (v : Word) : (s.wr n v).boot = s.boot := rfl
@[simp] theorem State.wr_inputs (s : State) (n : Nat) (v : Word) : (s.wr n v).inputs = s.inputs := rfl
@[simp] theorem State.wr_sched (s : State) (n : Nat) (v : Word) : (s.wr n v).sched = s.sched := rfl
@[simp] theorem State.wr_ev (s : State) (n : Nat) (v : Word) : (s.wr n v).ev = s.ev := rfl
@[simp] theorem State.wr_free (s : State) (n : Nat) (v : Word) : (s.wr n v).free = s.free := rfl
@[simp] theorem State.wr_cur (s : State) (n : Nat) (v : Word) : (s.wr n v).cur = s.cur := rfl
@[simp] theorem State.wr_defers (s : State) (n : Nat) (v : Word) : (s.wr n v).defers = s.defers := rfl
@[simp] theorem State.wr_nextUid (s : State) (n : Nat) (v : Word) : (s.wr n v).nextUid = s.nextUid := rfl
@[simp] theorem State.wr_rr (s : State) (n : Nat) (v : Word) : (s.wr n v).rr = s.rr := rfl

/-! ## wrP -/

@[simp] theorem State.wrP_cycle (s : State) (n : Nat) (v : Pred) : (s.wrP n v).cycle = s.cycle := rfl
@[simp] theorem State.wrP_clusters (s : State) (n : Nat) (v : Pred) : (s.wrP n v).clusters = s.clusters := rfl
@[simp] theorem State.wrP_hubs (s : State) (n : Nat) (v : Pred) : (s.wrP n v).hubs = s.hubs := rfl
@[simp] theorem State.wrP_dies (s : State) (n : Nat) (v : Pred) : (s.wrP n v).dies = s.dies := rfl
@[simp] theorem State.wrP_dir (s : State) (n : Nat) (v : Pred) : (s.wrP n v).dir = s.dir := rfl
@[simp] theorem State.wrP_mem (s : State) (n : Nat) (v : Pred) : (s.wrP n v).mem = s.mem := rfl
@[simp] theorem State.wrP_ver (s : State) (n : Nat) (v : Pred) : (s.wrP n v).ver = s.ver := rfl
@[simp] theorem State.wrP_stalls (s : State) (n : Nat) (v : Pred) : (s.wrP n v).stalls = s.stalls := rfl
@[simp] theorem State.wrP_acks (s : State) (n : Nat) (v : Pred) : (s.wrP n v).acks = s.acks := rfl
@[simp] theorem State.wrP_hidden (s : State) (n : Nat) (v : Pred) : (s.wrP n v).hidden = s.hidden := rfl
@[simp] theorem State.wrP_fifos (s : State) (n : Nat) (v : Pred) : (s.wrP n v).fifos = s.fifos := rfl
@[simp] theorem State.wrP_conts (s : State) (n : Nat) (v : Pred) : (s.wrP n v).conts = s.conts := rfl
@[simp] theorem State.wrP_halts (s : State) (n : Nat) (v : Pred) : (s.wrP n v).halts = s.halts := rfl
@[simp] theorem State.wrP_ckHalts (s : State) (n : Nat) (v : Pred) : (s.wrP n v).ckHalts = s.ckHalts := rfl
@[simp] theorem State.wrP_svcmap (s : State) (n : Nat) (v : Pred) : (s.wrP n v).svcmap = s.svcmap := rfl
@[simp] theorem State.wrP_mwCst (s : State) (n : Nat) (v : Pred) : (s.wrP n v).mwCst = s.mwCst := rfl
@[simp] theorem State.wrP_mwCmd (s : State) (n : Nat) (v : Pred) : (s.wrP n v).mwCmd = s.mwCmd := rfl
@[simp] theorem State.wrP_mwFltoff (s : State) (n : Nat) (v : Pred) : (s.wrP n v).mwFltoff = s.mwFltoff := rfl
@[simp] theorem State.wrP_mwFab (s : State) (n : Nat) (v : Pred) : (s.wrP n v).mwFab = s.mwFab := rfl
@[simp] theorem State.wrP_mwPol (s : State) (n : Nat) (v : Pred) : (s.wrP n v).mwPol = s.mwPol := rfl
@[simp] theorem State.wrP_mwOvf (s : State) (n : Nat) (v : Pred) : (s.wrP n v).mwOvf = s.mwOvf := rfl
@[simp] theorem State.wrP_mwSw (s : State) (n : Nat) (v : Pred) : (s.wrP n v).mwSw = s.mwSw := rfl
@[simp] theorem State.wrP_mwCxl (s : State) (n : Nat) (v : Pred) : (s.wrP n v).mwCxl = s.mwCxl := rfl
@[simp] theorem State.wrP_net (s : State) (n : Nat) (v : Pred) : (s.wrP n v).net = s.net := rfl
@[simp] theorem State.wrP_fabric (s : State) (n : Nat) (v : Pred) : (s.wrP n v).fabric = s.fabric := rfl
@[simp] theorem State.wrP_pushes (s : State) (n : Nat) (v : Pred) : (s.wrP n v).pushes = s.pushes := rfl
@[simp] theorem State.wrP_linksDown (s : State) (n : Nat) (v : Pred) : (s.wrP n v).linksDown = s.linksDown := rfl
@[simp] theorem State.wrP_flts (s : State) (n : Nat) (v : Pred) : (s.wrP n v).flts = s.flts := rfl
@[simp] theorem State.wrP_fills (s : State) (n : Nat) (v : Pred) : (s.wrP n v).fills = s.fills := rfl
@[simp] theorem State.wrP_peerCopies (s : State) (n : Nat) (v : Pred) : (s.wrP n v).peerCopies = s.peerCopies := rfl
@[simp] theorem State.wrP_peerInval (s : State) (n : Nat) (v : Pred) : (s.wrP n v).peerInval = s.peerInval := rfl
@[simp] theorem State.wrP_peerHeld (s : State) (n : Nat) (v : Pred) : (s.wrP n v).peerHeld = s.peerHeld := rfl
@[simp] theorem State.wrP_life (s : State) (n : Nat) (v : Pred) : (s.wrP n v).life = s.life := rfl
@[simp] theorem State.wrP_lifeLog (s : State) (n : Nat) (v : Pred) : (s.wrP n v).lifeLog = s.lifeLog := rfl
@[simp] theorem State.wrP_powerOn (s : State) (n : Nat) (v : Pred) : (s.wrP n v).powerOn = s.powerOn := rfl
@[simp] theorem State.wrP_on (s : State) (n : Nat) (v : Pred) : (s.wrP n v).on = s.on := rfl
@[simp] theorem State.wrP_boot (s : State) (n : Nat) (v : Pred) : (s.wrP n v).boot = s.boot := rfl
@[simp] theorem State.wrP_inputs (s : State) (n : Nat) (v : Pred) : (s.wrP n v).inputs = s.inputs := rfl
@[simp] theorem State.wrP_sched (s : State) (n : Nat) (v : Pred) : (s.wrP n v).sched = s.sched := rfl
@[simp] theorem State.wrP_ev (s : State) (n : Nat) (v : Pred) : (s.wrP n v).ev = s.ev := rfl
@[simp] theorem State.wrP_free (s : State) (n : Nat) (v : Pred) : (s.wrP n v).free = s.free := rfl
@[simp] theorem State.wrP_cur (s : State) (n : Nat) (v : Pred) : (s.wrP n v).cur = s.cur := rfl
@[simp] theorem State.wrP_defers (s : State) (n : Nat) (v : Pred) : (s.wrP n v).defers = s.defers := rfl
@[simp] theorem State.wrP_nextUid (s : State) (n : Nat) (v : Pred) : (s.wrP n v).nextUid = s.nextUid := rfl
@[simp] theorem State.wrP_rr (s : State) (n : Nat) (v : Pred) : (s.wrP n v).rr = s.rr := rfl

/-! ## wrVs -/

@[simp] theorem State.wrVs_cycle (s : State) (d : VOp) (vs : List VReg) : (s.wrVs d vs).cycle = s.cycle := rfl
@[simp] theorem State.wrVs_clusters (s : State) (d : VOp) (vs : List VReg) : (s.wrVs d vs).clusters = s.clusters := rfl
@[simp] theorem State.wrVs_hubs (s : State) (d : VOp) (vs : List VReg) : (s.wrVs d vs).hubs = s.hubs := rfl
@[simp] theorem State.wrVs_dies (s : State) (d : VOp) (vs : List VReg) : (s.wrVs d vs).dies = s.dies := rfl
@[simp] theorem State.wrVs_dir (s : State) (d : VOp) (vs : List VReg) : (s.wrVs d vs).dir = s.dir := rfl
@[simp] theorem State.wrVs_mem (s : State) (d : VOp) (vs : List VReg) : (s.wrVs d vs).mem = s.mem := rfl
@[simp] theorem State.wrVs_ver (s : State) (d : VOp) (vs : List VReg) : (s.wrVs d vs).ver = s.ver := rfl
@[simp] theorem State.wrVs_stalls (s : State) (d : VOp) (vs : List VReg) : (s.wrVs d vs).stalls = s.stalls := rfl
@[simp] theorem State.wrVs_acks (s : State) (d : VOp) (vs : List VReg) : (s.wrVs d vs).acks = s.acks := rfl
@[simp] theorem State.wrVs_hidden (s : State) (d : VOp) (vs : List VReg) : (s.wrVs d vs).hidden = s.hidden := rfl
@[simp] theorem State.wrVs_fifos (s : State) (d : VOp) (vs : List VReg) : (s.wrVs d vs).fifos = s.fifos := rfl
@[simp] theorem State.wrVs_conts (s : State) (d : VOp) (vs : List VReg) : (s.wrVs d vs).conts = s.conts := rfl
@[simp] theorem State.wrVs_halts (s : State) (d : VOp) (vs : List VReg) : (s.wrVs d vs).halts = s.halts := rfl
@[simp] theorem State.wrVs_ckHalts (s : State) (d : VOp) (vs : List VReg) : (s.wrVs d vs).ckHalts = s.ckHalts := rfl
@[simp] theorem State.wrVs_svcmap (s : State) (d : VOp) (vs : List VReg) : (s.wrVs d vs).svcmap = s.svcmap := rfl
@[simp] theorem State.wrVs_mwCst (s : State) (d : VOp) (vs : List VReg) : (s.wrVs d vs).mwCst = s.mwCst := rfl
@[simp] theorem State.wrVs_mwCmd (s : State) (d : VOp) (vs : List VReg) : (s.wrVs d vs).mwCmd = s.mwCmd := rfl
@[simp] theorem State.wrVs_mwFltoff (s : State) (d : VOp) (vs : List VReg) : (s.wrVs d vs).mwFltoff = s.mwFltoff := rfl
@[simp] theorem State.wrVs_mwFab (s : State) (d : VOp) (vs : List VReg) : (s.wrVs d vs).mwFab = s.mwFab := rfl
@[simp] theorem State.wrVs_mwPol (s : State) (d : VOp) (vs : List VReg) : (s.wrVs d vs).mwPol = s.mwPol := rfl
@[simp] theorem State.wrVs_mwOvf (s : State) (d : VOp) (vs : List VReg) : (s.wrVs d vs).mwOvf = s.mwOvf := rfl
@[simp] theorem State.wrVs_mwSw (s : State) (d : VOp) (vs : List VReg) : (s.wrVs d vs).mwSw = s.mwSw := rfl
@[simp] theorem State.wrVs_mwCxl (s : State) (d : VOp) (vs : List VReg) : (s.wrVs d vs).mwCxl = s.mwCxl := rfl
@[simp] theorem State.wrVs_net (s : State) (d : VOp) (vs : List VReg) : (s.wrVs d vs).net = s.net := rfl
@[simp] theorem State.wrVs_fabric (s : State) (d : VOp) (vs : List VReg) : (s.wrVs d vs).fabric = s.fabric := rfl
@[simp] theorem State.wrVs_pushes (s : State) (d : VOp) (vs : List VReg) : (s.wrVs d vs).pushes = s.pushes := rfl
@[simp] theorem State.wrVs_linksDown (s : State) (d : VOp) (vs : List VReg) : (s.wrVs d vs).linksDown = s.linksDown := rfl
@[simp] theorem State.wrVs_flts (s : State) (d : VOp) (vs : List VReg) : (s.wrVs d vs).flts = s.flts := rfl
@[simp] theorem State.wrVs_fills (s : State) (d : VOp) (vs : List VReg) : (s.wrVs d vs).fills = s.fills := rfl
@[simp] theorem State.wrVs_peerCopies (s : State) (d : VOp) (vs : List VReg) : (s.wrVs d vs).peerCopies = s.peerCopies := rfl
@[simp] theorem State.wrVs_peerInval (s : State) (d : VOp) (vs : List VReg) : (s.wrVs d vs).peerInval = s.peerInval := rfl
@[simp] theorem State.wrVs_peerHeld (s : State) (d : VOp) (vs : List VReg) : (s.wrVs d vs).peerHeld = s.peerHeld := rfl
@[simp] theorem State.wrVs_life (s : State) (d : VOp) (vs : List VReg) : (s.wrVs d vs).life = s.life := rfl
@[simp] theorem State.wrVs_lifeLog (s : State) (d : VOp) (vs : List VReg) : (s.wrVs d vs).lifeLog = s.lifeLog := rfl
@[simp] theorem State.wrVs_powerOn (s : State) (d : VOp) (vs : List VReg) : (s.wrVs d vs).powerOn = s.powerOn := rfl
@[simp] theorem State.wrVs_on (s : State) (d : VOp) (vs : List VReg) : (s.wrVs d vs).on = s.on := rfl
@[simp] theorem State.wrVs_boot (s : State) (d : VOp) (vs : List VReg) : (s.wrVs d vs).boot = s.boot := rfl
@[simp] theorem State.wrVs_inputs (s : State) (d : VOp) (vs : List VReg) : (s.wrVs d vs).inputs = s.inputs := rfl
@[simp] theorem State.wrVs_sched (s : State) (d : VOp) (vs : List VReg) : (s.wrVs d vs).sched = s.sched := rfl
@[simp] theorem State.wrVs_ev (s : State) (d : VOp) (vs : List VReg) : (s.wrVs d vs).ev = s.ev := rfl
@[simp] theorem State.wrVs_free (s : State) (d : VOp) (vs : List VReg) : (s.wrVs d vs).free = s.free := rfl
@[simp] theorem State.wrVs_cur (s : State) (d : VOp) (vs : List VReg) : (s.wrVs d vs).cur = s.cur := rfl
@[simp] theorem State.wrVs_defers (s : State) (d : VOp) (vs : List VReg) : (s.wrVs d vs).defers = s.defers := rfl
@[simp] theorem State.wrVs_nextUid (s : State) (d : VOp) (vs : List VReg) : (s.wrVs d vs).nextUid = s.nextUid := rfl
@[simp] theorem State.wrVs_rr (s : State) (d : VOp) (vs : List VReg) : (s.wrVs d vs).rr = s.rr := rfl

/-! ## setCluster -/

@[simp] theorem State.setCluster_cycle (s : State) (k : Nat) (x : Cluster) : (s.setCluster k x).cycle = s.cycle := rfl
@[simp] theorem State.setCluster_cores (s : State) (k : Nat) (x : Cluster) : (s.setCluster k x).cores = s.cores := rfl
@[simp] theorem State.setCluster_hubs (s : State) (k : Nat) (x : Cluster) : (s.setCluster k x).hubs = s.hubs := rfl
@[simp] theorem State.setCluster_dies (s : State) (k : Nat) (x : Cluster) : (s.setCluster k x).dies = s.dies := rfl
@[simp] theorem State.setCluster_dir (s : State) (k : Nat) (x : Cluster) : (s.setCluster k x).dir = s.dir := rfl
@[simp] theorem State.setCluster_mem (s : State) (k : Nat) (x : Cluster) : (s.setCluster k x).mem = s.mem := rfl
@[simp] theorem State.setCluster_ver (s : State) (k : Nat) (x : Cluster) : (s.setCluster k x).ver = s.ver := rfl
@[simp] theorem State.setCluster_stalls (s : State) (k : Nat) (x : Cluster) : (s.setCluster k x).stalls = s.stalls := rfl
@[simp] theorem State.setCluster_acks (s : State) (k : Nat) (x : Cluster) : (s.setCluster k x).acks = s.acks := rfl
@[simp] theorem State.setCluster_hidden (s : State) (k : Nat) (x : Cluster) : (s.setCluster k x).hidden = s.hidden := rfl
@[simp] theorem State.setCluster_fifos (s : State) (k : Nat) (x : Cluster) : (s.setCluster k x).fifos = s.fifos := rfl
@[simp] theorem State.setCluster_conts (s : State) (k : Nat) (x : Cluster) : (s.setCluster k x).conts = s.conts := rfl
@[simp] theorem State.setCluster_halts (s : State) (k : Nat) (x : Cluster) : (s.setCluster k x).halts = s.halts := rfl
@[simp] theorem State.setCluster_ckHalts (s : State) (k : Nat) (x : Cluster) : (s.setCluster k x).ckHalts = s.ckHalts := rfl
@[simp] theorem State.setCluster_svcmap (s : State) (k : Nat) (x : Cluster) : (s.setCluster k x).svcmap = s.svcmap := rfl
@[simp] theorem State.setCluster_mwCst (s : State) (k : Nat) (x : Cluster) : (s.setCluster k x).mwCst = s.mwCst := rfl
@[simp] theorem State.setCluster_mwCmd (s : State) (k : Nat) (x : Cluster) : (s.setCluster k x).mwCmd = s.mwCmd := rfl
@[simp] theorem State.setCluster_mwFltoff (s : State) (k : Nat) (x : Cluster) : (s.setCluster k x).mwFltoff = s.mwFltoff := rfl
@[simp] theorem State.setCluster_mwFab (s : State) (k : Nat) (x : Cluster) : (s.setCluster k x).mwFab = s.mwFab := rfl
@[simp] theorem State.setCluster_mwPol (s : State) (k : Nat) (x : Cluster) : (s.setCluster k x).mwPol = s.mwPol := rfl
@[simp] theorem State.setCluster_mwOvf (s : State) (k : Nat) (x : Cluster) : (s.setCluster k x).mwOvf = s.mwOvf := rfl
@[simp] theorem State.setCluster_mwSw (s : State) (k : Nat) (x : Cluster) : (s.setCluster k x).mwSw = s.mwSw := rfl
@[simp] theorem State.setCluster_mwCxl (s : State) (k : Nat) (x : Cluster) : (s.setCluster k x).mwCxl = s.mwCxl := rfl
@[simp] theorem State.setCluster_net (s : State) (k : Nat) (x : Cluster) : (s.setCluster k x).net = s.net := rfl
@[simp] theorem State.setCluster_fabric (s : State) (k : Nat) (x : Cluster) : (s.setCluster k x).fabric = s.fabric := rfl
@[simp] theorem State.setCluster_pushes (s : State) (k : Nat) (x : Cluster) : (s.setCluster k x).pushes = s.pushes := rfl
@[simp] theorem State.setCluster_linksDown (s : State) (k : Nat) (x : Cluster) : (s.setCluster k x).linksDown = s.linksDown := rfl
@[simp] theorem State.setCluster_flts (s : State) (k : Nat) (x : Cluster) : (s.setCluster k x).flts = s.flts := rfl
@[simp] theorem State.setCluster_fills (s : State) (k : Nat) (x : Cluster) : (s.setCluster k x).fills = s.fills := rfl
@[simp] theorem State.setCluster_peerCopies (s : State) (k : Nat) (x : Cluster) : (s.setCluster k x).peerCopies = s.peerCopies := rfl
@[simp] theorem State.setCluster_peerInval (s : State) (k : Nat) (x : Cluster) : (s.setCluster k x).peerInval = s.peerInval := rfl
@[simp] theorem State.setCluster_peerHeld (s : State) (k : Nat) (x : Cluster) : (s.setCluster k x).peerHeld = s.peerHeld := rfl
@[simp] theorem State.setCluster_life (s : State) (k : Nat) (x : Cluster) : (s.setCluster k x).life = s.life := rfl
@[simp] theorem State.setCluster_lifeLog (s : State) (k : Nat) (x : Cluster) : (s.setCluster k x).lifeLog = s.lifeLog := rfl
@[simp] theorem State.setCluster_powerOn (s : State) (k : Nat) (x : Cluster) : (s.setCluster k x).powerOn = s.powerOn := rfl
@[simp] theorem State.setCluster_on (s : State) (k : Nat) (x : Cluster) : (s.setCluster k x).on = s.on := rfl
@[simp] theorem State.setCluster_boot (s : State) (k : Nat) (x : Cluster) : (s.setCluster k x).boot = s.boot := rfl
@[simp] theorem State.setCluster_inputs (s : State) (k : Nat) (x : Cluster) : (s.setCluster k x).inputs = s.inputs := rfl
@[simp] theorem State.setCluster_sched (s : State) (k : Nat) (x : Cluster) : (s.setCluster k x).sched = s.sched := rfl
@[simp] theorem State.setCluster_ev (s : State) (k : Nat) (x : Cluster) : (s.setCluster k x).ev = s.ev := rfl
@[simp] theorem State.setCluster_free (s : State) (k : Nat) (x : Cluster) : (s.setCluster k x).free = s.free := rfl
@[simp] theorem State.setCluster_cur (s : State) (k : Nat) (x : Cluster) : (s.setCluster k x).cur = s.cur := rfl
@[simp] theorem State.setCluster_defers (s : State) (k : Nat) (x : Cluster) : (s.setCluster k x).defers = s.defers := rfl
@[simp] theorem State.setCluster_nextUid (s : State) (k : Nat) (x : Cluster) : (s.setCluster k x).nextUid = s.nextUid := rfl
@[simp] theorem State.setCluster_rr (s : State) (k : Nat) (x : Cluster) : (s.setCluster k x).rr = s.rr := rfl

/-! ## setHub -/

@[simp] theorem State.setHub_cycle (s : State) (h : Nat) (x : Hub) : (s.setHub h x).cycle = s.cycle := rfl
@[simp] theorem State.setHub_cores (s : State) (h : Nat) (x : Hub) : (s.setHub h x).cores = s.cores := rfl
@[simp] theorem State.setHub_clusters (s : State) (h : Nat) (x : Hub) : (s.setHub h x).clusters = s.clusters := rfl
@[simp] theorem State.setHub_dies (s : State) (h : Nat) (x : Hub) : (s.setHub h x).dies = s.dies := rfl
@[simp] theorem State.setHub_dir (s : State) (h : Nat) (x : Hub) : (s.setHub h x).dir = s.dir := rfl
@[simp] theorem State.setHub_mem (s : State) (h : Nat) (x : Hub) : (s.setHub h x).mem = s.mem := rfl
@[simp] theorem State.setHub_ver (s : State) (h : Nat) (x : Hub) : (s.setHub h x).ver = s.ver := rfl
@[simp] theorem State.setHub_stalls (s : State) (h : Nat) (x : Hub) : (s.setHub h x).stalls = s.stalls := rfl
@[simp] theorem State.setHub_acks (s : State) (h : Nat) (x : Hub) : (s.setHub h x).acks = s.acks := rfl
@[simp] theorem State.setHub_hidden (s : State) (h : Nat) (x : Hub) : (s.setHub h x).hidden = s.hidden := rfl
@[simp] theorem State.setHub_fifos (s : State) (h : Nat) (x : Hub) : (s.setHub h x).fifos = s.fifos := rfl
@[simp] theorem State.setHub_conts (s : State) (h : Nat) (x : Hub) : (s.setHub h x).conts = s.conts := rfl
@[simp] theorem State.setHub_halts (s : State) (h : Nat) (x : Hub) : (s.setHub h x).halts = s.halts := rfl
@[simp] theorem State.setHub_ckHalts (s : State) (h : Nat) (x : Hub) : (s.setHub h x).ckHalts = s.ckHalts := rfl
@[simp] theorem State.setHub_svcmap (s : State) (h : Nat) (x : Hub) : (s.setHub h x).svcmap = s.svcmap := rfl
@[simp] theorem State.setHub_mwCst (s : State) (h : Nat) (x : Hub) : (s.setHub h x).mwCst = s.mwCst := rfl
@[simp] theorem State.setHub_mwCmd (s : State) (h : Nat) (x : Hub) : (s.setHub h x).mwCmd = s.mwCmd := rfl
@[simp] theorem State.setHub_mwFltoff (s : State) (h : Nat) (x : Hub) : (s.setHub h x).mwFltoff = s.mwFltoff := rfl
@[simp] theorem State.setHub_mwFab (s : State) (h : Nat) (x : Hub) : (s.setHub h x).mwFab = s.mwFab := rfl
@[simp] theorem State.setHub_mwPol (s : State) (h : Nat) (x : Hub) : (s.setHub h x).mwPol = s.mwPol := rfl
@[simp] theorem State.setHub_mwOvf (s : State) (h : Nat) (x : Hub) : (s.setHub h x).mwOvf = s.mwOvf := rfl
@[simp] theorem State.setHub_mwSw (s : State) (h : Nat) (x : Hub) : (s.setHub h x).mwSw = s.mwSw := rfl
@[simp] theorem State.setHub_mwCxl (s : State) (h : Nat) (x : Hub) : (s.setHub h x).mwCxl = s.mwCxl := rfl
@[simp] theorem State.setHub_net (s : State) (h : Nat) (x : Hub) : (s.setHub h x).net = s.net := rfl
@[simp] theorem State.setHub_fabric (s : State) (h : Nat) (x : Hub) : (s.setHub h x).fabric = s.fabric := rfl
@[simp] theorem State.setHub_pushes (s : State) (h : Nat) (x : Hub) : (s.setHub h x).pushes = s.pushes := rfl
@[simp] theorem State.setHub_linksDown (s : State) (h : Nat) (x : Hub) : (s.setHub h x).linksDown = s.linksDown := rfl
@[simp] theorem State.setHub_flts (s : State) (h : Nat) (x : Hub) : (s.setHub h x).flts = s.flts := rfl
@[simp] theorem State.setHub_fills (s : State) (h : Nat) (x : Hub) : (s.setHub h x).fills = s.fills := rfl
@[simp] theorem State.setHub_peerCopies (s : State) (h : Nat) (x : Hub) : (s.setHub h x).peerCopies = s.peerCopies := rfl
@[simp] theorem State.setHub_peerInval (s : State) (h : Nat) (x : Hub) : (s.setHub h x).peerInval = s.peerInval := rfl
@[simp] theorem State.setHub_peerHeld (s : State) (h : Nat) (x : Hub) : (s.setHub h x).peerHeld = s.peerHeld := rfl
@[simp] theorem State.setHub_life (s : State) (h : Nat) (x : Hub) : (s.setHub h x).life = s.life := rfl
@[simp] theorem State.setHub_lifeLog (s : State) (h : Nat) (x : Hub) : (s.setHub h x).lifeLog = s.lifeLog := rfl
@[simp] theorem State.setHub_powerOn (s : State) (h : Nat) (x : Hub) : (s.setHub h x).powerOn = s.powerOn := rfl
@[simp] theorem State.setHub_on (s : State) (h : Nat) (x : Hub) : (s.setHub h x).on = s.on := rfl
@[simp] theorem State.setHub_boot (s : State) (h : Nat) (x : Hub) : (s.setHub h x).boot = s.boot := rfl
@[simp] theorem State.setHub_inputs (s : State) (h : Nat) (x : Hub) : (s.setHub h x).inputs = s.inputs := rfl
@[simp] theorem State.setHub_sched (s : State) (h : Nat) (x : Hub) : (s.setHub h x).sched = s.sched := rfl
@[simp] theorem State.setHub_ev (s : State) (h : Nat) (x : Hub) : (s.setHub h x).ev = s.ev := rfl
@[simp] theorem State.setHub_free (s : State) (h : Nat) (x : Hub) : (s.setHub h x).free = s.free := rfl
@[simp] theorem State.setHub_cur (s : State) (h : Nat) (x : Hub) : (s.setHub h x).cur = s.cur := rfl
@[simp] theorem State.setHub_defers (s : State) (h : Nat) (x : Hub) : (s.setHub h x).defers = s.defers := rfl
@[simp] theorem State.setHub_nextUid (s : State) (h : Nat) (x : Hub) : (s.setHub h x).nextUid = s.nextUid := rfl
@[simp] theorem State.setHub_rr (s : State) (h : Nat) (x : Hub) : (s.setHub h x).rr = s.rr := rfl

/-! ## setDie -/

@[simp] theorem State.setDie_cycle (s : State) (d : Nat) (x : Die) : (s.setDie d x).cycle = s.cycle := rfl
@[simp] theorem State.setDie_cores (s : State) (d : Nat) (x : Die) : (s.setDie d x).cores = s.cores := rfl
@[simp] theorem State.setDie_clusters (s : State) (d : Nat) (x : Die) : (s.setDie d x).clusters = s.clusters := rfl
@[simp] theorem State.setDie_hubs (s : State) (d : Nat) (x : Die) : (s.setDie d x).hubs = s.hubs := rfl
@[simp] theorem State.setDie_dir (s : State) (d : Nat) (x : Die) : (s.setDie d x).dir = s.dir := rfl
@[simp] theorem State.setDie_mem (s : State) (d : Nat) (x : Die) : (s.setDie d x).mem = s.mem := rfl
@[simp] theorem State.setDie_ver (s : State) (d : Nat) (x : Die) : (s.setDie d x).ver = s.ver := rfl
@[simp] theorem State.setDie_stalls (s : State) (d : Nat) (x : Die) : (s.setDie d x).stalls = s.stalls := rfl
@[simp] theorem State.setDie_acks (s : State) (d : Nat) (x : Die) : (s.setDie d x).acks = s.acks := rfl
@[simp] theorem State.setDie_hidden (s : State) (d : Nat) (x : Die) : (s.setDie d x).hidden = s.hidden := rfl
@[simp] theorem State.setDie_fifos (s : State) (d : Nat) (x : Die) : (s.setDie d x).fifos = s.fifos := rfl
@[simp] theorem State.setDie_conts (s : State) (d : Nat) (x : Die) : (s.setDie d x).conts = s.conts := rfl
@[simp] theorem State.setDie_halts (s : State) (d : Nat) (x : Die) : (s.setDie d x).halts = s.halts := rfl
@[simp] theorem State.setDie_ckHalts (s : State) (d : Nat) (x : Die) : (s.setDie d x).ckHalts = s.ckHalts := rfl
@[simp] theorem State.setDie_svcmap (s : State) (d : Nat) (x : Die) : (s.setDie d x).svcmap = s.svcmap := rfl
@[simp] theorem State.setDie_mwCst (s : State) (d : Nat) (x : Die) : (s.setDie d x).mwCst = s.mwCst := rfl
@[simp] theorem State.setDie_mwCmd (s : State) (d : Nat) (x : Die) : (s.setDie d x).mwCmd = s.mwCmd := rfl
@[simp] theorem State.setDie_mwFltoff (s : State) (d : Nat) (x : Die) : (s.setDie d x).mwFltoff = s.mwFltoff := rfl
@[simp] theorem State.setDie_mwFab (s : State) (d : Nat) (x : Die) : (s.setDie d x).mwFab = s.mwFab := rfl
@[simp] theorem State.setDie_mwPol (s : State) (d : Nat) (x : Die) : (s.setDie d x).mwPol = s.mwPol := rfl
@[simp] theorem State.setDie_mwOvf (s : State) (d : Nat) (x : Die) : (s.setDie d x).mwOvf = s.mwOvf := rfl
@[simp] theorem State.setDie_mwSw (s : State) (d : Nat) (x : Die) : (s.setDie d x).mwSw = s.mwSw := rfl
@[simp] theorem State.setDie_mwCxl (s : State) (d : Nat) (x : Die) : (s.setDie d x).mwCxl = s.mwCxl := rfl
@[simp] theorem State.setDie_net (s : State) (d : Nat) (x : Die) : (s.setDie d x).net = s.net := rfl
@[simp] theorem State.setDie_fabric (s : State) (d : Nat) (x : Die) : (s.setDie d x).fabric = s.fabric := rfl
@[simp] theorem State.setDie_pushes (s : State) (d : Nat) (x : Die) : (s.setDie d x).pushes = s.pushes := rfl
@[simp] theorem State.setDie_linksDown (s : State) (d : Nat) (x : Die) : (s.setDie d x).linksDown = s.linksDown := rfl
@[simp] theorem State.setDie_flts (s : State) (d : Nat) (x : Die) : (s.setDie d x).flts = s.flts := rfl
@[simp] theorem State.setDie_fills (s : State) (d : Nat) (x : Die) : (s.setDie d x).fills = s.fills := rfl
@[simp] theorem State.setDie_peerCopies (s : State) (d : Nat) (x : Die) : (s.setDie d x).peerCopies = s.peerCopies := rfl
@[simp] theorem State.setDie_peerInval (s : State) (d : Nat) (x : Die) : (s.setDie d x).peerInval = s.peerInval := rfl
@[simp] theorem State.setDie_peerHeld (s : State) (d : Nat) (x : Die) : (s.setDie d x).peerHeld = s.peerHeld := rfl
@[simp] theorem State.setDie_life (s : State) (d : Nat) (x : Die) : (s.setDie d x).life = s.life := rfl
@[simp] theorem State.setDie_lifeLog (s : State) (d : Nat) (x : Die) : (s.setDie d x).lifeLog = s.lifeLog := rfl
@[simp] theorem State.setDie_powerOn (s : State) (d : Nat) (x : Die) : (s.setDie d x).powerOn = s.powerOn := rfl
@[simp] theorem State.setDie_on (s : State) (d : Nat) (x : Die) : (s.setDie d x).on = s.on := rfl
@[simp] theorem State.setDie_boot (s : State) (d : Nat) (x : Die) : (s.setDie d x).boot = s.boot := rfl
@[simp] theorem State.setDie_inputs (s : State) (d : Nat) (x : Die) : (s.setDie d x).inputs = s.inputs := rfl
@[simp] theorem State.setDie_sched (s : State) (d : Nat) (x : Die) : (s.setDie d x).sched = s.sched := rfl
@[simp] theorem State.setDie_ev (s : State) (d : Nat) (x : Die) : (s.setDie d x).ev = s.ev := rfl
@[simp] theorem State.setDie_free (s : State) (d : Nat) (x : Die) : (s.setDie d x).free = s.free := rfl
@[simp] theorem State.setDie_cur (s : State) (d : Nat) (x : Die) : (s.setDie d x).cur = s.cur := rfl
@[simp] theorem State.setDie_defers (s : State) (d : Nat) (x : Die) : (s.setDie d x).defers = s.defers := rfl
@[simp] theorem State.setDie_nextUid (s : State) (d : Nat) (x : Die) : (s.setDie d x).nextUid = s.nextUid := rfl
@[simp] theorem State.setDie_rr (s : State) (d : Nat) (x : Die) : (s.setDie d x).rr = s.rr := rfl

/-! ## setFifo -/

@[simp] theorem State.setFifo_cycle (s : State) (f : Nat) (x : LFifo) : (s.setFifo f x).cycle = s.cycle := rfl
@[simp] theorem State.setFifo_cores (s : State) (f : Nat) (x : LFifo) : (s.setFifo f x).cores = s.cores := rfl
@[simp] theorem State.setFifo_clusters (s : State) (f : Nat) (x : LFifo) : (s.setFifo f x).clusters = s.clusters := rfl
@[simp] theorem State.setFifo_hubs (s : State) (f : Nat) (x : LFifo) : (s.setFifo f x).hubs = s.hubs := rfl
@[simp] theorem State.setFifo_dies (s : State) (f : Nat) (x : LFifo) : (s.setFifo f x).dies = s.dies := rfl
@[simp] theorem State.setFifo_dir (s : State) (f : Nat) (x : LFifo) : (s.setFifo f x).dir = s.dir := rfl
@[simp] theorem State.setFifo_mem (s : State) (f : Nat) (x : LFifo) : (s.setFifo f x).mem = s.mem := rfl
@[simp] theorem State.setFifo_ver (s : State) (f : Nat) (x : LFifo) : (s.setFifo f x).ver = s.ver := rfl
@[simp] theorem State.setFifo_stalls (s : State) (f : Nat) (x : LFifo) : (s.setFifo f x).stalls = s.stalls := rfl
@[simp] theorem State.setFifo_acks (s : State) (f : Nat) (x : LFifo) : (s.setFifo f x).acks = s.acks := rfl
@[simp] theorem State.setFifo_hidden (s : State) (f : Nat) (x : LFifo) : (s.setFifo f x).hidden = s.hidden := rfl
@[simp] theorem State.setFifo_conts (s : State) (f : Nat) (x : LFifo) : (s.setFifo f x).conts = s.conts := rfl
@[simp] theorem State.setFifo_halts (s : State) (f : Nat) (x : LFifo) : (s.setFifo f x).halts = s.halts := rfl
@[simp] theorem State.setFifo_ckHalts (s : State) (f : Nat) (x : LFifo) : (s.setFifo f x).ckHalts = s.ckHalts := rfl
@[simp] theorem State.setFifo_svcmap (s : State) (f : Nat) (x : LFifo) : (s.setFifo f x).svcmap = s.svcmap := rfl
@[simp] theorem State.setFifo_mwCst (s : State) (f : Nat) (x : LFifo) : (s.setFifo f x).mwCst = s.mwCst := rfl
@[simp] theorem State.setFifo_mwCmd (s : State) (f : Nat) (x : LFifo) : (s.setFifo f x).mwCmd = s.mwCmd := rfl
@[simp] theorem State.setFifo_mwFltoff (s : State) (f : Nat) (x : LFifo) : (s.setFifo f x).mwFltoff = s.mwFltoff := rfl
@[simp] theorem State.setFifo_mwFab (s : State) (f : Nat) (x : LFifo) : (s.setFifo f x).mwFab = s.mwFab := rfl
@[simp] theorem State.setFifo_mwPol (s : State) (f : Nat) (x : LFifo) : (s.setFifo f x).mwPol = s.mwPol := rfl
@[simp] theorem State.setFifo_mwOvf (s : State) (f : Nat) (x : LFifo) : (s.setFifo f x).mwOvf = s.mwOvf := rfl
@[simp] theorem State.setFifo_mwSw (s : State) (f : Nat) (x : LFifo) : (s.setFifo f x).mwSw = s.mwSw := rfl
@[simp] theorem State.setFifo_mwCxl (s : State) (f : Nat) (x : LFifo) : (s.setFifo f x).mwCxl = s.mwCxl := rfl
@[simp] theorem State.setFifo_net (s : State) (f : Nat) (x : LFifo) : (s.setFifo f x).net = s.net := rfl
@[simp] theorem State.setFifo_fabric (s : State) (f : Nat) (x : LFifo) : (s.setFifo f x).fabric = s.fabric := rfl
@[simp] theorem State.setFifo_pushes (s : State) (f : Nat) (x : LFifo) : (s.setFifo f x).pushes = s.pushes := rfl
@[simp] theorem State.setFifo_linksDown (s : State) (f : Nat) (x : LFifo) : (s.setFifo f x).linksDown = s.linksDown := rfl
@[simp] theorem State.setFifo_flts (s : State) (f : Nat) (x : LFifo) : (s.setFifo f x).flts = s.flts := rfl
@[simp] theorem State.setFifo_fills (s : State) (f : Nat) (x : LFifo) : (s.setFifo f x).fills = s.fills := rfl
@[simp] theorem State.setFifo_peerCopies (s : State) (f : Nat) (x : LFifo) : (s.setFifo f x).peerCopies = s.peerCopies := rfl
@[simp] theorem State.setFifo_peerInval (s : State) (f : Nat) (x : LFifo) : (s.setFifo f x).peerInval = s.peerInval := rfl
@[simp] theorem State.setFifo_peerHeld (s : State) (f : Nat) (x : LFifo) : (s.setFifo f x).peerHeld = s.peerHeld := rfl
@[simp] theorem State.setFifo_life (s : State) (f : Nat) (x : LFifo) : (s.setFifo f x).life = s.life := rfl
@[simp] theorem State.setFifo_lifeLog (s : State) (f : Nat) (x : LFifo) : (s.setFifo f x).lifeLog = s.lifeLog := rfl
@[simp] theorem State.setFifo_powerOn (s : State) (f : Nat) (x : LFifo) : (s.setFifo f x).powerOn = s.powerOn := rfl
@[simp] theorem State.setFifo_on (s : State) (f : Nat) (x : LFifo) : (s.setFifo f x).on = s.on := rfl
@[simp] theorem State.setFifo_boot (s : State) (f : Nat) (x : LFifo) : (s.setFifo f x).boot = s.boot := rfl
@[simp] theorem State.setFifo_inputs (s : State) (f : Nat) (x : LFifo) : (s.setFifo f x).inputs = s.inputs := rfl
@[simp] theorem State.setFifo_sched (s : State) (f : Nat) (x : LFifo) : (s.setFifo f x).sched = s.sched := rfl
@[simp] theorem State.setFifo_ev (s : State) (f : Nat) (x : LFifo) : (s.setFifo f x).ev = s.ev := rfl
@[simp] theorem State.setFifo_free (s : State) (f : Nat) (x : LFifo) : (s.setFifo f x).free = s.free := rfl
@[simp] theorem State.setFifo_cur (s : State) (f : Nat) (x : LFifo) : (s.setFifo f x).cur = s.cur := rfl
@[simp] theorem State.setFifo_defers (s : State) (f : Nat) (x : LFifo) : (s.setFifo f x).defers = s.defers := rfl
@[simp] theorem State.setFifo_nextUid (s : State) (f : Nat) (x : LFifo) : (s.setFifo f x).nextUid = s.nextUid := rfl
@[simp] theorem State.setFifo_rr (s : State) (f : Nat) (x : LFifo) : (s.setFifo f x).rr = s.rr := rfl

/-! ## setHome -/

@[simp] theorem State.setHome_cycle (s : State) (n : Nat) (h : Home) : (s.setHome n h).cycle = s.cycle := rfl
@[simp] theorem State.setHome_cores (s : State) (n : Nat) (h : Home) : (s.setHome n h).cores = s.cores := rfl
@[simp] theorem State.setHome_clusters (s : State) (n : Nat) (h : Home) : (s.setHome n h).clusters = s.clusters := rfl
@[simp] theorem State.setHome_hubs (s : State) (n : Nat) (h : Home) : (s.setHome n h).hubs = s.hubs := rfl
@[simp] theorem State.setHome_dies (s : State) (n : Nat) (h : Home) : (s.setHome n h).dies = s.dies := rfl
@[simp] theorem State.setHome_mem (s : State) (n : Nat) (h : Home) : (s.setHome n h).mem = s.mem := rfl
@[simp] theorem State.setHome_ver (s : State) (n : Nat) (h : Home) : (s.setHome n h).ver = s.ver := rfl
@[simp] theorem State.setHome_stalls (s : State) (n : Nat) (h : Home) : (s.setHome n h).stalls = s.stalls := rfl
@[simp] theorem State.setHome_acks (s : State) (n : Nat) (h : Home) : (s.setHome n h).acks = s.acks := rfl
@[simp] theorem State.setHome_hidden (s : State) (n : Nat) (h : Home) : (s.setHome n h).hidden = s.hidden := rfl
@[simp] theorem State.setHome_fifos (s : State) (n : Nat) (h : Home) : (s.setHome n h).fifos = s.fifos := rfl
@[simp] theorem State.setHome_conts (s : State) (n : Nat) (h : Home) : (s.setHome n h).conts = s.conts := rfl
@[simp] theorem State.setHome_halts (s : State) (n : Nat) (h : Home) : (s.setHome n h).halts = s.halts := rfl
@[simp] theorem State.setHome_ckHalts (s : State) (n : Nat) (h : Home) : (s.setHome n h).ckHalts = s.ckHalts := rfl
@[simp] theorem State.setHome_svcmap (s : State) (n : Nat) (h : Home) : (s.setHome n h).svcmap = s.svcmap := rfl
@[simp] theorem State.setHome_mwCst (s : State) (n : Nat) (h : Home) : (s.setHome n h).mwCst = s.mwCst := rfl
@[simp] theorem State.setHome_mwCmd (s : State) (n : Nat) (h : Home) : (s.setHome n h).mwCmd = s.mwCmd := rfl
@[simp] theorem State.setHome_mwFltoff (s : State) (n : Nat) (h : Home) : (s.setHome n h).mwFltoff = s.mwFltoff := rfl
@[simp] theorem State.setHome_mwFab (s : State) (n : Nat) (h : Home) : (s.setHome n h).mwFab = s.mwFab := rfl
@[simp] theorem State.setHome_mwPol (s : State) (n : Nat) (h : Home) : (s.setHome n h).mwPol = s.mwPol := rfl
@[simp] theorem State.setHome_mwOvf (s : State) (n : Nat) (h : Home) : (s.setHome n h).mwOvf = s.mwOvf := rfl
@[simp] theorem State.setHome_mwSw (s : State) (n : Nat) (h : Home) : (s.setHome n h).mwSw = s.mwSw := rfl
@[simp] theorem State.setHome_mwCxl (s : State) (n : Nat) (h : Home) : (s.setHome n h).mwCxl = s.mwCxl := rfl
@[simp] theorem State.setHome_net (s : State) (n : Nat) (h : Home) : (s.setHome n h).net = s.net := rfl
@[simp] theorem State.setHome_fabric (s : State) (n : Nat) (h : Home) : (s.setHome n h).fabric = s.fabric := rfl
@[simp] theorem State.setHome_pushes (s : State) (n : Nat) (h : Home) : (s.setHome n h).pushes = s.pushes := rfl
@[simp] theorem State.setHome_linksDown (s : State) (n : Nat) (h : Home) : (s.setHome n h).linksDown = s.linksDown := rfl
@[simp] theorem State.setHome_flts (s : State) (n : Nat) (h : Home) : (s.setHome n h).flts = s.flts := rfl
@[simp] theorem State.setHome_fills (s : State) (n : Nat) (h : Home) : (s.setHome n h).fills = s.fills := rfl
@[simp] theorem State.setHome_peerCopies (s : State) (n : Nat) (h : Home) : (s.setHome n h).peerCopies = s.peerCopies := rfl
@[simp] theorem State.setHome_peerInval (s : State) (n : Nat) (h : Home) : (s.setHome n h).peerInval = s.peerInval := rfl
@[simp] theorem State.setHome_peerHeld (s : State) (n : Nat) (h : Home) : (s.setHome n h).peerHeld = s.peerHeld := rfl
@[simp] theorem State.setHome_life (s : State) (n : Nat) (h : Home) : (s.setHome n h).life = s.life := rfl
@[simp] theorem State.setHome_lifeLog (s : State) (n : Nat) (h : Home) : (s.setHome n h).lifeLog = s.lifeLog := rfl
@[simp] theorem State.setHome_powerOn (s : State) (n : Nat) (h : Home) : (s.setHome n h).powerOn = s.powerOn := rfl
@[simp] theorem State.setHome_on (s : State) (n : Nat) (h : Home) : (s.setHome n h).on = s.on := rfl
@[simp] theorem State.setHome_boot (s : State) (n : Nat) (h : Home) : (s.setHome n h).boot = s.boot := rfl
@[simp] theorem State.setHome_inputs (s : State) (n : Nat) (h : Home) : (s.setHome n h).inputs = s.inputs := rfl
@[simp] theorem State.setHome_sched (s : State) (n : Nat) (h : Home) : (s.setHome n h).sched = s.sched := rfl
@[simp] theorem State.setHome_ev (s : State) (n : Nat) (h : Home) : (s.setHome n h).ev = s.ev := rfl
@[simp] theorem State.setHome_free (s : State) (n : Nat) (h : Home) : (s.setHome n h).free = s.free := rfl
@[simp] theorem State.setHome_cur (s : State) (n : Nat) (h : Home) : (s.setHome n h).cur = s.cur := rfl
@[simp] theorem State.setHome_defers (s : State) (n : Nat) (h : Home) : (s.setHome n h).defers = s.defers := rfl
@[simp] theorem State.setHome_nextUid (s : State) (n : Nat) (h : Home) : (s.setHome n h).nextUid = s.nextUid := rfl
@[simp] theorem State.setHome_rr (s : State) (n : Nat) (h : Home) : (s.setHome n h).rr = s.rr := rfl

/-! ## setLine -/

@[simp] theorem State.setLine_cycle (s : State) (a : Nat) (l : LineVer) : (s.setLine a l).cycle = s.cycle := rfl
@[simp] theorem State.setLine_cores (s : State) (a : Nat) (l : LineVer) : (s.setLine a l).cores = s.cores := rfl
@[simp] theorem State.setLine_clusters (s : State) (a : Nat) (l : LineVer) : (s.setLine a l).clusters = s.clusters := rfl
@[simp] theorem State.setLine_hubs (s : State) (a : Nat) (l : LineVer) : (s.setLine a l).hubs = s.hubs := rfl
@[simp] theorem State.setLine_dies (s : State) (a : Nat) (l : LineVer) : (s.setLine a l).dies = s.dies := rfl
@[simp] theorem State.setLine_dir (s : State) (a : Nat) (l : LineVer) : (s.setLine a l).dir = s.dir := rfl
@[simp] theorem State.setLine_mem (s : State) (a : Nat) (l : LineVer) : (s.setLine a l).mem = s.mem := rfl
@[simp] theorem State.setLine_stalls (s : State) (a : Nat) (l : LineVer) : (s.setLine a l).stalls = s.stalls := rfl
@[simp] theorem State.setLine_acks (s : State) (a : Nat) (l : LineVer) : (s.setLine a l).acks = s.acks := rfl
@[simp] theorem State.setLine_hidden (s : State) (a : Nat) (l : LineVer) : (s.setLine a l).hidden = s.hidden := rfl
@[simp] theorem State.setLine_fifos (s : State) (a : Nat) (l : LineVer) : (s.setLine a l).fifos = s.fifos := rfl
@[simp] theorem State.setLine_conts (s : State) (a : Nat) (l : LineVer) : (s.setLine a l).conts = s.conts := rfl
@[simp] theorem State.setLine_halts (s : State) (a : Nat) (l : LineVer) : (s.setLine a l).halts = s.halts := rfl
@[simp] theorem State.setLine_ckHalts (s : State) (a : Nat) (l : LineVer) : (s.setLine a l).ckHalts = s.ckHalts := rfl
@[simp] theorem State.setLine_svcmap (s : State) (a : Nat) (l : LineVer) : (s.setLine a l).svcmap = s.svcmap := rfl
@[simp] theorem State.setLine_mwCst (s : State) (a : Nat) (l : LineVer) : (s.setLine a l).mwCst = s.mwCst := rfl
@[simp] theorem State.setLine_mwCmd (s : State) (a : Nat) (l : LineVer) : (s.setLine a l).mwCmd = s.mwCmd := rfl
@[simp] theorem State.setLine_mwFltoff (s : State) (a : Nat) (l : LineVer) : (s.setLine a l).mwFltoff = s.mwFltoff := rfl
@[simp] theorem State.setLine_mwFab (s : State) (a : Nat) (l : LineVer) : (s.setLine a l).mwFab = s.mwFab := rfl
@[simp] theorem State.setLine_mwPol (s : State) (a : Nat) (l : LineVer) : (s.setLine a l).mwPol = s.mwPol := rfl
@[simp] theorem State.setLine_mwOvf (s : State) (a : Nat) (l : LineVer) : (s.setLine a l).mwOvf = s.mwOvf := rfl
@[simp] theorem State.setLine_mwSw (s : State) (a : Nat) (l : LineVer) : (s.setLine a l).mwSw = s.mwSw := rfl
@[simp] theorem State.setLine_mwCxl (s : State) (a : Nat) (l : LineVer) : (s.setLine a l).mwCxl = s.mwCxl := rfl
@[simp] theorem State.setLine_net (s : State) (a : Nat) (l : LineVer) : (s.setLine a l).net = s.net := rfl
@[simp] theorem State.setLine_fabric (s : State) (a : Nat) (l : LineVer) : (s.setLine a l).fabric = s.fabric := rfl
@[simp] theorem State.setLine_pushes (s : State) (a : Nat) (l : LineVer) : (s.setLine a l).pushes = s.pushes := rfl
@[simp] theorem State.setLine_linksDown (s : State) (a : Nat) (l : LineVer) : (s.setLine a l).linksDown = s.linksDown := rfl
@[simp] theorem State.setLine_flts (s : State) (a : Nat) (l : LineVer) : (s.setLine a l).flts = s.flts := rfl
@[simp] theorem State.setLine_fills (s : State) (a : Nat) (l : LineVer) : (s.setLine a l).fills = s.fills := rfl
@[simp] theorem State.setLine_peerCopies (s : State) (a : Nat) (l : LineVer) : (s.setLine a l).peerCopies = s.peerCopies := rfl
@[simp] theorem State.setLine_peerInval (s : State) (a : Nat) (l : LineVer) : (s.setLine a l).peerInval = s.peerInval := rfl
@[simp] theorem State.setLine_peerHeld (s : State) (a : Nat) (l : LineVer) : (s.setLine a l).peerHeld = s.peerHeld := rfl
@[simp] theorem State.setLine_life (s : State) (a : Nat) (l : LineVer) : (s.setLine a l).life = s.life := rfl
@[simp] theorem State.setLine_lifeLog (s : State) (a : Nat) (l : LineVer) : (s.setLine a l).lifeLog = s.lifeLog := rfl
@[simp] theorem State.setLine_powerOn (s : State) (a : Nat) (l : LineVer) : (s.setLine a l).powerOn = s.powerOn := rfl
@[simp] theorem State.setLine_on (s : State) (a : Nat) (l : LineVer) : (s.setLine a l).on = s.on := rfl
@[simp] theorem State.setLine_boot (s : State) (a : Nat) (l : LineVer) : (s.setLine a l).boot = s.boot := rfl
@[simp] theorem State.setLine_inputs (s : State) (a : Nat) (l : LineVer) : (s.setLine a l).inputs = s.inputs := rfl
@[simp] theorem State.setLine_sched (s : State) (a : Nat) (l : LineVer) : (s.setLine a l).sched = s.sched := rfl
@[simp] theorem State.setLine_ev (s : State) (a : Nat) (l : LineVer) : (s.setLine a l).ev = s.ev := rfl
@[simp] theorem State.setLine_free (s : State) (a : Nat) (l : LineVer) : (s.setLine a l).free = s.free := rfl
@[simp] theorem State.setLine_cur (s : State) (a : Nat) (l : LineVer) : (s.setLine a l).cur = s.cur := rfl
@[simp] theorem State.setLine_defers (s : State) (a : Nat) (l : LineVer) : (s.setLine a l).defers = s.defers := rfl
@[simp] theorem State.setLine_nextUid (s : State) (a : Nat) (l : LineVer) : (s.setLine a l).nextUid = s.nextUid := rfl
@[simp] theorem State.setLine_rr (s : State) (a : Nat) (l : LineVer) : (s.setLine a l).rr = s.rr := rfl

/-! ## Time -/

/-- What sending a message changes. -/
theorem State.toNet_eq (s : State) (m : Msg) : ∃ n f u, s.toNet m = { s with net := n, fabric := f, nextUid := u } := by
  unfold State.toNet; dsimp only; split
  · exact ⟨_, s.fabric, _, rfl⟩
  · exact ⟨s.net, _, _, rfl⟩
/-- What a core's depth reports change (R376). -/
theorem State.report_eq (l : List (Nat × Activation)) (s : State) (c : Nat) :
    ∃ co n f u, s.report c l = { s with cores := co, net := n, fabric := f, nextUid := u } := by
  induction l generalizing s with
  | nil => exact ⟨_, _, _, _, rfl⟩
  | cons p l ih =>
    obtain ⟨name, a⟩ := p
    simp only [State.report]
    split
    · exact ih s
    · obtain ⟨n, f, u, e⟩ := State.toNet_eq (s.setCore c { s.core c with lastDepth := fset (s.core c).lastDepth name ((s.core c).tokens name) })
        { kind := 7, vn := 3, sdev := s.rank, src := c, ddev := s.rank, dst := homeCore name, dslot := 15,
          sys := .depth name a.j ((s.core c).tokens name) }
      obtain ⟨co', n', f', u', e'⟩ := ih ((s.setCore c { s.core c with lastDepth := fset (s.core c).lastDepth name ((s.core c).tokens name) }).toHome
        name c (.depth name a.j ((s.core c).tokens name)))
      refine ⟨co', n', f', u', e'.trans ?_⟩
      rw [show (s.setCore c { s.core c with lastDepth := fset (s.core c).lastDepth name ((s.core c).tokens name) }).toHome
        name c (.depth name a.j ((s.core c).tokens name)) = _ from e]
      rfl
/-- What a comparison of every core changes (R376). -/
theorem State.compareDepths_eq (s : State) : ∃ co n f u, s.compareDepths = { s with cores := co, net := n, fabric := f, nextUid := u } := by
  unfold State.compareDepths
  generalize s.cores = l
  induction l generalizing s with
  | nil => exact ⟨_, _, _, _, rfl⟩
  | cons p l ih =>
    obtain ⟨co, n, f, u, e⟩ := State.report_eq p.2.acts s p.1
    obtain ⟨co', n', f', u', e'⟩ := ih (s.report p.1 p.2.acts)
    refine ⟨co', n', f', u', e'.trans ?_⟩
    rw [e]
/-- What the samples of the dies change (R45). -/
theorem State.sampleDies_eq (s : State) (now last : Nat) : ∃ d, s.sampleDies now last = { s with dies := d } := by
  unfold State.sampleDies
  generalize List.range 8 = l
  suffices h : ∀ (l : List Nat) (u : State), (∃ d, u = { s with dies := d }) →
      ∃ d, l.foldl (fun u d =>
        let x := (s.die d).sampleTo (s.pressure d) now last 64
        if x = s.die d then u else u.setDie d x) u = { s with dies := d } from h l s ⟨_, rfl⟩
  intro l
  induction l with
  | nil => exact fun u h => h
  | cons d l ih =>
    rintro u ⟨x, rfl⟩
    refine ih _ ?_
    dsimp only
    split
    · exact ⟨_, rfl⟩
    · exact ⟨_, rfl⟩
/-- What the passing of time changes. -/
theorem State.pass_eq (s : State) (n : Nat) : ∃ co ne f u d lo,
    s.pass n = { s with cores := co, net := ne, fabric := f, nextUid := u, dies := d, lifeLog := lo, cycle := s.cycle + n } := by
  unfold State.pass State.passTo
  dsimp only
  split
  · obtain ⟨co, ne, f, u, e⟩ := State.compareDepths_eq { s with cycle := (s.cycle / 256 + 1) * 256 }
    obtain ⟨d, e'⟩ := State.sampleDies_eq (({ s with cycle := (s.cycle / 256 + 1) * 256 } : State).compareDepths)
      ((s.cycle / 256 + 1) * 256) (s.cycle + n)
    rw [e', e]
    exact ⟨_, _, _, _, _, _, rfl⟩
  · exact ⟨_, _, _, _, _, _, rfl⟩
/-- Within 256 cycles that hold no multiple of 256 only the cycle changes. -/
theorem State.pass_within {s : State} {n : Nat} (h : s.cycle + n < (s.cycle / 256 + 1) * 256) : s.pass n = { s with cycle := s.cycle + n } := by
  unfold State.pass State.passTo
  dsimp only
  rw [if_neg (by omega), if_neg (by omega)]

@[simp] theorem State.pass_clusters (s : State) (n : Nat) : (s.pass n).clusters = s.clusters := by obtain ⟨_, _, _, _, _, _, e⟩ := s.pass_eq n; rw [e]
@[simp] theorem State.pass_hubs (s : State) (n : Nat) : (s.pass n).hubs = s.hubs := by obtain ⟨_, _, _, _, _, _, e⟩ := s.pass_eq n; rw [e]
@[simp] theorem State.pass_dir (s : State) (n : Nat) : (s.pass n).dir = s.dir := by obtain ⟨_, _, _, _, _, _, e⟩ := s.pass_eq n; rw [e]
@[simp] theorem State.pass_mem (s : State) (n : Nat) : (s.pass n).mem = s.mem := by obtain ⟨_, _, _, _, _, _, e⟩ := s.pass_eq n; rw [e]
@[simp] theorem State.pass_ver (s : State) (n : Nat) : (s.pass n).ver = s.ver := by obtain ⟨_, _, _, _, _, _, e⟩ := s.pass_eq n; rw [e]
@[simp] theorem State.pass_stalls (s : State) (n : Nat) : (s.pass n).stalls = s.stalls := by obtain ⟨_, _, _, _, _, _, e⟩ := s.pass_eq n; rw [e]
@[simp] theorem State.pass_acks (s : State) (n : Nat) : (s.pass n).acks = s.acks := by obtain ⟨_, _, _, _, _, _, e⟩ := s.pass_eq n; rw [e]
@[simp] theorem State.pass_hidden (s : State) (n : Nat) : (s.pass n).hidden = s.hidden := by obtain ⟨_, _, _, _, _, _, e⟩ := s.pass_eq n; rw [e]
@[simp] theorem State.pass_fifos (s : State) (n : Nat) : (s.pass n).fifos = s.fifos := by obtain ⟨_, _, _, _, _, _, e⟩ := s.pass_eq n; rw [e]
@[simp] theorem State.pass_conts (s : State) (n : Nat) : (s.pass n).conts = s.conts := by obtain ⟨_, _, _, _, _, _, e⟩ := s.pass_eq n; rw [e]
@[simp] theorem State.pass_halts (s : State) (n : Nat) : (s.pass n).halts = s.halts := by obtain ⟨_, _, _, _, _, _, e⟩ := s.pass_eq n; rw [e]
@[simp] theorem State.pass_ckHalts (s : State) (n : Nat) : (s.pass n).ckHalts = s.ckHalts := by obtain ⟨_, _, _, _, _, _, e⟩ := s.pass_eq n; rw [e]
@[simp] theorem State.pass_svcmap (s : State) (n : Nat) : (s.pass n).svcmap = s.svcmap := by obtain ⟨_, _, _, _, _, _, e⟩ := s.pass_eq n; rw [e]
@[simp] theorem State.pass_mwCst (s : State) (n : Nat) : (s.pass n).mwCst = s.mwCst := by obtain ⟨_, _, _, _, _, _, e⟩ := s.pass_eq n; rw [e]
@[simp] theorem State.pass_mwCmd (s : State) (n : Nat) : (s.pass n).mwCmd = s.mwCmd := by obtain ⟨_, _, _, _, _, _, e⟩ := s.pass_eq n; rw [e]
@[simp] theorem State.pass_mwFltoff (s : State) (n : Nat) : (s.pass n).mwFltoff = s.mwFltoff := by obtain ⟨_, _, _, _, _, _, e⟩ := s.pass_eq n; rw [e]
@[simp] theorem State.pass_mwFab (s : State) (n : Nat) : (s.pass n).mwFab = s.mwFab := by obtain ⟨_, _, _, _, _, _, e⟩ := s.pass_eq n; rw [e]
@[simp] theorem State.pass_mwPol (s : State) (n : Nat) : (s.pass n).mwPol = s.mwPol := by obtain ⟨_, _, _, _, _, _, e⟩ := s.pass_eq n; rw [e]
@[simp] theorem State.pass_mwOvf (s : State) (n : Nat) : (s.pass n).mwOvf = s.mwOvf := by obtain ⟨_, _, _, _, _, _, e⟩ := s.pass_eq n; rw [e]
@[simp] theorem State.pass_mwSw (s : State) (n : Nat) : (s.pass n).mwSw = s.mwSw := by obtain ⟨_, _, _, _, _, _, e⟩ := s.pass_eq n; rw [e]
@[simp] theorem State.pass_mwCxl (s : State) (n : Nat) : (s.pass n).mwCxl = s.mwCxl := by obtain ⟨_, _, _, _, _, _, e⟩ := s.pass_eq n; rw [e]
@[simp] theorem State.pass_pushes (s : State) (n : Nat) : (s.pass n).pushes = s.pushes := by obtain ⟨_, _, _, _, _, _, e⟩ := s.pass_eq n; rw [e]
@[simp] theorem State.pass_linksDown (s : State) (n : Nat) : (s.pass n).linksDown = s.linksDown := by obtain ⟨_, _, _, _, _, _, e⟩ := s.pass_eq n; rw [e]
@[simp] theorem State.pass_flts (s : State) (n : Nat) : (s.pass n).flts = s.flts := by obtain ⟨_, _, _, _, _, _, e⟩ := s.pass_eq n; rw [e]
@[simp] theorem State.pass_fills (s : State) (n : Nat) : (s.pass n).fills = s.fills := by obtain ⟨_, _, _, _, _, _, e⟩ := s.pass_eq n; rw [e]
@[simp] theorem State.pass_peerCopies (s : State) (n : Nat) : (s.pass n).peerCopies = s.peerCopies := by obtain ⟨_, _, _, _, _, _, e⟩ := s.pass_eq n; rw [e]
@[simp] theorem State.pass_peerInval (s : State) (n : Nat) : (s.pass n).peerInval = s.peerInval := by obtain ⟨_, _, _, _, _, _, e⟩ := s.pass_eq n; rw [e]
@[simp] theorem State.pass_peerHeld (s : State) (n : Nat) : (s.pass n).peerHeld = s.peerHeld := by obtain ⟨_, _, _, _, _, _, e⟩ := s.pass_eq n; rw [e]
@[simp] theorem State.pass_life (s : State) (n : Nat) : (s.pass n).life = s.life := by obtain ⟨_, _, _, _, _, _, e⟩ := s.pass_eq n; rw [e]
@[simp] theorem State.pass_powerOn (s : State) (n : Nat) : (s.pass n).powerOn = s.powerOn := by obtain ⟨_, _, _, _, _, _, e⟩ := s.pass_eq n; rw [e]
@[simp] theorem State.pass_on (s : State) (n : Nat) : (s.pass n).on = s.on := by obtain ⟨_, _, _, _, _, _, e⟩ := s.pass_eq n; rw [e]
@[simp] theorem State.pass_boot (s : State) (n : Nat) : (s.pass n).boot = s.boot := by obtain ⟨_, _, _, _, _, _, e⟩ := s.pass_eq n; rw [e]
@[simp] theorem State.pass_inputs (s : State) (n : Nat) : (s.pass n).inputs = s.inputs := by obtain ⟨_, _, _, _, _, _, e⟩ := s.pass_eq n; rw [e]
@[simp] theorem State.pass_sched (s : State) (n : Nat) : (s.pass n).sched = s.sched := by obtain ⟨_, _, _, _, _, _, e⟩ := s.pass_eq n; rw [e]
@[simp] theorem State.pass_ev (s : State) (n : Nat) : (s.pass n).ev = s.ev := by obtain ⟨_, _, _, _, _, _, e⟩ := s.pass_eq n; rw [e]
@[simp] theorem State.pass_free (s : State) (n : Nat) : (s.pass n).free = s.free := by obtain ⟨_, _, _, _, _, _, e⟩ := s.pass_eq n; rw [e]
@[simp] theorem State.pass_cur (s : State) (n : Nat) : (s.pass n).cur = s.cur := by obtain ⟨_, _, _, _, _, _, e⟩ := s.pass_eq n; rw [e]
@[simp] theorem State.pass_defers (s : State) (n : Nat) : (s.pass n).defers = s.defers := by obtain ⟨_, _, _, _, _, _, e⟩ := s.pass_eq n; rw [e]
@[simp] theorem State.pass_rr (s : State) (n : Nat) : (s.pass n).rr = s.rr := by obtain ⟨_, _, _, _, _, _, e⟩ := s.pass_eq n; rw [e]
@[simp] theorem State.pass_cycle (s : State) (n : Nat) : (s.pass n).cycle = s.cycle + n := by obtain ⟨_, _, _, _, _, _, e⟩ := s.pass_eq n; rw [e]

/-! ## Core.setThr -/

@[simp] theorem Core.setThr_v (x : Core) (t : Nat) (y : Thread) : (x.setThr t y).v = x.v := rfl
@[simp] theorem Core.setThr_kage (x : Core) (t : Nat) (y : Thread) : (x.setThr t y).kage = x.kage := rfl
@[simp] theorem Core.setThr_kpre (x : Core) (t : Nat) (y : Thread) : (x.setThr t y).kpre = x.kpre := rfl
@[simp] theorem Core.setThr_kvwait (x : Core) (t : Nat) (y : Thread) : (x.setThr t y).kvwait = x.kvwait := rfl
@[simp] theorem Core.setThr_acc (x : Core) (t : Nat) (y : Thread) : (x.setThr t y).acc = x.acc := rfl
@[simp] theorem Core.setThr_wbuf (x : Core) (t : Nat) (y : Thread) : (x.setThr t y).wbuf = x.wbuf := rfl
@[simp] theorem Core.setThr_mq (x : Core) (t : Nat) (y : Thread) : (x.setThr t y).mq = x.mq := rfl
@[simp] theorem Core.setThr_mrun (x : Core) (t : Nat) (y : Thread) : (x.setThr t y).mrun = x.mrun := rfl
@[simp] theorem Core.setThr_mrows (x : Core) (t : Nat) (y : Thread) : (x.setThr t y).mrows = x.mrows := rfl
@[simp] theorem Core.setThr_rowSlots (x : Core) (t : Nat) (y : Thread) : (x.setThr t y).rowSlots = x.rowSlots := rfl
@[simp] theorem Core.setThr_env (x : Core) (t : Nat) (y : Thread) : (x.setThr t y).env = x.env := rfl
@[simp] theorem Core.setThr_rq (x : Core) (t : Nat) (y : Thread) : (x.setThr t y).rq = x.rq := rfl
@[simp] theorem Core.setThr_envPend (x : Core) (t : Nat) (y : Thread) : (x.setThr t y).envPend = x.envPend := rfl
@[simp] theorem Core.setThr_lathe (x : Core) (t : Nat) (y : Thread) : (x.setThr t y).lathe = x.lathe := rfl
@[simp] theorem Core.setThr_vxq (x : Core) (t : Nat) (y : Thread) : (x.setThr t y).vxq = x.vxq := rfl
@[simp] theorem Core.setThr_inbox (x : Core) (t : Nat) (y : Thread) : (x.setThr t y).inbox = x.inbox := rfl
@[simp] theorem Core.setThr_outbox (x : Core) (t : Nat) (y : Thread) : (x.setThr t y).outbox = x.outbox := rfl
@[simp] theorem Core.setThr_spill (x : Core) (t : Nat) (y : Thread) : (x.setThr t y).spill = x.spill := rfl
@[simp] theorem Core.setThr_spillRes (x : Core) (t : Nat) (y : Thread) : (x.setThr t y).spillRes = x.spillRes := rfl
@[simp] theorem Core.setThr_spillFlt (x : Core) (t : Nat) (y : Thread) : (x.setThr t y).spillFlt = x.spillFlt := rfl
@[simp] theorem Core.setThr_parked (x : Core) (t : Nat) (y : Thread) : (x.setThr t y).parked = x.parked := rfl
@[simp] theorem Core.setThr_absent (x : Core) (t : Nat) (y : Thread) : (x.setThr t y).absent = x.absent := rfl
@[simp] theorem Core.setThr_qi (x : Core) (t : Nat) (y : Thread) : (x.setThr t y).qi = x.qi := rfl
@[simp] theorem Core.setThr_qrun (x : Core) (t : Nat) (y : Thread) : (x.setThr t y).qrun = x.qrun := rfl
@[simp] theorem Core.setThr_qo (x : Core) (t : Nat) (y : Thread) : (x.setThr t y).qo = x.qo := rfl
@[simp] theorem Core.setThr_pushSeq (x : Core) (t : Nat) (y : Thread) : (x.setThr t y).pushSeq = x.pushSeq := rfl
@[simp] theorem Core.setThr_dispSeq (x : Core) (t : Nat) (y : Thread) : (x.setThr t y).dispSeq = x.dispSeq := rfl
@[simp] theorem Core.setThr_ring (x : Core) (t : Nat) (y : Thread) : (x.setThr t y).ring = x.ring := rfl
@[simp] theorem Core.setThr_issued (x : Core) (t : Nat) (y : Thread) : (x.setThr t y).issued = x.issued := rfl
@[simp] theorem Core.setThr_dropPf (x : Core) (t : Nat) (y : Thread) : (x.setThr t y).dropPf = x.dropPf := rfl
@[simp] theorem Core.setThr_refault (x : Core) (t : Nat) (y : Thread) : (x.setThr t y).refault = x.refault := rfl
@[simp] theorem Core.setThr_deadlock (x : Core) (t : Nat) (y : Thread) : (x.setThr t y).deadlock = x.deadlock := rfl
@[simp] theorem Core.setThr_discarded (x : Core) (t : Nat) (y : Thread) : (x.setThr t y).discarded = x.discarded := rfl
@[simp] theorem Core.setThr_groups (x : Core) (t : Nat) (y : Thread) : (x.setThr t y).groups = x.groups := rfl
@[simp] theorem Core.setThr_tree (x : Core) (t : Nat) (y : Thread) : (x.setThr t y).tree = x.tree := rfl
@[simp] theorem Core.setThr_cap (x : Core) (t : Nat) (y : Thread) : (x.setThr t y).cap = x.cap := rfl
@[simp] theorem Core.setThr_capab (x : Core) (t : Nat) (y : Thread) : (x.setThr t y).capab = x.capab := rfl
@[simp] theorem Core.setThr_fwd (x : Core) (t : Nat) (y : Thread) : (x.setThr t y).fwd = x.fwd := rfl
@[simp] theorem Core.setThr_fwExp (x : Core) (t : Nat) (y : Thread) : (x.setThr t y).fwExp = x.fwExp := rfl
@[simp] theorem Core.setThr_fwMig (x : Core) (t : Nat) (y : Thread) : (x.setThr t y).fwMig = x.fwMig := rfl
@[simp] theorem Core.setThr_acts (x : Core) (t : Nat) (y : Thread) : (x.setThr t y).acts = x.acts := rfl
@[simp] theorem Core.setThr_claims (x : Core) (t : Nat) (y : Thread) : (x.setThr t y).claims = x.claims := rfl
@[simp] theorem Core.setThr_copies (x : Core) (t : Nat) (y : Thread) : (x.setThr t y).copies = x.copies := rfl
@[simp] theorem Core.setThr_lastDepth (x : Core) (t : Nat) (y : Thread) : (x.setThr t y).lastDepth = x.lastDepth := rfl
@[simp] theorem Core.setThr_itlb (x : Core) (t : Nat) (y : Thread) : (x.setThr t y).itlb = x.itlb := rfl
@[simp] theorem Core.setThr_dtlb (x : Core) (t : Nat) (y : Thread) : (x.setThr t y).dtlb = x.dtlb := rfl
@[simp] theorem Core.setThr_icache (x : Core) (t : Nat) (y : Thread) : (x.setThr t y).icache = x.icache := rfl
@[simp] theorem Core.setThr_freed (x : Core) (t : Nat) (y : Thread) : (x.setThr t y).freed = x.freed := rfl
@[simp] theorem Core.setThr_gen (x : Core) (t : Nat) (y : Thread) : (x.setThr t y).gen = x.gen := rfl
@[simp] theorem Core.setThr_learned (x : Core) (t : Nat) (y : Thread) : (x.setThr t y).learned = x.learned := rfl
@[simp] theorem Core.setThr_gradq (x : Core) (t : Nat) (y : Thread) : (x.setThr t y).gradq = x.gradq := rfl

/-! ## Core.setV -/

@[simp] theorem Core.setV_threads (x : Core) (n : Nat) (v : VReg) : (x.setV n v).threads = x.threads := rfl
@[simp] theorem Core.setV_kage (x : Core) (n : Nat) (v : VReg) : (x.setV n v).kage = x.kage := rfl
@[simp] theorem Core.setV_kpre (x : Core) (n : Nat) (v : VReg) : (x.setV n v).kpre = x.kpre := rfl
@[simp] theorem Core.setV_kvwait (x : Core) (n : Nat) (v : VReg) : (x.setV n v).kvwait = x.kvwait := rfl
@[simp] theorem Core.setV_acc (x : Core) (n : Nat) (v : VReg) : (x.setV n v).acc = x.acc := rfl
@[simp] theorem Core.setV_wbuf (x : Core) (n : Nat) (v : VReg) : (x.setV n v).wbuf = x.wbuf := rfl
@[simp] theorem Core.setV_mq (x : Core) (n : Nat) (v : VReg) : (x.setV n v).mq = x.mq := rfl
@[simp] theorem Core.setV_mrun (x : Core) (n : Nat) (v : VReg) : (x.setV n v).mrun = x.mrun := rfl
@[simp] theorem Core.setV_mrows (x : Core) (n : Nat) (v : VReg) : (x.setV n v).mrows = x.mrows := rfl
@[simp] theorem Core.setV_rowSlots (x : Core) (n : Nat) (v : VReg) : (x.setV n v).rowSlots = x.rowSlots := rfl
@[simp] theorem Core.setV_env (x : Core) (n : Nat) (v : VReg) : (x.setV n v).env = x.env := rfl
@[simp] theorem Core.setV_rq (x : Core) (n : Nat) (v : VReg) : (x.setV n v).rq = x.rq := rfl
@[simp] theorem Core.setV_envPend (x : Core) (n : Nat) (v : VReg) : (x.setV n v).envPend = x.envPend := rfl
@[simp] theorem Core.setV_lathe (x : Core) (n : Nat) (v : VReg) : (x.setV n v).lathe = x.lathe := rfl
@[simp] theorem Core.setV_vxq (x : Core) (n : Nat) (v : VReg) : (x.setV n v).vxq = x.vxq := rfl
@[simp] theorem Core.setV_inbox (x : Core) (n : Nat) (v : VReg) : (x.setV n v).inbox = x.inbox := rfl
@[simp] theorem Core.setV_outbox (x : Core) (n : Nat) (v : VReg) : (x.setV n v).outbox = x.outbox := rfl
@[simp] theorem Core.setV_spill (x : Core) (n : Nat) (v : VReg) : (x.setV n v).spill = x.spill := rfl
@[simp] theorem Core.setV_spillRes (x : Core) (n : Nat) (v : VReg) : (x.setV n v).spillRes = x.spillRes := rfl
@[simp] theorem Core.setV_spillFlt (x : Core) (n : Nat) (v : VReg) : (x.setV n v).spillFlt = x.spillFlt := rfl
@[simp] theorem Core.setV_parked (x : Core) (n : Nat) (v : VReg) : (x.setV n v).parked = x.parked := rfl
@[simp] theorem Core.setV_absent (x : Core) (n : Nat) (v : VReg) : (x.setV n v).absent = x.absent := rfl
@[simp] theorem Core.setV_qi (x : Core) (n : Nat) (v : VReg) : (x.setV n v).qi = x.qi := rfl
@[simp] theorem Core.setV_qrun (x : Core) (n : Nat) (v : VReg) : (x.setV n v).qrun = x.qrun := rfl
@[simp] theorem Core.setV_qo (x : Core) (n : Nat) (v : VReg) : (x.setV n v).qo = x.qo := rfl
@[simp] theorem Core.setV_pushSeq (x : Core) (n : Nat) (v : VReg) : (x.setV n v).pushSeq = x.pushSeq := rfl
@[simp] theorem Core.setV_dispSeq (x : Core) (n : Nat) (v : VReg) : (x.setV n v).dispSeq = x.dispSeq := rfl
@[simp] theorem Core.setV_ring (x : Core) (n : Nat) (v : VReg) : (x.setV n v).ring = x.ring := rfl
@[simp] theorem Core.setV_issued (x : Core) (n : Nat) (v : VReg) : (x.setV n v).issued = x.issued := rfl
@[simp] theorem Core.setV_dropPf (x : Core) (n : Nat) (v : VReg) : (x.setV n v).dropPf = x.dropPf := rfl
@[simp] theorem Core.setV_refault (x : Core) (n : Nat) (v : VReg) : (x.setV n v).refault = x.refault := rfl
@[simp] theorem Core.setV_deadlock (x : Core) (n : Nat) (v : VReg) : (x.setV n v).deadlock = x.deadlock := rfl
@[simp] theorem Core.setV_discarded (x : Core) (n : Nat) (v : VReg) : (x.setV n v).discarded = x.discarded := rfl
@[simp] theorem Core.setV_groups (x : Core) (n : Nat) (v : VReg) : (x.setV n v).groups = x.groups := rfl
@[simp] theorem Core.setV_tree (x : Core) (n : Nat) (v : VReg) : (x.setV n v).tree = x.tree := rfl
@[simp] theorem Core.setV_cap (x : Core) (n : Nat) (v : VReg) : (x.setV n v).cap = x.cap := rfl
@[simp] theorem Core.setV_capab (x : Core) (n : Nat) (v : VReg) : (x.setV n v).capab = x.capab := rfl
@[simp] theorem Core.setV_fwd (x : Core) (n : Nat) (v : VReg) : (x.setV n v).fwd = x.fwd := rfl
@[simp] theorem Core.setV_fwExp (x : Core) (n : Nat) (v : VReg) : (x.setV n v).fwExp = x.fwExp := rfl
@[simp] theorem Core.setV_fwMig (x : Core) (n : Nat) (v : VReg) : (x.setV n v).fwMig = x.fwMig := rfl
@[simp] theorem Core.setV_acts (x : Core) (n : Nat) (v : VReg) : (x.setV n v).acts = x.acts := rfl
@[simp] theorem Core.setV_claims (x : Core) (n : Nat) (v : VReg) : (x.setV n v).claims = x.claims := rfl
@[simp] theorem Core.setV_copies (x : Core) (n : Nat) (v : VReg) : (x.setV n v).copies = x.copies := rfl
@[simp] theorem Core.setV_lastDepth (x : Core) (n : Nat) (v : VReg) : (x.setV n v).lastDepth = x.lastDepth := rfl
@[simp] theorem Core.setV_itlb (x : Core) (n : Nat) (v : VReg) : (x.setV n v).itlb = x.itlb := rfl
@[simp] theorem Core.setV_dtlb (x : Core) (n : Nat) (v : VReg) : (x.setV n v).dtlb = x.dtlb := rfl
@[simp] theorem Core.setV_icache (x : Core) (n : Nat) (v : VReg) : (x.setV n v).icache = x.icache := rfl
@[simp] theorem Core.setV_freed (x : Core) (n : Nat) (v : VReg) : (x.setV n v).freed = x.freed := rfl
@[simp] theorem Core.setV_gen (x : Core) (n : Nat) (v : VReg) : (x.setV n v).gen = x.gen := rfl
@[simp] theorem Core.setV_learned (x : Core) (n : Nat) (v : VReg) : (x.setV n v).learned = x.learned := rfl
@[simp] theorem Core.setV_gradq (x : Core) (n : Nat) (v : VReg) : (x.setV n v).gradq = x.gradq := rfl

/-! ## Thread.setPred -/

@[simp] theorem Thread.setPred_live (t : Thread) (n : Nat) (v : Pred) : (t.setPred n v).live = t.live := rfl
@[simp] theorem Thread.setPred_uid (t : Thread) (n : Nat) (v : Pred) : (t.setPred n v).uid = t.uid := rfl
@[simp] theorem Thread.setPred_g (t : Thread) (n : Nat) (v : Pred) : (t.setPred n v).g = t.g := rfl
@[simp] theorem Thread.setPred_pc (t : Thread) (n : Nat) (v : Pred) : (t.setPred n v).pc = t.pc := rfl
@[simp] theorem Thread.setPred_kfmtA (t : Thread) (n : Nat) (v : Pred) : (t.setPred n v).kfmtA = t.kfmtA := rfl
@[simp] theorem Thread.setPred_kfmtB (t : Thread) (n : Nat) (v : Pred) : (t.setPred n v).kfmtB = t.kfmtB := rfl
@[simp] theorem Thread.setPred_kfmtC (t : Thread) (n : Nat) (v : Pred) : (t.setPred n v).kfmtC = t.kfmtC := rfl
@[simp] theorem Thread.setPred_ksclA (t : Thread) (n : Nat) (v : Pred) : (t.setPred n v).ksclA = t.ksclA := rfl
@[simp] theorem Thread.setPred_ksclB (t : Thread) (n : Nat) (v : Pred) : (t.setPred n v).ksclB = t.ksclB := rfl
@[simp] theorem Thread.setPred_kround (t : Thread) (n : Nat) (v : Pred) : (t.setPred n v).kround = t.kround := rfl
@[simp] theorem Thread.setPred_kflags (t : Thread) (n : Nat) (v : Pred) : (t.setPred n v).kflags = t.kflags := rfl
@[simp] theorem Thread.setPred_kvwin (t : Thread) (n : Nat) (v : Pred) : (t.setPred n v).kvwin = t.kvwin := rfl
@[simp] theorem Thread.setPred_krole (t : Thread) (n : Nat) (v : Pred) : (t.setPred n v).krole = t.krole := rfl
@[simp] theorem Thread.setPred_kmig (t : Thread) (n : Nat) (v : Pred) : (t.setPred n v).kmig = t.kmig := rfl
@[simp] theorem Thread.setPred_kstep (t : Thread) (n : Nat) (v : Pred) : (t.setPred n v).kstep = t.kstep := rfl
@[simp] theorem Thread.setPred_kstage (t : Thread) (n : Nat) (v : Pred) : (t.setPred n v).kstage = t.kstage := rfl
@[simp] theorem Thread.setPred_kseq (t : Thread) (n : Nat) (v : Pred) : (t.setPred n v).kseq = t.kseq := rfl
@[simp] theorem Thread.setPred_ktol (t : Thread) (n : Nat) (v : Pred) : (t.setPred n v).ktol = t.ktol := rfl
@[simp] theorem Thread.setPred_kenv (t : Thread) (n : Nat) (v : Pred) : (t.setPred n v).kenv = t.kenv := rfl
@[simp] theorem Thread.setPred_ktrap (t : Thread) (n : Nat) (v : Pred) : (t.setPred n v).ktrap = t.ktrap := rfl
@[simp] theorem Thread.setPred_pend (t : Thread) (n : Nat) (v : Pred) : (t.setPred n v).pend = t.pend := rfl
@[simp] theorem Thread.setPred_age (t : Thread) (n : Nat) (v : Pred) : (t.setPred n v).age = t.age := rfl
@[simp] theorem Thread.setPred_promoted (t : Thread) (n : Nat) (v : Pred) : (t.setPred n v).promoted = t.promoted := rfl
@[simp] theorem Thread.setPred_readyAt (t : Thread) (n : Nat) (v : Pred) : (t.setPred n v).readyAt = t.readyAt := rfl
@[simp] theorem Thread.setPred_safeCount (t : Thread) (n : Nat) (v : Pred) : (t.setPred n v).safeCount = t.safeCount := rfl
@[simp] theorem Thread.setPred_sendCtr (t : Thread) (n : Nat) (v : Pred) : (t.setPred n v).sendCtr = t.sendCtr := rfl
@[simp] theorem Thread.setPred_credits (t : Thread) (n : Nat) (v : Pred) : (t.setPred n v).credits = t.credits := rfl
@[simp] theorem Thread.setPred_outs (t : Thread) (n : Nat) (v : Pred) : (t.setPred n v).outs = t.outs := rfl
@[simp] theorem Thread.setPred_nextOut (t : Thread) (n : Nat) (v : Pred) : (t.setPred n v).nextOut = t.nextOut := rfl
@[simp] theorem Thread.setPred_held (t : Thread) (n : Nat) (v : Pred) : (t.setPred n v).held = t.held := rfl
@[simp] theorem Thread.setPred_heldPc (t : Thread) (n : Nat) (v : Pred) : (t.setPred n v).heldPc = t.heldPc := rfl
@[simp] theorem Thread.setPred_blk (t : Thread) (n : Nat) (v : Pred) : (t.setPred n v).blk = t.blk := rfl
@[simp] theorem Thread.setPred_timer (t : Thread) (n : Nat) (v : Pred) : (t.setPred n v).timer = t.timer := rfl
@[simp] theorem Thread.setPred_rtimer (t : Thread) (n : Nat) (v : Pred) : (t.setPred n v).rtimer = t.rtimer := rfl
@[simp] theorem Thread.setPred_timedOut (t : Thread) (n : Nat) (v : Pred) : (t.setPred n v).timedOut = t.timedOut := rfl
@[simp] theorem Thread.setPred_gang (t : Thread) (n : Nat) (v : Pred) : (t.setPred n v).gang = t.gang := rfl
@[simp] theorem Thread.setPred_drupe (t : Thread) (n : Nat) (v : Pred) : (t.setPred n v).drupe = t.drupe := rfl
@[simp] theorem Thread.setPred_acquired (t : Thread) (n : Nat) (v : Pred) : (t.setPred n v).acquired = t.acquired := rfl
@[simp] theorem Thread.setPred_consumed (t : Thread) (n : Nat) (v : Pred) : (t.setPred n v).consumed = t.consumed := rfl
@[simp] theorem Thread.setPred_launch (t : Thread) (n : Nat) (v : Pred) : (t.setPred n v).launch = t.launch := rfl
@[simp] theorem Thread.setPred_cont (t : Thread) (n : Nat) (v : Pred) : (t.setPred n v).cont = t.cont := rfl
@[simp] theorem Thread.setPred_replica (t : Thread) (n : Nat) (v : Pred) : (t.setPred n v).replica = t.replica := rfl
@[simp] theorem Thread.setPred_retried (t : Thread) (n : Nat) (v : Pred) : (t.setPred n v).retried = t.retried := rfl
@[simp] theorem Thread.setPred_refetch (t : Thread) (n : Nat) (v : Pred) : (t.setPred n v).refetch = t.refetch := rfl
@[simp] theorem Thread.setPred_rowCopy (t : Thread) (n : Nat) (v : Pred) : (t.setPred n v).rowCopy = t.rowCopy := rfl
@[simp] theorem Thread.setPred_deferred (t : Thread) (n : Nat) (v : Pred) : (t.setPred n v).deferred = t.deferred := rfl
@[simp] theorem Thread.setPred_fenced (t : Thread) (n : Nat) (v : Pred) : (t.setPred n v).fenced = t.fenced := rfl
@[simp] theorem Thread.setPred_part (t : Thread) (n : Nat) (v : Pred) : (t.setPred n v).part = t.part := rfl
@[simp] theorem Thread.setPred_after (t : Thread) (n : Nat) (v : Pred) : (t.setPred n v).after = t.after := rfl
@[simp] theorem Thread.setPred_migReq (t : Thread) (n : Nat) (v : Pred) : (t.setPred n v).migReq = t.migReq := rfl

/-- `setReg` replaces the register file alone. -/
theorem Thread.setReg_eq (t : Thread) (n : Nat) (v : Word) : t.setReg n v = { t with g := (t.setReg n v).g } := by
  unfold Thread.setReg; split <;> rfl

/-! ## Thread.setReg -/

@[simp] theorem Thread.setReg_live (t : Thread) (n : Nat) (v : Word) : (t.setReg n v).live = t.live := by rw [Thread.setReg_eq]
@[simp] theorem Thread.setReg_uid (t : Thread) (n : Nat) (v : Word) : (t.setReg n v).uid = t.uid := by rw [Thread.setReg_eq]
@[simp] theorem Thread.setReg_pc (t : Thread) (n : Nat) (v : Word) : (t.setReg n v).pc = t.pc := by rw [Thread.setReg_eq]
@[simp] theorem Thread.setReg_kfmtA (t : Thread) (n : Nat) (v : Word) : (t.setReg n v).kfmtA = t.kfmtA := by rw [Thread.setReg_eq]
@[simp] theorem Thread.setReg_kfmtB (t : Thread) (n : Nat) (v : Word) : (t.setReg n v).kfmtB = t.kfmtB := by rw [Thread.setReg_eq]
@[simp] theorem Thread.setReg_kfmtC (t : Thread) (n : Nat) (v : Word) : (t.setReg n v).kfmtC = t.kfmtC := by rw [Thread.setReg_eq]
@[simp] theorem Thread.setReg_ksclA (t : Thread) (n : Nat) (v : Word) : (t.setReg n v).ksclA = t.ksclA := by rw [Thread.setReg_eq]
@[simp] theorem Thread.setReg_ksclB (t : Thread) (n : Nat) (v : Word) : (t.setReg n v).ksclB = t.ksclB := by rw [Thread.setReg_eq]
@[simp] theorem Thread.setReg_kround (t : Thread) (n : Nat) (v : Word) : (t.setReg n v).kround = t.kround := by rw [Thread.setReg_eq]
@[simp] theorem Thread.setReg_kflags (t : Thread) (n : Nat) (v : Word) : (t.setReg n v).kflags = t.kflags := by rw [Thread.setReg_eq]
@[simp] theorem Thread.setReg_kvwin (t : Thread) (n : Nat) (v : Word) : (t.setReg n v).kvwin = t.kvwin := by rw [Thread.setReg_eq]
@[simp] theorem Thread.setReg_krole (t : Thread) (n : Nat) (v : Word) : (t.setReg n v).krole = t.krole := by rw [Thread.setReg_eq]
@[simp] theorem Thread.setReg_kmig (t : Thread) (n : Nat) (v : Word) : (t.setReg n v).kmig = t.kmig := by rw [Thread.setReg_eq]
@[simp] theorem Thread.setReg_kstep (t : Thread) (n : Nat) (v : Word) : (t.setReg n v).kstep = t.kstep := by rw [Thread.setReg_eq]
@[simp] theorem Thread.setReg_kstage (t : Thread) (n : Nat) (v : Word) : (t.setReg n v).kstage = t.kstage := by rw [Thread.setReg_eq]
@[simp] theorem Thread.setReg_kseq (t : Thread) (n : Nat) (v : Word) : (t.setReg n v).kseq = t.kseq := by rw [Thread.setReg_eq]
@[simp] theorem Thread.setReg_ktol (t : Thread) (n : Nat) (v : Word) : (t.setReg n v).ktol = t.ktol := by rw [Thread.setReg_eq]
@[simp] theorem Thread.setReg_kenv (t : Thread) (n : Nat) (v : Word) : (t.setReg n v).kenv = t.kenv := by rw [Thread.setReg_eq]
@[simp] theorem Thread.setReg_ktrap (t : Thread) (n : Nat) (v : Word) : (t.setReg n v).ktrap = t.ktrap := by rw [Thread.setReg_eq]
@[simp] theorem Thread.setReg_p (t : Thread) (n : Nat) (v : Word) : (t.setReg n v).p = t.p := by rw [Thread.setReg_eq]
@[simp] theorem Thread.setReg_pend (t : Thread) (n : Nat) (v : Word) : (t.setReg n v).pend = t.pend := by rw [Thread.setReg_eq]
@[simp] theorem Thread.setReg_age (t : Thread) (n : Nat) (v : Word) : (t.setReg n v).age = t.age := by rw [Thread.setReg_eq]
@[simp] theorem Thread.setReg_promoted (t : Thread) (n : Nat) (v : Word) : (t.setReg n v).promoted = t.promoted := by rw [Thread.setReg_eq]
@[simp] theorem Thread.setReg_readyAt (t : Thread) (n : Nat) (v : Word) : (t.setReg n v).readyAt = t.readyAt := by rw [Thread.setReg_eq]
@[simp] theorem Thread.setReg_safeCount (t : Thread) (n : Nat) (v : Word) : (t.setReg n v).safeCount = t.safeCount := by rw [Thread.setReg_eq]
@[simp] theorem Thread.setReg_sendCtr (t : Thread) (n : Nat) (v : Word) : (t.setReg n v).sendCtr = t.sendCtr := by rw [Thread.setReg_eq]
@[simp] theorem Thread.setReg_credits (t : Thread) (n : Nat) (v : Word) : (t.setReg n v).credits = t.credits := by rw [Thread.setReg_eq]
@[simp] theorem Thread.setReg_outs (t : Thread) (n : Nat) (v : Word) : (t.setReg n v).outs = t.outs := by rw [Thread.setReg_eq]
@[simp] theorem Thread.setReg_nextOut (t : Thread) (n : Nat) (v : Word) : (t.setReg n v).nextOut = t.nextOut := by rw [Thread.setReg_eq]
@[simp] theorem Thread.setReg_held (t : Thread) (n : Nat) (v : Word) : (t.setReg n v).held = t.held := by rw [Thread.setReg_eq]
@[simp] theorem Thread.setReg_heldPc (t : Thread) (n : Nat) (v : Word) : (t.setReg n v).heldPc = t.heldPc := by rw [Thread.setReg_eq]
@[simp] theorem Thread.setReg_blk (t : Thread) (n : Nat) (v : Word) : (t.setReg n v).blk = t.blk := by rw [Thread.setReg_eq]
@[simp] theorem Thread.setReg_timer (t : Thread) (n : Nat) (v : Word) : (t.setReg n v).timer = t.timer := by rw [Thread.setReg_eq]
@[simp] theorem Thread.setReg_rtimer (t : Thread) (n : Nat) (v : Word) : (t.setReg n v).rtimer = t.rtimer := by rw [Thread.setReg_eq]
@[simp] theorem Thread.setReg_timedOut (t : Thread) (n : Nat) (v : Word) : (t.setReg n v).timedOut = t.timedOut := by rw [Thread.setReg_eq]
@[simp] theorem Thread.setReg_gang (t : Thread) (n : Nat) (v : Word) : (t.setReg n v).gang = t.gang := by rw [Thread.setReg_eq]
@[simp] theorem Thread.setReg_drupe (t : Thread) (n : Nat) (v : Word) : (t.setReg n v).drupe = t.drupe := by rw [Thread.setReg_eq]
@[simp] theorem Thread.setReg_acquired (t : Thread) (n : Nat) (v : Word) : (t.setReg n v).acquired = t.acquired := by rw [Thread.setReg_eq]
@[simp] theorem Thread.setReg_consumed (t : Thread) (n : Nat) (v : Word) : (t.setReg n v).consumed = t.consumed := by rw [Thread.setReg_eq]
@[simp] theorem Thread.setReg_launch (t : Thread) (n : Nat) (v : Word) : (t.setReg n v).launch = t.launch := by rw [Thread.setReg_eq]
@[simp] theorem Thread.setReg_cont (t : Thread) (n : Nat) (v : Word) : (t.setReg n v).cont = t.cont := by rw [Thread.setReg_eq]
@[simp] theorem Thread.setReg_replica (t : Thread) (n : Nat) (v : Word) : (t.setReg n v).replica = t.replica := by rw [Thread.setReg_eq]
@[simp] theorem Thread.setReg_retried (t : Thread) (n : Nat) (v : Word) : (t.setReg n v).retried = t.retried := by rw [Thread.setReg_eq]
@[simp] theorem Thread.setReg_refetch (t : Thread) (n : Nat) (v : Word) : (t.setReg n v).refetch = t.refetch := by rw [Thread.setReg_eq]
@[simp] theorem Thread.setReg_rowCopy (t : Thread) (n : Nat) (v : Word) : (t.setReg n v).rowCopy = t.rowCopy := by rw [Thread.setReg_eq]
@[simp] theorem Thread.setReg_deferred (t : Thread) (n : Nat) (v : Word) : (t.setReg n v).deferred = t.deferred := by rw [Thread.setReg_eq]
@[simp] theorem Thread.setReg_fenced (t : Thread) (n : Nat) (v : Word) : (t.setReg n v).fenced = t.fenced := by rw [Thread.setReg_eq]
@[simp] theorem Thread.setReg_part (t : Thread) (n : Nat) (v : Word) : (t.setReg n v).part = t.part := by rw [Thread.setReg_eq]
@[simp] theorem Thread.setReg_after (t : Thread) (n : Nat) (v : Word) : (t.setReg n v).after = t.after := by rw [Thread.setReg_eq]
@[simp] theorem Thread.setReg_migReq (t : Thread) (n : Nat) (v : Word) : (t.setReg n v).migReq = t.migReq := by rw [Thread.setReg_eq]

end Sys2Proof.Machine
end

