-- ==== Sys2Proof/Laws/Registers.lean ====
section
/-! SUPPORT. Laws of the places state lives in: a core, a thread or a register read after a write, and `g0`. -/

namespace Sys2Proof.Machine

/-! ## Cores and threads -/

@[simp] theorem State.core_setCore (s : State) (c : Nat) (x : Core) : (s.setCore c x).core c = x := fget_fset_same _ _ _ _
theorem State.core_setCore_ne (s : State) {c d : Nat} (x : Core) (h : d ≠ c) : (s.setCore c x).core d = s.core d :=
  fget_fset_ne _ _ _ h
@[simp] theorem Core.thr_setThr (x : Core) (t : Nat) (y : Thread) : (x.setThr t y).thr t = y := fget_fset_same _ _ _ _
theorem Core.thr_setThr_ne (x : Core) {t u : Nat} (y : Thread) (h : u ≠ t) : (x.setThr t y).thr u = x.thr u :=
  fget_fset_ne _ _ _ h
@[simp] theorem State.thr_setThr (s : State) (c t : Nat) (y : Thread) : (s.setThr c t y).thr c t = y := by
  simp [State.thr, State.setThr]
theorem State.thr_setThr_ne (s : State) {c t d u : Nat} (y : Thread) (h : d ≠ c ∨ u ≠ t) :
    (s.setThr c t y).thr d u = s.thr d u := by
  by_cases hd : d = c
  · subst hd; simp [State.thr, State.setThr, Core.thr_setThr_ne _ y (h.resolve_left (by simp))]
  · simp [State.thr, State.setThr, State.core_setCore_ne s _ hd]
@[simp] theorem State.me_modMe (s : State) (f : Thread → Thread) : (s.modMe f).me = f s.me := by
  simp [State.me, State.modMe]
theorem State.thr_modMe_ne (s : State) (f : Thread → Thread) {c t : Nat} (h : c ≠ s.cur.core ∨ t ≠ s.cur.slot) :
    (s.modMe f).thr c t = s.thr c t := State.thr_setThr_ne s _ h
@[simp] theorem State.here_modHere (s : State) (f : Core → Core) : (s.modHere f).here = f s.here := by
  simp [State.here, State.modHere]
theorem State.core_modMe_ne (s : State) (f : Thread → Thread) {c : Nat} (h : c ≠ s.cur.core) : (s.modMe f).core c = s.core c :=
  State.core_setCore_ne s _ h
/-- `modMe` changes only the executing thread of its core. -/
theorem State.here_modMe (s : State) (f : Thread → Thread) : (s.modMe f).here = s.here.setThr s.cur.slot (f s.me) := by
  simp [State.here, State.modMe, State.setThr]

/-! ## Scalar registers -/

@[simp] theorem Thread.reg_zero (t : Thread) : t.reg 0 = 0 := by simp [Thread.reg]
/-- A write to `g0` is discarded. -/
theorem Thread.setReg_zero (t : Thread) (v : Word) : t.setReg 0 v = t := by simp [Thread.setReg]
/-- A register after a write: `g0` reads 0, the one written its value, every other as before. -/
theorem Thread.reg_setReg (t : Thread) (n k : Nat) (v : Word) (hn : n < 16) (hk : k < 16) :
    (t.setReg n v).reg k = if k = n ∧ n ≠ 0 then v else t.reg k := by
  simp only [Thread.reg, Thread.setReg, Nat.mod_eq_of_lt hn, Nat.mod_eq_of_lt hk]
  by_cases h0 : n = 0
  · simp [h0]
  · by_cases hk0 : k = 0
    · simp [h0, hk0]; omega
    · simp only [h0, hk0, if_false]
      by_cases hkn : k = n
      · subst hkn; simp [h0]
      · simp [hkn, Ne.symm hkn]
/-- A predicate after a write. -/
theorem Thread.pred_setPred (t : Thread) (n k : Nat) (v : Pred) (hn : n < 8) (hk : k < 8) :
    (t.setPred n v).pred k = if k = n then v else t.pred k := by
  simp only [Thread.pred, Thread.setPred, Nat.mod_eq_of_lt hn, Nat.mod_eq_of_lt hk]
  by_cases h : k = n
  · subst h; simp
  · simp [h, Ne.symm h]
@[simp] theorem State.me_wr (s : State) (n : Nat) (v : Word) : (s.wr n v).me = s.me.setReg n v := State.me_modMe s _

end Sys2Proof.Machine
end

