-- ==== Sys2Proof/Laws/Ops.lean ====
section
/-! SUPPORT. What the shared operations can do: none of those that stop, end or move a thread, post a fault or a message, or contain a
launch touches memory; a transfer of control has five outcomes, and each is an equation; so has an access. -/

namespace Sys2Proof.Machine

/-- A fold of steps that keep memory keeps memory. -/
theorem foldl_mem {α : Type} (l : List α) (f : State → α → State) (h : ∀ s x, (f s x).mem = s.mem) (s : State) :
    (l.foldl f s).mem = s.mem := by
  induction l generalizing s with
  | nil => rfl
  | cons x l ih => exact (ih (f s x)).trans (h s x)

/-! ## Threads and messages -/

@[simp] theorem State.freedSlot_mem (s : State) (c t : Nat) : (s.freedSlot c t).mem = s.mem := by
  unfold State.freedSlot; split <;> rfl
@[simp] theorem State.placeThread_mem (s : State) (c t : Nat) (th : Thread) : (s.placeThread c t th).mem = s.mem := rfl
@[simp] theorem State.startThread_mem (s : State) (c t : Nat) (th : Thread) : (s.startThread c t th).mem = s.mem := rfl
@[simp] theorem State.endThread_mem (s : State) (c t : Nat) : (s.endThread c t).mem = s.mem := by
  simp [State.endThread]
@[simp] theorem State.toNet_mem (s : State) (m : Msg) : (s.toNet m).mem = s.mem := by
  unfold State.toNet; dsimp only; split <;> rfl
@[simp] theorem State.sysMsg_mem (s : State) (k src dst nf : Nat) (b : SysMsg) (l : List (BitVec 512)) :
    (s.sysMsg k src dst nf b l).mem = s.mem := State.toNet_mem _ _
@[simp] theorem State.refuse_mem (s : State) (m : Msg) (a r : Nat) : (s.refuse m a r).mem = s.mem := by
  unfold State.refuse; split <;> simp
@[simp] theorem State.tellSharers_mem (s : State) (name : Nat) (ks : List Nat) : (s.tellSharers name ks).mem = s.mem := by
  induction ks generalizing s with
  | nil => rfl
  | cons k ks ih => exact (ih _).trans ((State.sysMsg_mem _ _ _ _ _ _ _).trans rfl)
@[simp] theorem State.changeSlot_mem (s : State) (name j : Nat) (x : DirSlot) : (s.changeSlot name j x).mem = s.mem :=
  (State.tellSharers_mem _ _ _).trans ((State.sysMsg_mem _ _ _ _ _ _ _).trans rfl)
@[simp] theorem State.freeRetired_mem (s : State) (name j : Nat) : (s.freeRetired name j).mem = s.mem := by
  unfold State.freeRetired; dsimp only; split <;> simp
@[simp] theorem State.freeAllRetired_mem (s : State) : s.freeAllRetired.mem = s.mem := by
  unfold State.freeAllRetired
  exact foldl_mem s.dir _ (fun s x => foldl_mem (List.range' 1 7) (fun u j => u.freeRetired x.1 j) (fun s j => State.freeRetired_mem s x.1 j) s) s
@[simp] theorem State.replicaGone_mem (s : State) (r : Option (Nat × Nat)) : (s.replicaGone r).mem = s.mem := by
  unfold State.replicaGone; split <;> simp
@[simp] theorem State.signal_mem (s : State) (c t b : Nat) : (s.signal c t b).mem = s.mem := by
  unfold State.signal; split <;> rfl
@[simp] theorem State.signalMsg_mem (s : State) (c d : Nat) : (s.signalMsg c d).mem = s.mem := by
  unfold State.signalMsg
  split
  · exact foldl_mem _ _ (fun s x => State.signal_mem s c x 0) s
  · simp

/-! ## Faults and containment -/

@[simp] theorem State.refuseSlot_mem (s : State) (c t : Nat) : (s.refuseSlot c t).mem = s.mem :=
  (foldl_mem _ _ (fun s _ => State.refuse_mem s _ _ _) _).trans rfl
@[simp] theorem State.killThread_mem (s : State) (c t : Nat) : (s.killThread c t).mem = s.mem := by
  simp [State.killThread, State.forgetAsker]
@[simp] theorem State.refuseParked_mem (s : State) (ps : List (Nat × Parked)) : (s.refuseParked ps).mem = s.mem :=
  foldl_mem _ _ (fun s x => by split <;> simp) s
@[simp] theorem State.refuseAbsent_mem (s : State) (dead : List Nat) : (s.refuseAbsent dead).mem = s.mem :=
  foldl_mem _ _ (fun s _ => State.refuseSlot_mem s _ _) s
@[simp] theorem State.containLaunch_mem (s : State) (l : Nat × Nat) : (s.containLaunch l).mem = s.mem := by
  unfold State.containLaunch
  refine (State.freeAllRetired_mem _).trans ?_
  dsimp only
  have h (ps : List (Nat × Parked)) (u : State) (hu : u.mem = s.mem) : ((u.freeRings l).refuseParked ps).mem = s.mem :=
    (State.refuseParked_mem _ _).trans hu
  have hk (ks : List (Nat × Nat × Thread)) (dead : List Nat) :
      ((ks.foldl (fun (s : State) x => s.killThread x.1 x.2.1) s).refuseAbsent dead).mem = s.mem :=
    (State.refuseAbsent_mem _ _).trans (foldl_mem ks _ (fun u x => State.killThread_mem u _ _) s)
  split
  · split <;> exact h _ _ (hk _ _)
  · exact h _ _ (hk _ _)
@[simp] theorem State.endContext_mem (s : State) (uid : Nat) (l : Option (Nat × Nat)) : (s.endContext uid l).mem = s.mem := by
  unfold State.endContext
  repeat' split
  · simp
  · exact foldl_mem _ _ (fun s x => State.killThread_mem s _ _) _
  · exact (State.freeAllRetired_mem _).trans ((State.refuseParked_mem _ _).trans (State.refuseAbsent_mem _ _))
@[simp] theorem State.postFault_mem (s : State) (src : Nat) (r : FaultRec) (uid : Nat) (l : Option (Nat × Nat)) (res : Resume) :
    (s.postFault src r uid l res).1.mem = s.mem := by
  simp only [State.postFault]; split
  · simp
  · exact State.sysMsg_mem _ _ _ _ _ _ _
@[simp] theorem State.mailbox_mem (s : State) (c t uid rid : Nat) : (s.mailbox c t uid rid).mem = s.mem := by
  unfold State.mailbox; repeat' split
  all_goals rfl
/-- Taking a precise fault touches no memory (R348). -/
@[simp] theorem State.fault_mem (s : State) (cls opnd addr aux : Nat) : (s.fault cls opnd addr aux).mem = s.mem := by
  simp [State.fault]
@[simp] theorem State.faultSelf_mem (s : State) (cls : Nat) : (s.faultSelf cls).mem = s.mem := State.fault_mem _ _ _ _ _
@[simp] theorem State.illenc_mem (s : State) (w c : Nat) : (s.illenc w c).mem = s.mem := State.fault_mem _ _ _ _ _
/-- The group that faults does not execute. -/
@[simp] theorem State.fault_stop (s : State) (cls opnd addr aux : Nat) : (s.fault cls opnd addr aux).cur.stop = true := rfl
@[simp] theorem State.waits_mem (s : State) : s.waits.mem = s.mem := rfl
@[simp] theorem State.waits_stop (s : State) : s.waits.cur.stop = true := rfl
@[simp] theorem State.late_mem (s : State) (core slot uid seq cls opnd addr elem prog unit : Nat) (l : Option (Nat × Nat)) :
    (s.late core slot uid seq cls opnd addr elem prog unit l).mem = s.mem := by
  simp [State.late]

/-! ## Control transfers -/

@[simp] theorem State.retired_mem (s : State) (c t : Nat) : (s.retired c t).mem = s.mem :=
  foldl_mem _ _ (fun s x => by simp) s
@[simp] theorem State.retire_mem (s : State) : s.retire.mem = s.mem := by
  unfold State.retire
  repeat' split
  · rfl
  · simp
  · rfl
theorem State.jump_follows {s : State} (h : s.cur.follows = true) (o : Nat) (a : Word) : s.jump o a = s := by
  simp [State.jump, h]
/-- A target of 0 retires (R32). -/
theorem State.jump_zero {s : State} (h : s.cur.follows = false) (o : Nat) : s.jump o 0 = s.retire := by
  simp [State.jump, h]
/-- A misaligned target does not take place and raises BADPC (R92). -/
theorem State.jump_misaligned {s : State} (h : s.cur.follows = false) (o : Nat) {a : Word} (ha : a.toNat % 8 ≠ 0) :
    s.jump o a = s.fault cBADPC o a.toNat 0 := by
  have h0 : a ≠ 0 := fun e => ha (by simp [e])
  rw [State.jump, if_neg (by simp [h]), if_neg h0, if_pos ha]
/-- Any other target becomes the PC. -/
theorem State.jump_aligned {s : State} (h : s.cur.follows = false) (o : Nat) {a : Word} (h0 : a ≠ 0) (ha : a.toNat % 8 = 0) :
    s.jump o a = s.modMe (fun t => { t with pc := a }) := by
  rw [State.jump, if_neg (by simp [h]), if_neg h0, if_neg (by simp [ha])]
@[simp] theorem State.jump_mem (s : State) (o : Nat) (a : Word) : (s.jump o a).mem = s.mem := by
  unfold State.jump
  repeat' split
  all_goals simp
@[simp] theorem State.branch_mem (s : State) (d : Int) : (s.branch d).mem = s.mem := by
  unfold State.branch
  split
  · simp
  · dsimp only
    repeat' split
    all_goals simp
/-- A transfer after other effects either stops with none of them or stands with all. -/
theorem State.thenGo_cases (s t : State) (go : State → State) :
    s.thenGo t go = go s ∧ (go t).cur.stop = true ∨ s.thenGo t go = go t ∧ (go t).cur.stop = false := by
  unfold State.thenGo; split <;> simp_all

/-! ## Dispatch, held accesses, the outbox -/

@[simp] theorem State.dispatch_mem (s : State) (i : Instr) : (s.dispatch i).1.mem = s.mem := by
  unfold State.dispatch; split <;> rfl
/-- Outside a replay a dispatched instruction takes the next number of its core (R162). -/
theorem State.dispatch_number {s : State} (h : s.cur.replay = none) (i : Instr) :
    (s.dispatch i).2 = (s.here.dispSeq + 1) % 2 ^ 32 := by
  simp [State.dispatch, h]
@[simp] theorem State.hold_mem (s : State) (a : Access) : (s.hold a).mem = s.mem := rfl
@[simp] theorem State.nextMid_mem (s : State) : s.nextMid.1.mem = s.mem := rfl
theorem State.nextMid_number (s : State) : s.nextMid.2 = (s.me.sendCtr + 1) % 4096 := rfl
@[simp] theorem State.post_mem (s : State) (m : Msg) (r q : Bool) : (s.post m r q).mem = s.mem := rfl
/-- A thread whose accesses are held makes no further one. -/
theorem State.access_busy {s : State} (h : s.me.accessBusy = true) (a : Access) (r : Bool) : s.access a r = s.waits := by
  simp [State.access, State.accessWaits, h]
@[simp] theorem State.outMe_mem (s : State) (a : Access) (v : OutVal) : (s.outMe a v).mem = s.mem := by
  unfold State.outMe; split <;> rfl
@[simp] theorem State.advanceMe_mem (s : State) (a : Access) (m : Nat) : (s.advanceMe a m).mem = s.mem := by
  unfold State.advanceMe; split <;> rfl
/-- Hiding a store changes only what is hidden. -/
theorem State.hideMine_eq (s u : State) (a : Access) (r : Bool) : ∃ h, s.hideMine u a r = { u with hidden := h } := by
  unfold State.hideMine
  have fold (l : List Part) (v : State) (hv : ∃ h, v = { u with hidden := h }) :
      ∃ h, l.foldl (fun v q => s.hideFrom v s.who r q) v = { u with hidden := h } := by
    induction l generalizing v with
    | nil => exact hv
    | cons q l ih =>
      refine ih _ ?_
      obtain ⟨h, rfl⟩ := hv
      unfold State.hideFrom
      dsimp only
      repeat' split
      all_goals exact ⟨_, rfl⟩
  split
  · split
    · exact fold _ u ⟨_, rfl⟩
    · exact ⟨_, rfl⟩
  · split
    · exact fold _ u ⟨_, rfl⟩
    · exact ⟨_, rfl⟩
  · exact ⟨_, rfl⟩
@[simp] theorem State.hideMine_mem (s u : State) (a : Access) (r : Bool) : (s.hideMine u a r).mem = u.mem := by
  obtain ⟨h, e⟩ := s.hideMine_eq u a r
  rw [e]
/-- Revealing hidden stores changes only what is hidden. -/
theorem State.released_eq (s : State) (uid : Nat) : ∃ h, s.released uid = { s with hidden := h } := by
  unfold State.released; split <;> exact ⟨_, rfl⟩
@[simp] theorem State.released_mem (s : State) (uid : Nat) : (s.released uid).mem = s.mem := by
  unfold State.released; split <;> rfl
/-- An access changes memory only by performing itself. -/
theorem State.access_mem (s : State) (a : Access) (r rel : Bool) :
    (s.access a r rel).mem = s.mem ∨ (s.access a r rel).mem = (s.tryAccess s.who a).1.mem := by
  unfold State.access
  dsimp only
  split
  · exact .inl rfl
  · split
    · refine .inl ?_
      split <;> simp
    · rcases h : s.tryAccess s.who a with ⟨u, r⟩
      refine .inr ?_
      cases r <;> simp only []
      case waits => cases a <;> simp
      all_goals simp
/-- A read of a table instruction's operand changes memory only by what its reading performs. -/
theorem State.image_mem (s : State) (ea n : Nat) :
    (s.image ea n).1.mem = s.mem ∨ (s.image ea n).1.mem = (s.readRun s.who ea n 64 (n / 64 + 1)).1.mem := by
  unfold State.image
  split
  · exact .inl rfl
  · rcases h : s.readRun s.who ea n 64 (n / 64 + 1) with ⟨u, r⟩
    cases r <;> exact .inr rfl

end Sys2Proof.Machine
end

