-- ==== Sys2Proof/Laws/PerInstr.lean ====
section
/-! SUPPORT. The family `Encodes`, one lemma per constructor: an instruction has an encoding exactly when it is no event of another
agent. -/

namespace Sys2Proof.Laws.Encodes

open Sys2Proof Sys2Proof.Machine

/-- What the family says of an instruction: it is encoded, or it is an event. -/
def Statement (i : Instr) : Prop := (encode i).isSome = !isEvent i

theorem add (d a b : R) : Statement (.add d a b) := rfl
theorem sub (d a b : R) : Statement (.sub d a b) := rfl
theorem and (d a b : R) : Statement (.and d a b) := rfl
theorem or (d a b : R) : Statement (.or d a b) := rfl
theorem xor (d a b : R) : Statement (.xor d a b) := rfl
theorem shl (d a b : R) : Statement (.shl d a b) := rfl
theorem shr (d a b : R) : Statement (.shr d a b) := rfl
theorem sra (d a b : R) : Statement (.sra d a b) := rfl
theorem shli (d a : R) (sh : Fin 64) : Statement (.shli d a sh) := rfl
theorem shri (d a : R) (sh : Fin 64) : Statement (.shri d a sh) := rfl
theorem srai (d a : R) (sh : Fin 64) : Statement (.srai d a sh) := rfl
theorem slt (d a b : R) : Statement (.slt d a b) := rfl
theorem sltu (d a b : R) : Statement (.sltu d a b) := rfl
theorem seq (d a b : R) : Statement (.seq d a b) := rfl
theorem min (d a b : R) : Statement (.min d a b) := rfl
theorem minu (d a b : R) : Statement (.minu d a b) := rfl
theorem max (d a b : R) : Statement (.max d a b) := rfl
theorem maxu (d a b : R) : Statement (.maxu d a b) := rfl
theorem mul (d a b : R) : Statement (.mul d a b) := rfl
theorem mulh (d a b : R) : Statement (.mulh d a b) := rfl
theorem mulhu (d a b : R) : Statement (.mulhu d a b) := rfl
theorem clz (d a : R) : Statement (.clz d a) := rfl
theorem popc (d a : R) : Statement (.popc d a) := rfl
theorem bext (d a b : R) : Statement (.bext d a b) := rfl
theorem bdep (d a b : R) : Statement (.bdep d a b) := rfl
theorem sel (d a b : R) : Statement (.sel d a b) := rfl
theorem lea (s : Fin 4) (d a b : R) : Statement (.lea s d a b) := rfl
theorem addsat (lw : Fin 4) (sg : Bool) (d a b : R) : Statement (.addsat lw sg d a b) := rfl
theorem subsat (lw : Fin 4) (sg : Bool) (d a b : R) : Statement (.subsat lw sg d a b) := rfl
theorem addi (d a : R) (imm : BitVec 13) : Statement (.addi d a imm) := rfl
theorem andi (d a : R) (imm : BitVec 13) : Statement (.andi d a imm) := rfl
theorem ori (d a : R) (imm : BitVec 13) : Statement (.ori d a imm) := rfl
theorem xori (d a : R) (imm : BitVec 13) : Statement (.xori d a imm) := rfl
theorem slti (d a : R) (imm : BitVec 13) : Statement (.slti d a imm) := rfl
theorem movi (d : R) (imm : BitVec 32) : Statement (.movi d imm) := rfl
theorem movhi (d : R) (imm : BitVec 32) : Statement (.movhi d imm) := rfl
theorem addl (d a : R) (imm : BitVec 32) : Statement (.addl d a imm) := rfl
theorem andl (d a : R) (imm : BitVec 32) : Statement (.andl d a imm) := rfl
theorem orl (d a : R) (imm : BitVec 32) : Statement (.orl d a imm) := rfl
theorem xorl (d a : R) (imm : BitVec 32) : Statement (.xorl d a imm) := rfl
theorem div (d a b : R) (look : Look) : Statement (.div d a b look) := rfl
theorem divu (d a b : R) (look : Look) : Statement (.divu d a b look) := rfl
theorem rem (d a b : R) (look : Look) : Statement (.rem d a b look) := rfl
theorem remu (d a b : R) (look : Look) : Statement (.remu d a b look) := rfl
theorem br (disp : BitVec 19) : Statement (.br disp) := rfl
theorem bz (a : R) (disp : BitVec 19) : Statement (.bz a disp) := rfl
theorem bnz (a : R) (disp : BitVec 19) : Statement (.bnz a disp) := rfl
theorem brdec (a : R) (disp : BitVec 19) : Statement (.brdec a disp) := rfl
theorem call (disp : BitVec 19) : Statement (.call disp) := rfl
theorem jr (d a : R) : Statement (.jr d a) := rfl
theorem jmp (disp : BitVec 32) : Statement (.jmp disp) := rfl
theorem callLong (disp : BitVec 32) : Statement (.callLong disp) := rfl
theorem ld (t : GOp) (base : R) (look : Look) (sz : Fin 8) (off : Fin 64) : Statement (.ld t base look sz off) := rfl
theorem ldAcq (t : GOp) (base : R) (look : Look) (sz : Fin 8) (off : Fin 64) : Statement (.ldAcq t base look sz off) := rfl
theorem st (t : GOp) (base : R) (sz : Fin 8) (off : Fin 64) : Statement (.st t base sz off) := rfl
theorem stRel (t : GOp) (base : R) (sz : Fin 8) (off : Fin 64) : Statement (.stRel t base sz off) := rfl
theorem ldLong (t : GOp) (base : R) (look : Look) (sz : Fin 8) (acq : Bool) (off : BitVec 32) : Statement (.ldLong t base look sz acq off) := rfl
theorem stLong (t : GOp) (base : R) (sz : Fin 8) (rel : Bool) (off : BitVec 32) : Statement (.stLong t base sz rel off) := rfl
theorem ldx (d : GOp) (a b : R) (look : Look) : Statement (.ldx d a b look) := rfl
theorem stx (d : GOct) (a b : R) : Statement (.stx d a b) := rfl
theorem vrcl (a b : R) : Statement (.vrcl a b) := rfl
theorem vqry (d a : R) (look : Look) : Statement (.vqry d a look) := rfl
theorem aadd (d a b : R) (look : Look) : Statement (.aadd d a b look) := rfl
theorem afadd (d a b : R) (look : Look) : Statement (.afadd d a b look) := rfl
theorem amin (d a b : R) (look : Look) : Statement (.amin d a b look) := rfl
theorem amax (d a b : R) (look : Look) : Statement (.amax d a b look) := rfl
theorem aand (d a b : R) (look : Look) : Statement (.aand d a b look) := rfl
theorem aor (d a b : R) (look : Look) : Statement (.aor d a b look) := rfl
theorem axor (d a b : R) (look : Look) : Statement (.axor d a b look) := rfl
theorem axch (d a b : R) (look : Look) : Statement (.axch d a b look) := rfl
theorem acas (d : GPair) (a : R) (look : Look) : Statement (.acas d a look) := rfl
theorem ldv (v : VOp) (s : GPair) (look : Look) : Statement (.ldv v s look) := rfl
theorem stv (v : VOp) (s : GPair) : Statement (.stv v s) := rfl
theorem ldvAdv (v : VOp) (s : GPair) (look : Look) : Statement (.ldvAdv v s look) := rfl
theorem stvAdv (v : VOp) (s : GPair) : Statement (.stvAdv v s) := rfl
theorem fenceFull (scope : Fin 6) : Statement (.fenceFull scope) := rfl
theorem fenceAcq (scope : Fin 6) : Statement (.fenceAcq scope) := rfl
theorem fenceRel (scope : Fin 6) : Statement (.fenceRel scope) := rfl
theorem pfetchTlb (a : R) : Statement (.pfetchTlb a) := rfl
theorem pfetchPc (a : R) : Statement (.pfetchPc a) := rfl
theorem pfetchOwn (a : R) : Statement (.pfetchOwn a) := rfl
theorem kget (d : R) (kn : Fin 64) : Statement (.kget d kn) := rfl
theorem kset (a : R) (kn : Fin 64) (v6 : Fin 64) : Statement (.kset a kn v6) := rfl
theorem wait (d a b : R) : Statement (.wait d a b) := rfl
theorem migr (d a : R) : Statement (.migr d a) := rfl
theorem trap (code : BitVec 12) : Statement (.trap code) := rfl
theorem gang (d : R) (n : Fin 17) : Statement (.gang d n) := rfl
theorem safe (glive : BitVec 15) (plive : BitVec 8) (vlive : BitVec 32) : Statement (.safe glive plive vlive) := rfl
theorem lathe (n1 : Fin 16) (stride : Fin 32) (cg : R) (count : BitVec 32) : Statement (.lathe n1 stride cg count) := rfl
theorem vadd (ty : Fin 16) (d a b : VOp) : Statement (.vadd ty d a b) := rfl
theorem vsub (ty : Fin 16) (d a b : VOp) : Statement (.vsub ty d a b) := rfl
theorem vmul (ty : Fin 16) (d a b : VOp) : Statement (.vmul ty d a b) := rfl
theorem vfma (ty : Fin 16) (d a b : VOp) : Statement (.vfma ty d a b) := rfl
theorem vmin (ty : Fin 16) (d a b : VOp) : Statement (.vmin ty d a b) := rfl
theorem vmax (ty : Fin 16) (d a b : VOp) : Statement (.vmax ty d a b) := rfl
theorem vminp (ty : Fin 16) (d a b : VOp) : Statement (.vminp ty d a b) := rfl
theorem vmaxp (ty : Fin 16) (d a b : VOp) : Statement (.vmaxp ty d a b) := rfl
theorem vand (d a b : VOp) : Statement (.vand d a b) := rfl
theorem vor (d a b : VOp) : Statement (.vor d a b) := rfl
theorem vxor (d a b : VOp) : Statement (.vxor d a b) := rfl
theorem vandn (d a b : VOp) : Statement (.vandn d a b) := rfl
theorem vshl (sz : Fin 4) (d a b : VOp) : Statement (.vshl sz d a b) := rfl
theorem vshr (sz : Fin 4) (d a b : VOp) : Statement (.vshr sz d a b) := rfl
theorem vsra (sz : Fin 4) (d a b : VOp) : Statement (.vsra sz d a b) := rfl
theorem vcvt (ty dty : Fin 16) (d a : VOp) : Statement (.vcvt ty dty d a) := rfl
theorem vrcp (ty : Fin 16) (look : Look) (d a : VOp) : Statement (.vrcp ty look d a) := rfl
theorem vrsq (ty : Fin 16) (look : Look) (d a : VOp) : Statement (.vrsq ty look d a) := rfl
theorem vexp2 (ty : Fin 16) (look : Look) (d a : VOp) : Statement (.vexp2 ty look d a) := rfl
theorem vlog2 (ty : Fin 16) (look : Look) (d a : VOp) : Statement (.vlog2 ty look d a) := rfl
theorem vtanh (ty : Fin 16) (look : Look) (d a : VOp) : Statement (.vtanh ty look d a) := rfl
theorem vsigm (ty : Fin 16) (look : Look) (d a : VOp) : Statement (.vsigm ty look d a) := rfl
theorem vperm (sz : Fin 4) (d a b : VOp) : Statement (.vperm sz d a b) := rfl
theorem vbcast (sz : Fin 4) (d a : VOp) (k : Fin 128) : Statement (.vbcast sz d a k) := rfl
theorem vshuf (sz : Fin 4) (d a : VOp) (k : Fin 128) : Statement (.vshuf sz d a k) := rfl
theorem vred (ty : Fin 16) (op : Fin 8) (d a : VOp) : Statement (.vred ty op d a) := rfl
theorem vscan (ty : Fin 16) (op : Fin 8) (ex : Bool) (d a : VOp) : Statement (.vscan ty op ex d a) := rfl
theorem vrng (ty : Fin 16) (d a b : VOp) : Statement (.vrng ty d a b) := rfl
theorem vquant (ty : Fin 16) (d a : VOp) : Statement (.vquant ty d a) := rfl
theorem vdeq (ty : Fin 16) (d a : VOp) : Statement (.vdeq ty d a) := rfl
theorem vcmul (d a b : VOp) : Statement (.vcmul d a b) := rfl
theorem vsel (ty : Fin 16) (d a b : VOp) : Statement (.vsel ty d a b) := rfl
theorem vxall (ty : Fin 16) (d a : VOp) : Statement (.vxall ty d a) := rfl
theorem vcmp (pd : Fin 8) (ty : Fin 16) (cc : Fin 4) (a b : VOp) : Statement (.vcmp pd ty cc a b) := rfl
theorem pand (pd pa pb : Fin 8) : Statement (.pand pd pa pb) := rfl
theorem por (pd pa pb : Fin 8) : Statement (.por pd pa pb) := rfl
theorem pnot (pd pa : Fin 8) : Statement (.pnot pd pa) := rfl
theorem pcnt (g : R) (pa : Fin 8) : Statement (.pcnt g pa) := rfl
theorem pfirst (g : R) (pa : Fin 8) : Statement (.pfirst g pa) := rfl
theorem plim (pd : Fin 8) (g : R) : Statement (.plim pd g) := rfl
theorem vaddLV (ty : Fin 16) (d a b : VOp) (x : LVX) : Statement (.vaddLV ty d a b x) := rfl
theorem vsubLV (ty : Fin 16) (d a b : VOp) (x : LVX) : Statement (.vsubLV ty d a b x) := rfl
theorem vmulLV (ty : Fin 16) (d a b : VOp) (x : LVX) : Statement (.vmulLV ty d a b x) := rfl
theorem vfmaLV (ty : Fin 16) (d a b : VOp) (x : LVX) : Statement (.vfmaLV ty d a b x) := rfl
theorem vminLV (ty : Fin 16) (d a b : VOp) (x : LVX) : Statement (.vminLV ty d a b x) := rfl
theorem vmaxLV (ty : Fin 16) (d a b : VOp) (x : LVX) : Statement (.vmaxLV ty d a b x) := rfl
theorem vminpLV (ty : Fin 16) (d a b : VOp) (x : LVX) : Statement (.vminpLV ty d a b x) := rfl
theorem vmaxpLV (ty : Fin 16) (d a b : VOp) (x : LVX) : Statement (.vmaxpLV ty d a b x) := rfl
theorem vandLV (d a b : VOp) (x : LVX) : Statement (.vandLV d a b x) := rfl
theorem vorLV (d a b : VOp) (x : LVX) : Statement (.vorLV d a b x) := rfl
theorem vxorLV (d a b : VOp) (x : LVX) : Statement (.vxorLV d a b x) := rfl
theorem vandnLV (d a b : VOp) (x : LVX) : Statement (.vandnLV d a b x) := rfl
theorem vshlLV (sz : Fin 4) (d a b : VOp) (x : LVX) : Statement (.vshlLV sz d a b x) := rfl
theorem vshrLV (sz : Fin 4) (d a b : VOp) (x : LVX) : Statement (.vshrLV sz d a b x) := rfl
theorem vsraLV (sz : Fin 4) (d a b : VOp) (x : LVX) : Statement (.vsraLV sz d a b x) := rfl
theorem vcvtLV (ty dty : Fin 16) (d a : VOp) (x : LVX) : Statement (.vcvtLV ty dty d a x) := rfl
theorem vrcpLV (ty : Fin 16) (look : Look) (d a : VOp) (x : LVX) : Statement (.vrcpLV ty look d a x) := rfl
theorem vrsqLV (ty : Fin 16) (look : Look) (d a : VOp) (x : LVX) : Statement (.vrsqLV ty look d a x) := rfl
theorem vexp2LV (ty : Fin 16) (look : Look) (d a : VOp) (x : LVX) : Statement (.vexp2LV ty look d a x) := rfl
theorem vlog2LV (ty : Fin 16) (look : Look) (d a : VOp) (x : LVX) : Statement (.vlog2LV ty look d a x) := rfl
theorem vtanhLV (ty : Fin 16) (look : Look) (d a : VOp) (x : LVX) : Statement (.vtanhLV ty look d a x) := rfl
theorem vsigmLV (ty : Fin 16) (look : Look) (d a : VOp) (x : LVX) : Statement (.vsigmLV ty look d a x) := rfl
theorem vpermLV (sz : Fin 4) (d a b : VOp) (x : LVX) : Statement (.vpermLV sz d a b x) := rfl
theorem vbcastLV (sz : Fin 4) (d a : VOp) (k : Fin 128) (x : LVX) : Statement (.vbcastLV sz d a k x) := rfl
theorem vshufLV (sz : Fin 4) (d a : VOp) (k : Fin 128) (x : LVX) : Statement (.vshufLV sz d a k x) := rfl
theorem vredLV (ty : Fin 16) (op : Fin 8) (d a : VOp) (x : LVX) : Statement (.vredLV ty op d a x) := rfl
theorem vscanLV (ty : Fin 16) (op : Fin 8) (ex : Bool) (d a : VOp) (x : LVX) : Statement (.vscanLV ty op ex d a x) := rfl
theorem vrngLV (ty : Fin 16) (d a b : VOp) (x : LVX) : Statement (.vrngLV ty d a b x) := rfl
theorem vquantLV (ty : Fin 16) (d a : VOp) (x : LVX) : Statement (.vquantLV ty d a x) := rfl
theorem vdeqLV (ty : Fin 16) (d a : VOp) (x : LVX) : Statement (.vdeqLV ty d a x) := rfl
theorem vcmulLV (d a b : VOp) (x : LVX) : Statement (.vcmulLV d a b x) := rfl
theorem vselLV (ty : Fin 16) (d a b : VOp) (x : LVX) : Statement (.vselLV ty d a b x) := rfl
theorem vxallLV (ty : Fin 16) (d a : VOp) (x : LVX) : Statement (.vxallLV ty d a x) := rfl
theorem mma (acc : Fin 8) (ga : GPair) (gb : R) (ksteps : BitVec 16) (rows1 : Fin 64) (cols1 : Fin 32) : Statement (.mma acc ga gb ksteps rows1 cols1) := rfl
theorem mmas (acc : Fin 8) (ga gb : GPair) (ksteps : BitVec 16) (rows1 : Fin 64) (cols1 : Fin 32) (last : Bool) : Statement (.mmas acc ga gb ksteps rows1 cols1 last) := rfl
theorem mzero (acc : Fin 8) (pin : Bool) : Statement (.mzero acc pin) := rfl
theorem mwb (ga gb : R) : Statement (.mwb ga gb) := rfl
theorem mdrain (acc : Fin 8) (ga : R) (rows1 : Fin 64) (cols1 : Fin 32) (keep : Bool) : Statement (.mdrain acc ga rows1 cols1 keep) := rfl
theorem rowout (acc : Fin 8) (ga gb : R) : Statement (.rowout acc ga gb) := rfl
theorem asave (acc : Fin 8) (ga : R) : Statement (.asave acc ga) := rfl
theorem arest (acc : Fin 8) (ga : R) : Statement (.arest acc ga) := rfl
theorem mstat (acc : Fin 8) (ga : R) (look : Look) : Statement (.mstat acc ga look) := rfl
theorem mfence (all : Bool) : Statement (.mfence all) := rfl
theorem eclr (d : Fin 4) (g : R) : Statement (.eclr d g) := rfl
theorem eline (d a : Fin 4) (g : GPair) (look : Look) : Statement (.eline d a g look) := rfl
theorem eadd (d a b : Fin 4) (look : Look) : Statement (.eadd d a b look) := rfl
theorem emax (d a b : Fin 4) (look : Look) : Statement (.emax d a b look) := rfl
theorem einf (d a b : Fin 4) (look : Look) : Statement (.einf d a b look) := rfl
theorem econj (d a : Fin 4) (look : Look) : Statement (.econj d a look) := rfl
theorem esimp (d a : Fin 4) (look : Look) : Statement (.esimp d a look) := rfl
theorem ecnt (a : Fin 4) (g : R) : Statement (.ecnt a g) := rfl
theorem eeval (a : Fin 4) (g : GPair) (look : Look) : Statement (.eeval a g look) := rfl
theorem earg (a : Fin 4) (g : GPair) (look : Look) : Statement (.earg a g look) := rfl
theorem eget (a : Fin 4) (g : GPair) : Statement (.eget a g) := rfl
theorem eld (d : Fin 4) (a : R) (look : Look) : Statement (.eld d a look) := rfl
theorem est (d : Fin 4) (a : R) : Statement (.est d a) := rfl
theorem send (d : R) (a : GOp) (b : R) (vn : Fin 2) (nf : Fin 4) (tag : BitVec 24) : Statement (.send d a b vn nf tag) := rfl
theorem sendd (d a b : R) (nf : Fin 4) (tag : BitVec 24) : Statement (.sendd d a b nf tag) := rfl
theorem sendx (d : R) (a : GOp) (b : R) (nf : Fin 4) (look : Look) : Statement (.sendx d a b nf look) := rfl
theorem spawn (d : Fin 8) (a b : R) : Statement (.spawn d a b) := rfl
theorem recv (d : GPair) (a : GOp) (b : R) (look : Look) : Statement (.recv d a b look) := rfl
theorem recvt (d : GPair) (a : GOp) (b : R) (look : Look) : Statement (.recvt d a b look) := rfl
theorem peek (d : GPair) (b : R) : Statement (.peek d b) := rfl
theorem qpush (d : R) (a : GOp) (b : R) : Statement (.qpush d a b) := rfl
theorem qpop (d : GOp) (a : R) (look : Look) : Statement (.qpop d a look) := rfl
theorem qstat (d a : R) : Statement (.qstat d a) := rfl
theorem cbinit (d a b : R) : Statement (.cbinit d a b) := rfl
theorem cbwait (d a : R) (look : Look) : Statement (.cbwait d a look) := rfl
theorem cbacq (d a : R) (look : Look) : Statement (.cbacq d a look) := rfl
theorem cbrel (a b : R) : Statement (.cbrel a b) := rfl
theorem bar (n : Fin 32) : Statement (.bar n) := rfl
theorem grpst (n : Fin 32) (a : R) : Statement (.grpst n a) := rfl
theorem grpld (d : R) (n : Fin 32) (look : Look) : Statement (.grpld d n look) := rfl
theorem gqpush (a : GOp) (b : GPair) : Statement (.gqpush a b) := rfl
theorem gqpop (d : GOct) (a b : R) (look : Look) : Statement (.gqpop d a b look) := rfl
theorem tqtake (d : R) : Statement (.tqtake d) := rfl
theorem postc (a : GOp) (b : R) : Statement (.postc a b) := rfl
theorem cpCopy (d : R) (a b : GOp) : Statement (.cpCopy d a b) := rfl
theorem cpGather (d : R) (a b : GOp) : Statement (.cpGather d a b) := rfl
theorem cpScatter (d : R) (a b : GOp) : Statement (.cpScatter d a b) := rfl
theorem cpFill (d : R) (a b : GOp) : Statement (.cpFill d a b) := rfl
theorem cpToken (d : R) (a b : GOp) : Statement (.cpToken d a b) := rfl
theorem sgRead (d : R) (a b : GOp) : Statement (.sgRead d a b) := rfl
theorem mremote (d : R) (a b : GOp) : Statement (.mremote d a b) := rfl
theorem svG1 (d : R) (a b : GOp) : Statement (.svG1 d a b) := rfl
theorem svG2 (d : R) (a b : GOp) : Statement (.svG2 d a b) := rfl
theorem svG3 (d : R) (a b : GOp) : Statement (.svG3 d a b) := rfl
theorem svCg (d : R) (a b : GOp) : Statement (.svCg d a b) := rfl
theorem svDiag (d : R) (a b : GOp) : Statement (.svDiag d a b) := rfl
theorem svSwapq (d : R) (a b : GOp) : Statement (.svSwapq d a b) := rfl
theorem svPerm (d : R) (a b : GOp) : Statement (.svPerm d a b) := rfl
theorem svProb (d : R) (a b : GOp) : Statement (.svProb d a b) := rfl
theorem svNorm (d : R) (a b : GOp) : Statement (.svNorm d a b) := rfl
theorem svInit (d : R) (a b : GOp) : Statement (.svInit d a b) := rfl
theorem svSync (d : R) (a b : GOp) : Statement (.svSync d a b) := rfl
theorem tlbinv (a b : R) : Statement (.tlbinv a b) := rfl
theorem tlbinva (b : R) : Statement (.tlbinva b) := rfl
theorem dirset (d a b : R) : Statement (.dirset d a b) := rfl
theorem repnew (d a : R) : Statement (.repnew d a) := rfl
theorem repret (d a b : R) : Statement (.repret d a b) := rfl
theorem capset (d a b : R) : Statement (.capset d a b) := rfl
theorem treeset (d a b : R) : Statement (.treeset d a b) := rfl
theorem fwdset (d a b : R) : Statement (.fwdset d a b) := rfl
theorem sptset (d a b : R) : Statement (.sptset d a b) := rfl
theorem svcset (a b : R) : Statement (.svcset a b) := rfl
theorem placeq (d a b : R) : Statement (.placeq d a b) := rfl
theorem ctrget (d a : R) : Statement (.ctrget d a) := rfl
theorem ctrclr (a : R) : Statement (.ctrclr a) := rfl
theorem meter (d a b : R) : Statement (.meter d a b) := rfl
theorem genget (d b : R) : Statement (.genget d b) := rfl
theorem lifeget (d a b : R) : Statement (.lifeget d a b) := rfl
theorem nopC : Statement (.nopC) := rfl
theorem nopA : Statement (.nopA) := rfl
theorem ret : Statement (.ret) := rfl
theorem yield : Statement (.yield) := rfl
theorem split : Statement (.split) := rfl
theorem lwait : Statement (.lwait) := rfl
theorem eret : Statement (.eret) := rfl
theorem halt : Statement (.halt) := rfl
theorem hdone : Statement (.hdone) := rfl
theorem verwait : Statement (.verwait) := rfl
theorem shadowfull : Statement (.shadowfull) := rfl
theorem waitTimeout : Statement (.waitTimeout) := rfl
theorem safeovd : Statement (.safeovd) := rfl
theorem latheRepeat : Statement (.latheRepeat) := rfl
theorem agePromotion : Statement (.agePromotion) := rfl
theorem longLatencyWrite : Statement (.longLatencyWrite) := rfl
theorem vxallExchange : Statement (.vxallExchange) := rfl
theorem matrixCommandStart : Statement (.matrixCommandStart) := rfl
theorem matrixCommandComplete : Statement (.matrixCommandComplete) := rfl
theorem segmentEnd : Statement (.segmentEnd) := rfl
theorem drainRowStage : Statement (.drainRowStage) := rfl
theorem rindStart : Statement (.rindStart) := rfl
theorem recvtTimeout : Statement (.recvtTimeout) := rfl
theorem groupRoundResult : Statement (.groupRoundResult) := rfl
theorem messageArrival : Statement (.messageArrival) := rfl
theorem spillReturn : Statement (.spillReturn) := rfl
theorem refusalArrival : Statement (.refusalArrival) := rfl
theorem drupeArrival : Statement (.drupeArrival) := rfl
theorem outboxEntryFree : Statement (.outboxEntryFree) := rfl
theorem deadlockEscape : Statement (.deadlockEscape) := rfl
theorem spawnRequest : Statement (.spawnRequest) := rfl
theorem spawnReply : Statement (.spawnReply) := rfl
theorem migrationArrival : Statement (.migrationArrival) := rfl
theorem migrationAck : Statement (.migrationAck) := rfl
theorem forwardExpiry : Statement (.forwardExpiry) := rfl
theorem mwSwitchRequest : Statement (.mwSwitchRequest) := rfl
theorem contextResume : Statement (.contextResume) := rfl
theorem launchPush : Statement (.launchPush) := rfl
theorem launchStart : Statement (.launchStart) := rfl
theorem placedThreadStart : Statement (.placedThreadStart) := rfl
theorem commImageStart : Statement (.commImageStart) := rfl
theorem launchRetire : Statement (.launchRetire) := rfl
theorem reserveSample : Statement (.reserveSample) := rfl
theorem taskQueueJoin : Statement (.taskQueueJoin) := rfl
theorem tokenArrival : Statement (.tokenArrival) := rfl
theorem meterMessage : Statement (.meterMessage) := rfl
theorem claimRequest : Statement (.claimRequest) := rfl
theorem claimReply : Statement (.claimReply) := rfl
theorem copyComplete : Statement (.copyComplete) := rfl
theorem copyAbort : Statement (.copyAbort) := rfl
theorem activation : Statement (.activation) := rfl
theorem directoryChange : Statement (.directoryChange) := rfl
theorem changeAck : Statement (.changeAck) := rfl
theorem directoryFetchReply : Statement (.directoryFetchReply) := rfl
theorem evictionMessage : Statement (.evictionMessage) := rfl
theorem windowEnd : Statement (.windowEnd) := rfl
theorem servedRequest : Statement (.servedRequest) := rfl
theorem servedAnswer : Statement (.servedAnswer) := rfl
theorem finalPushNotice : Statement (.finalPushNotice) := rfl
theorem drainComplete : Statement (.drainComplete) := rfl
theorem depthReport : Statement (.depthReport) := rfl
theorem depthUpdate : Statement (.depthUpdate) := rfl
theorem gradientElementArrival : Statement (.gradientElementArrival) := rfl
theorem engineCommandStart : Statement (.engineCommandStart) := rfl
theorem engineResult : Statement (.engineResult) := rfl
theorem cpTokenComplete : Statement (.cpTokenComplete) := rfl
theorem remoteMatrixAccept : Statement (.remoteMatrixAccept) := rfl
theorem spindleAccept : Statement (.spindleAccept) := rfl
theorem chunkCommit : Statement (.chunkCommit) := rfl
theorem spindleComplete : Statement (.spindleComplete) := rfl
theorem svfault : Statement (.svfault) := rfl
theorem faultRecordArrival : Statement (.faultRecordArrival) := rfl
theorem faultRepost : Statement (.faultRepost) := rfl
theorem faultReplyArrival : Statement (.faultReplyArrival) := rfl
theorem invalidation : Statement (.invalidation) := rfl
theorem leaseRecall : Statement (.leaseRecall) := rfl
theorem pageCacheFill : Statement (.pageCacheFill) := rfl
theorem loadContainer : Statement (.loadContainer) := rfl
theorem unload : Statement (.unload) := rfl
theorem launchHalt : Statement (.launchHalt) := rfl
theorem resume : Statement (.resume) := rfl
theorem checkpoint : Statement (.checkpoint) := rfl
theorem restore : Statement (.restore) := rfl
theorem frameMoveBegin : Statement (.frameMoveBegin) := rfl
theorem frameMoveEnd : Statement (.frameMoveEnd) := rfl
theorem attest : Statement (.attest) := rfl
theorem unknownCommand : Statement (.unknownCommand) := rfl
theorem mwFabWrite : Statement (.mwFabWrite) := rfl
theorem mwRegisterWrite : Statement (.mwRegisterWrite) := rfl
theorem bootBlock : Statement (.bootBlock) := rfl
theorem linkRetrain : Statement (.linkRetrain) := rfl
theorem thermalThrottle : Statement (.thermalThrottle) := rfl
theorem thermalShutdown : Statement (.thermalShutdown) := rfl
theorem lifetimeLog : Statement (.lifetimeLog) := rfl
theorem deviceReset : Statement (.deviceReset) := rfl
theorem accessFault : Statement (.accessFault) := rfl
theorem storeAcknowledgement : Statement (.storeAcknowledgement) := rfl
theorem peerAccessRequest : Statement (.peerAccessRequest) := rfl
theorem linkDown : Statement (.linkDown) := rfl
theorem lossOfPower : Statement (.lossOfPower) := rfl
theorem memoryError : Statement (.memoryError) := rfl

end Sys2Proof.Laws.Encodes
end

