-- ==== Sys2Proof/Safety.lean ====
section
/-! DEFINITION. What counts as a safe run: no step is refused, and the only fault is a step without power (R347, R372). -/

namespace Sys2Proof

/-- A step of the machine is never refused, and stops only without power. -/
def SafeStep (s : Machine.State) : Prop :=
  (∃ t, Machine.step s = .next t) ∨ (s.on = false ∧ Machine.step s = .fault .poweredOff)

end Sys2Proof
end

