-- ==== Sys2Proof/Tests/Slice0.lean ====
section
/-! SUPPORT. The model's own tests: for every statement of Obligations.lean a state that meets its hypotheses, clause by clause
(`witness_…`); ill-formed terms refused, words that decode, and single steps on small states (`test_…`). Expected values come
from the spec's examples or are worked out by hand from the rule that is named. -/

open Sys2Proof Sys2Proof.Machine Sys2Proof.Claims

namespace Sys2Proof.Tests

/-! ## Small states -/

/-- A thread on slot 0 of core 0. -/
def th : Thread := { live := true, uid := 7, pc := 0x1008, g := #v[0, 5, 0x2000, 0x3003, 4, 0x40, 0, 0, 1, 2, 3, 4, 5, 0x2100, 0x2008, 6] }
/-- A state whose executing thread is `t` on slot 0 of core 0. -/
def at0 (t : Thread) (x : Core := {}) : State :=
  { cores := [(0, { x with threads := [(0, t)] })], cur := { addr := 0x1000 }, nextUid := 20 }
/-- Memory with words written. -/
def words (l : List (Nat × Nat)) : Memory := l.foldl (fun m p => m.setNat p.1 8 p.2) []
/-- A message on its way to slot 0 of core 0 from slot 1 of core 1. -/
def msg (kind vn : Nat) (sys : SysMsg := .none) : Msg :=
  { uid := 30, kind := kind, vn := vn, src := 1, sslot := 1, mid := 1, flits := [5], sys := sys, suid := 9 }
/-- A service thread. -/
def svc : Thread := { th with krole := 3 }

/-! ## Control transfers, control registers, waits, traps -/

theorem witness_ControlTransfers_branch : MayGo (at0 th) ∧ target (at0 th) 1 ≠ 0 ∧ (at0 th).rd 2 ≠ 0 ∧ ((at0 th).rd 2).toNat % 8 = 0 ∧
    (at0 th).rd 14 ≠ 0 ∧ ((at0 th).rd 14).toNat % 8 = 0 := by unfold MayGo; decide
/-- Both targets are misaligned. -/
def odd : State := at0 { th with g := th.g.set 14 0x2007 }
theorem witness_ControlTransfers_misaligned : MayGo odd ∧ odd.me.gang = none ∧ (odd.rd 3).toNat % 8 ≠ 0 ∧
    (odd.rd 14).toNat % 8 ≠ 0 := by unfold MayGo; decide
/-- A Drupe's thread. -/
def inDrupe : State := at0 { th with drupe := some { code := [], uid := 3, slot := 0 } }
theorem witness_ControlTransfers_halt : MayRetire (at0 th) ∧ MayRetire inDrupe ∧ inDrupe.me.drupe.isSome = true := by
  unfold MayRetire; decide
theorem witness_ControlRegisters_read : (at0 th).unitsBusy (at0 th).me.uid = false := by decide
/-- A value each register of R127 allows, at the end of its range. -/
theorem witness_ControlRegisters_write : allowed 0 15 ∧ allowed 3 (2 ^ 52 - 4) ∧ allowed 5 4 ∧ allowed 6 63 ∧ allowed 9 15 ∧
    allowed 10 (2 ^ 32 - 1) ∧ allowed 12 (2 ^ 64 - 1) ∧ allowed 13 0x7F7FFFFF ∧ allowed 14 1 ∧ allowed 15 (2 ^ 32 - 64) := by
  simp [allowed]
theorem witness_ControlRegisters_role : (at0 svc).src.krole.toNat % 4 = 3 ∧ (8 : Word).toNat ≤ 4095 ∧
    (7 : Nat) / 4 = (at0 { th with krole := 4 }).src.krole.toNat / 4 % 2 ∧ isOpt 2048 = true ∧
    ({ (at0 svc) with svcmap := [(0, 0x8000)] } : State).svcCore 0 = true := by decide
theorem witness_ControlRegisters_range : ¬ allowed 0 7 ∧ ¬ allowed 0 16 ∧ ¬ allowed 3 2 ∧ ¬ allowed 5 5 ∧ ¬ allowed 13 0x7F800000 ∧
    ¬ allowed 15 1 := by simp [allowed]
theorem witness_ControlRegisters_refuse : (at0 th).src.krole.toNat % 4 ≠ 3 ∧ isOpt (at0 th).cur.core = false ∧
    (at0 th).svcCore (at0 th).cur.core = false ∧ (3 : Nat) / 4 = (at0 th).src.krole.toNat / 4 % 2 := by decide
theorem witness_WaitsAndFences : (at0 { th with pend := 5 }).me.pend &&& ((at0 th).rd 4).truncate 6 ≠ 0 ∧
    (at0 th).here.lathe = none ∧ (at0 th).me.unsettled = false ∧ (at0 th).unacked 7 = false := by decide
/-- An access left to be performed later, of `n` bytes at 0x2000. -/
def later_ (a : Access) (n : Nat) (rd wr : Bool) : Deferred := ⟨a, 1, 0x1000, [⟨0, 0x2000, n⟩], rd, wr, [], false⟩
/-- A load and a store of the thread are to be performed later; the thread's next access may be left too. -/
def relaxed (ds : List Deferred) : State :=
  { at0 { th with deferred := ds, outs := [{ id := 1, regs := [.g 3], look := 0, wait := .access, val := .words [], lathe := false }] } with
    defers := true, ev := { on := true }, mem := words [(0x2000, 0x1122334455667788)] }
def lateLoad : Deferred := later_ (.load 0x2000 6 [.g 3] 0) 8 true false
def lateStore : Deferred := later_ (.store 0x2000 6 [9]) 8 false true
theorem witness_WaitsAndFences_relaxed : (relaxed [lateStore]).me.accessBusy = false ∧ (relaxed [lateStore]).unacked 7 = false ∧
    (relaxed [lateStore]).me.deferred.any (fun d => d.rd) = false ∧ (relaxed [lateStore]).me.unsettled = true ∧
    (relaxed [lateStore, lateLoad]).me.deferred.any (fun d => d.rd) = true ∧ (relaxed []).me.unsettled = false ∧ (relaxed []).unacked 7 = false ∧
    ({ at0 { th with held := some (.load 0x2000 6 [.g 3] 0) } with acks := [(7, 0x2000)] } : State).me.accessBusy = true ∧
    ({ at0 th with acks := [(7, 0x2000)] } : State).unacked 7 = true := by decide
/-- A thread with a trap block at 0x2000, its handlers at 0x4000 and 0x5000, not busy; and one that is in its handler. -/
def trapState (cause : Nat) : State :=
  { at0 { th with ktrap := 0x2000 } with mem := words [(0x2000, 0x4000), (0x2008, 0x5000), (0x2010, 0x6000), (0x2018, cause)] }
theorem witness_Traps : MayGo (trapState 0) ∧ (trapState 0).me.gang = none ∧ (trapState 0).me.unsettled = false ∧
    ({ relaxed [lateStore] with cores := [(0, { threads := [(0, { th with ktrap := 0x2000, deferred := [lateStore] })] })] } : State).me.unsettled = true ∧ (trapState 0).src.ktrap ≠ 0 ∧
    (trapState 0).mem.wf = true ∧ (trapState 0).mem.nat 0x2018 8 < 2 ^ 63 ∧ (trapState 0).mem.nat 0x2008 8 = 0x5000 ∧
    2 ^ 63 ≤ (trapState (2 ^ 63)).mem.nat 0x2018 8 ∧ (trapState (2 ^ 63)).mem.nat 0x2010 8 = 0x6000 ∧ (at0 th).src.ktrap = 0 := by
  unfold MayGo; decide

/-! ## Memory -/

/-- Contents at the last word of the vault window, and a versioned line. -/
def vaultState : State :=
  { at0 { th with g := #v[0, 0xFFFFFFF8, 0x2000, 1, 4, 5, 6, 0x2001, 0xFFFFFFFFFFFFFFF8, 2, 3, 4, 5, 0x2100, 0x2008, 6] } with
    mem := words [(0x2000, 0x8877665544332211), (0x2008, 3), (0xFFFFFFF8, 0x80000000000000FF)]
    ver := [(0x80, { c := 5, f := 2, shadows := [(2, 7)] })] }
theorem witness_VaultAccesses : VaultAccess vaultState 0xFFFFFFF8 8 8 ∧ VaultAccess vaultState 0x2000 64 64 ∧
    vaultState.src.kmig.toNat % 2 = 0 ∧ vaultState.mem.wf = true ∧ vaultState.cur.stop = false := by unfold VaultAccess; decide
theorem witness_AddressForms_checks : 2 ^ 52 ≤ (vaultState.rd 8).toNat ∧ (vaultState.rd 7).toNat < 2 ^ 52 ∧
    (vaultState.rd 7).toNat % 2 ≠ 0 ∧ (vaultState.rd 2).toNat % 64 = 0 ∧
    2 ^ 20 < ((at0 { th with g := th.g.set 5 0x10000100000000 }).rd 5).toNat / 2 ^ 32 := by decide
/-- A thread whose vector window and addresses lie outside the vaults, with and without a page at 0x1_0000_0000. -/
def paged (tlb : List TlbEntry) : State :=
  { at0 { th with g := th.g.set 2 0x100000000, cont := 1 } { dtlb := tlb } with
    hubs := (List.range 24).map (fun h => (h, { pcsz := 8 })), mwFab := 0x30000 }
/-- A 64 KiB page of the first stack, readable and writable; `mattr` selects the cache mode. -/
def page (mattr target : Nat) : TlbEntry :=
  { handle := 1, vbase := 0x10000, units := 1, rx := false, rw := true, rd := true, mattr := mattr, target := target }
theorem witness_AddressForms_translated :
    (match ((paged [page 0 (hbmPa 0 0)]).loadWords (paged []).who 0x100000000 6 1).2 with
     | .ok _ => true
     | _ => false) = true ∧
    (match ((paged []).loadWords (paged []).who 0x100000000 6 1).2 with
     | .error (.fault _ _) => true
     | _ => false) = true ∧
    (match ((paged []).place 0 1 0x100000000 .store .store).2 with
     | .error c => decide (c ≠ 0)
     | _ => false) = true := by decide
/-- What the lookup of that page gives: the entry, or the class of the fault. -/
def found (s : State) : TlbEntry ⊕ Nat :=
  match (s.lookup 0 1 0x100000000 false).2 with
  | .ok e => .inl e
  | .error n => .inr n
theorem witness_AddressForms_prefetch : ((at0 th).rd 2).toNat < 2 ^ 32 ∧ 2 ^ 32 ≤ ((paged []).rd 2).toNat ∧ (found (paged [])).isRight = true ∧
    (found (paged [{ page 0 (hbmPa 0 0) with rd := false }])).getLeft?.map (·.rd) = some false ∧
    (let s := paged [page 16 (peerPa 1 0 0)]
     (found s).getLeft?.any (fun e => e.mattr / 8 % 4 == 2 && e.rd && ((s.lookup 0 1 0x100000000 false).1.prefetchPiece e 0x100000000).isSome) = true ∧
     (s.lookup 0 1 0x100000000 false).1.fills = []) ∧
    (found (paged [page 0 (hbmPa 0 0)])).getLeft?.map (fun e => e.mattr / 8 % 4) = some 0 := by decide
theorem witness_VersionedLine : (vaultState.line 0x2000).c < 6 ∧ vaultState.poolFull 0 = false ∧ vaultState.stalls = [] ∧
    3 ≤ (vaultState.line 0x2000).c ∧ (vaultState.line 0x2000).f ≤ 2 ∧ 0x2000 % 64 = 0 ∧ vaultState.me.unsettled = false ∧ vaultState.defers = false ∧
    vaultState.src.kmig.toNat % 2 = 0 := by decide
/-- A shape record at 0x4000: ten 32-bit floating-point units from 0x8000. -/
def shapeState : State :=
  { at0 { th with g := (th.g.set 2 0x4000).set 3 8, kvwin := 0x1004 } with
    mem := words [(0x4000, 0x8000 + 6 * 2 ^ 52), (0x4008, 10), (0x4010, 1), (0x8020, 0x1122334455667788)] }
theorem witness_VectorLoadStore : shapeState.mem.wf = true ∧ shapeState.vin ⟨0, 0⟩ = true ∧ shapeState.me.unsettled = false ∧ shapeState.defers = false ∧ shapeState.cur.replay = none ∧
    (let r := shapeOf (shapeState.mem.bytes 0x4000 32)
     r.ok 8 0 = true ∧ r.active 8 0 = [0, 1] ∧
     ∀ l ∈ r.active 8 0, (r.addr (8 + l)).toNat + 4 ≤ 2 ^ 32 ∧ (r.addr (8 + l)).toNat % 2 ^ 16 + 4 ≤ 2 ^ 16) := by decide

/-! ## Vector instructions, windows, gangs, safe points -/

/-- A window of 16 registers from 4, registers with contents. -/
def vec : State := at0 { th with kvwin := 0x1004 } { v := Vector.ofFn (fun i => BitVec.ofNat 1024 (i.val * (2 ^ 1000 + 2 ^ 32 + 3))) }
/-- A long vector instruction's fields: the third operand at the window's end, a predicate, stochastic rounding, a switch. -/
def lvx : LVX := ⟨⟨0, 12⟩, some 1, true, true, some 4, 1⟩
theorem witness_VectorLanes : VecOk vec (.vadd 4 ⟨0, 0⟩ ⟨0, 1⟩ ⟨0, 15⟩) [⟨0, 0⟩, ⟨0, 1⟩, ⟨0, 15⟩] ∧
    VecOk vec (.vfmaLV 4 ⟨0, 0⟩ ⟨0, 1⟩ ⟨0, 15⟩ { lvx with mod := 0 }) [⟨0, 0⟩, ⟨0, 1⟩, ⟨0, 15⟩, ⟨0, 12⟩] ∧
    VecOk vec (.vmin 2 ⟨2, 12⟩ ⟨2, 8⟩ ⟨2, 0⟩) [⟨2, 12⟩, ⟨2, 8⟩, ⟨2, 0⟩] ∧
    VecOk vec (.vand ⟨3, 8⟩ ⟨3, 0⟩ ⟨3, 8⟩) [⟨3, 8⟩, ⟨3, 0⟩, ⟨3, 8⟩] ∧ VecOk vec (.vshl 0 ⟨0, 0⟩ ⟨0, 1⟩ ⟨0, 2⟩) [⟨0, 0⟩, ⟨0, 1⟩, ⟨0, 2⟩] := by
  unfold VecOk; decide
theorem witness_VectorConvert : VecOk vec (.vcvt 6 4 ⟨0, 0⟩ ⟨1, 2⟩) [⟨0, 0⟩, ⟨1, 2⟩] ∧ VecOk vec (.vrcp 6 3 ⟨0, 0⟩ ⟨0, 1⟩) [⟨0, 0⟩, ⟨0, 1⟩] ∧
    VecOk vec (.vcmul ⟨0, 0⟩ ⟨0, 1⟩ ⟨0, 2⟩) [⟨0, 0⟩, ⟨0, 1⟩, ⟨0, 2⟩] := by unfold VecOk; decide
theorem witness_VectorReductionsAndBlocks : VecOk vec (.vred 6 0 ⟨0, 0⟩ ⟨1, 2⟩) [⟨0, 0⟩, ⟨1, 2⟩] ∧
    VecOk vec (.vscan 6 0 false ⟨1, 0⟩ ⟨1, 2⟩) [⟨1, 0⟩, ⟨1, 2⟩] ∧ VecOk vec (.vquant 10 ⟨0, 0⟩ ⟨0, 1⟩) [⟨0, 0⟩, ⟨0, 1⟩] := by unfold VecOk; decide
theorem witness_PredicatesAndWindow : VecOk vec (.vcmp 1 6 0 ⟨0, 0⟩ ⟨0, 15⟩) [⟨0, 0⟩, ⟨0, 15⟩] ∧ vec.vin ⟨0, 16⟩ = false ∧
    vec.vin ⟨0, 15⟩ = true ∧ winCnt (at0 th).src.kvwin = 0 ∧ (at0 th).cur.lathe = none := by unfold VecOk; decide
/-- Matching heads of an exchange of the block of `n` cores that core `q` belongs to. -/
def exch (q n : Nat) : State := { at0 th with
  cores := (gangCores q n).map (fun c => (c, { threads := [(0, { th with uid := 7 + c })]
                                               vxq := [{ n := n, w := 0, d := 4, data := [BitVec.ofNat 1024 (c * 2 ^ 512 + c)], slot := 0, uid := 7 + c, pc := 0x1000, seq := 3 }] }))
  ev := { q := q } }
/-- The heads that stand on the members of the block are of one exchange. -/
def heads (q n : Nat) : Bool :=
  let s := exch q n
  gangCores q n != [] && (gangCores q n).all (fun c => match (s.core c).vxq.head? with
    | some h => h.n == n && h.w == 0 && h.uid != 0 && decide (h.d + 1 ≤ 32) && h.uid == (s.thr c h.slot).uid
    | none => false)
theorem witness_VectorMovesAndExchange : VecOk vec (.vperm 2 ⟨0, 0⟩ ⟨0, 1⟩ ⟨0, 15⟩) [⟨0, 0⟩, ⟨0, 1⟩, ⟨0, 15⟩] ∧
    VecOk vec (.vbcast 2 ⟨0, 0⟩ ⟨0, 1⟩ 31) [⟨0, 0⟩, ⟨0, 1⟩] ∧ VecOk vec (.vxall 1 ⟨0, 0⟩ ⟨0, 1⟩) [⟨0, 0⟩, ⟨0, 1⟩] ∧ vec.cur.lathe = none := by
  unfold VecOk; decide
/-- Two neighbours of a row, a row, two rows and a whole cluster, and the eight cores of a hub; core 1 is the second of each (R25). -/
theorem witness_VectorMovesAndExchange_blocks : (∀ n ∈ [2, 4, 8, 16], heads 1 n = true ∧ (gangCores 1 n)[1]? = some 1 ∧ (gangCores 1 n).length = n) ∧
    gangCores 1 8 = [0, 1, 2, 3, 16, 17, 18, 19] ∧ heads 2049 8 = true ∧ coreExists 2049 = true ∧ coreExists 1 = true := by decide
theorem witness_WindowWrite : (0x1C04 : Nat) = 4 + 256 * 28 ∧ 4 + 28 ≤ 32 ∧ (at0 th).vecBusy 0 0 = false ∧
    ¬ (8 + 28 ≤ 32) ∧ (∀ x ∈ (at0 th).here.threads, x.2.live = true → x.1 ≠ (at0 th).cur.slot → False) ∧ (0x1C01 : Nat) % 32 % 4 ≠ 0 := by
  decide
/-- The leader of a gang of cores 0 and 1 and its follower. -/
def gang2 : State :=
  { at0 th with cores := [(0, { threads := [(0, { th with gang := some ⟨7, 2, 0⟩ })] }),
      (1, { threads := [(3, { th with uid := 8, gang := some ⟨7, 2, 1⟩, g := th.g.set 13 0x2100 })] })] }
theorem witness_GangForms : gang2.me.gang.isSome = true ∧ (at0 th).me.drupe = none ∧ gangCores 0 2 = [0, 1] ∧
    (at0 th).accepts 1 (at0 th).src.kvwin = true ∧
    ({ at0 th with cores := (at0 th).cores ++ [(1, { threads := (List.range 8).map (fun k => (k, th)) })] } : State).accepts 1 0 = false := by
  decide
theorem witness_SplitDissolves : gang2.cur.follows = false ∧ gang2.me.gang.isSome = true ∧ gang2.me.leads = true ∧ gang2.me.live = true ∧
    ∀ m ∈ gang2.members gang2.cur.core gang2.cur.slot, m ≠ (gang2.cur.core, gang2.cur.slot) →
      gang2.headOf m.1 m.2 ≠ 0 ∧ (gang2.headOf m.1 m.2).toNat % 8 = 0 := by decide
theorem witness_SafePointAndLathe : vec.switchDue 0 0 = false ∧ ({ vec with mwSw := [(0, true)] } : State).switchDue 0 0 = true ∧
    ({ vec with mwSw := [(0, true)] } : State).savable 0 0 = true ∧ vec.me.drupe = none ∧ vec.me.gang = none ∧ vec.cur.follows = false ∧
    vec.pendingOf 0 0 = false ∧ vec.latheIdle 0 0 = true ∧ inDrupe.me.drupe.isSome = true := by decide
end Sys2Proof.Tests
namespace Sys2Proof.Tests

/-! ## Migration, the matrix unit, the Rind, envelopes -/

/-- Core 1 of this cluster, in cluster 1, waits for nothing; the address names its vault. -/
def migrs : State := { at0 { th with g := th.g.set 2 0x2000000 } with mwOvf := [(0, 16)] }
/-- The frame of the first table of container 1 is being moved. -/
def heldWalk : State := { paged [] with
  conts := [(1, { root := hbmPa 0 0, roles := [], place := [], fanout := 4, vault := [], verified := true, measure := [] })]
  hubs := [(0, { heldFrames := [0] })] }
theorem witness_ContextMoves_migr : (at0 th).me.drupe = none ∧ (at0 th).me.gang = none ∧
    2 ^ 52 ≤ ((at0 { th with g := th.g.set 2 0x10000000000000 }).rd 2).toNat ∧
    (paged []).ownerCluster 0 1 0x100000000 = none ∧ (paged []).walkHeld 0 1 0x100000000 = false ∧ heldWalk.walkHeld 0 1 0x100000000 = true ∧ migrs.ownerCluster 0 0 0x2000000 = some 1 ∧ migrs.me.migratory = true ∧
    clusterOf 0 = 0 ∧ migrs.mayLeave 0 0 = true ∧ migrs.here.fwd.length < 16 ∧ (migrs.roomIn 1).isSome = true ∧
    ({ vec with mwOvf := [(0, 16)] } : State).me.migratory = false ∧ ({ vec with mwOvf := [(0, 16)] } : State).savable 0 0 = true ∧
    ({ vec with cores := [(0, { vec.here with absent := [{ thr := th, slot := 0, glive := 0, plive := 0, vlive := 0, win := [] }] })] } : State).savable 0 0 = false ∧
    vec.pendingOf 0 0 = false ∧ vec.latheIdle 0 0 = true ∧ vec.here.partnerDone vec.me = true ∧ migrs.me.outs = [] ∧
    ({ migrs with cores := [(0, { threads := [(0, { th with deferred := [lateStore] })] })] } : State).mayHalt 0 0 = false := by
  decide
theorem witness_MatrixAndRindIssue_queues : (at0 th).here.mq.length + 0 < 16 ∧ (at0 th).here.mrun = none ∧ (at0 th).here.mrows = [] ∧
    (at0 th).rindWaits (some 3) [0, 1] = false ∧ (at0 th).me.unsettled = false := by decide
/-- A staged row of accumulator 2 at 0x3003's slot address. -/
def rows : State := { at0 { th with g := (th.g.set 3 0x3000).set 4 0x4000 } { rowSlots := [(1, { acc := 2, row := 0, addr := 0x3000, bytes := 64, cmd := 4 })] } with
  mem := words [(0x3000, 0x1234)] }
theorem witness_MatrixAndRindIssue_rowout : (at0 th).here.rowSlots.find? (fun r => r.2.addr == 5 && r.2.acc == 1) = none ∧
    rows.here.rowSlots.find? (fun r => r.2.addr == (rows.rd 3).toNat && r.2.acc == 2) =
      some (1, { acc := 2, row := 0, addr := 0x3000, bytes := 64, cmd := 4 }) ∧ (rows.rd 4).toNat + 64 ≤ 2 ^ 32 ∧ rows.mem.wf = true := by decide
/-- An envelope of one piece and its image's place. -/
def envs : State := { at0 th { env := [(1, { lo := 0, hi := 0x3F800000, pieces := [⟨0, 0x3F800000, 0, 1⟩] })] } with
  mem := words [(0x2000, 0x3F80000000000000), (0x2008, 1), (0x2010, 0x3F80000000000000), (0x2018, 0x100000000)] }
theorem witness_MatrixAndRindIssue_envelope : (envs.rd 2).toNat % 16 = 0 ∧ (envs.rd 2).toNat + 8192 ≤ 2 ^ 32 ∧ envs.here.rq = [] ∧
    (∀ p ∈ envs.here.envPend, p.d ≠ 1) ∧ envs.me.unsettled = false ∧ envs.src.kmig.toNat % 2 = 0 ∧ envs.rindWaits none [1] = false ∧ envs.rindWaits (some 1) [] = false ∧ (envs.here.envReg 1).pieces.length ≤ 256 ∧
    (envs.rd 3).toNat % 16 ≠ 0 ∧ 2 ^ 52 ≤ (vaultState.rd 8).toNat := by decide

/-! ## Messages -/

/-- Sixteen messages of the thread wait in the outbox; its trap block's cause word is given. -/
def full (t : Thread) (cause : Nat := 0) : State := { trapState 0 with
  cores := [(0, { threads := [(0, t)], outbox := List.replicate 16 { msg := { msg 0 0 with suid := 7 } }, acts := [(5, { j := 2, wver := 0, fin := false, ostack := 1, gfmt := 4 })] })]
  mem := words [(0x2000, 0x4000), (0x2018, cause)] }
/-- The full outbox's thread has a trap block at 0x2000. -/
def trapper : Thread := { th with ktrap := 0x2000 }
theorem witness_Sends : (at0 th).outFull = false ∧ (at0 th).cur.latch = none ∧ (at0 th).here.outbox = [] ∧ ((at0 th).rd 2).toNat % 64 = 0 ∧
    ((at0 th).rd 2).toNat + 256 ≤ 2 ^ 32 ∧ (at0 th).me.unsettled = false := by decide
theorem witness_Sends_full : (full trapper).me.unsettled = false ∧ (full trapper).outFull = true ∧ (full trapper).cur.follows = false ∧
    (full trapper).src.ktrap = 0x2000 ∧ (full trapper).me.gang = none ∧ (full trapper).mem.wf = true ∧ (full trapper).mem.nat 0x2018 8 < 2 ^ 63 ∧
    (full trapper).mem.nat 0x2000 8 = 0x4000 ∧ ((full trapper).rd 2).toNat % 64 = 0 ∧ (full th).src.ktrap = 0 ∧ (full th).outFull = true ∧
    2 ^ 63 ≤ (full trapper (2 ^ 63)).mem.nat 0x2018 8 ∧ (full { th with gang := some ⟨7, 2, 0⟩ }).me.gang.isSome = true ∧
    (full { th with gang := some ⟨7, 2, 0⟩ }).outFull = true ∧ (full trapper).me.credit (ocore 1 0) ≠ 0 := by decide

/-- A directory cache that holds expert 5 (g1) with an ACTIVE slot 2. -/
def entry5 : DirEntry := { v := true, name := 5, fver := 1, slots := ({ core := 3, state := 2 } : DirSlot) :: {} :: { core := 4, state := 2, wver := 0 } :: List.replicate 5 {} }
def dirs (e : List DirLine) : State := { at0 th with clusters := [(0, { dcache := e })] }
theorem witness_TokenSent : (dirs []).outFull = false ∧ (dirs []).me.unsettled = false ∧ (dirs []).findUid 7 = some (0, 0) ∧ (dirs []).me.outs = [] ∧ (dirs []).here.outbox = [] ∧
    ((dirs [⟨5, entry5⟩]).cluster 0).dirLine 5 = some ⟨5, entry5⟩ ∧ entry5.v = true ∧ (entry5.slot 2).state = 2 ∧ (entry5.slot 2).wver = 0 ∧
    ((dirs [⟨5, {}⟩]).cluster 0).dirLine 5 = some ⟨5, {}⟩ ∧ ((dirs []).cluster 0).dirLine 5 = none ∧ (dirs []).cur.latch = none ∧ (dirs []).me.live = true ∧
    (dirs []).src.kstep.toNat % 2 ^ 32 = 0 ∧ (entry5.slot 0).wver = 0 ∧ (entry5.slot 0).depth = (entry5.slot 2).depth ∧ ((dirs []).rd 2).toNat % 64 = 0 ∧
    ((dirs []).rd 2).toNat + 64 * 4 ≤ 2 ^ 32 ∧ (∀ j, j < 8 → ((({ entry5 with slots := [] } : DirEntry).slot j).state ≠ 2)) := by decide
/-- Two messages in the inbox, the second alone selected by tag 9. -/
def inbox : State := { at0 { th with g := (th.g.set 4 (9 + 0xFF000000)).set 5 0 } { inbox := [{ msg := { msg 0 0 with tag := 3 } }, { msg := { msg 0 1 with tag := 9, uid := 31 } }] } with ev := {} }
theorem witness_ReceiveForms : inbox.cur.latch = none ∧
    (inbox.here.inbox.find? (fun e => e.visible 0 && selects (inbox.rd 4) e.msg)).map (·.msg.uid) = some 31 ∧
    (inbox.here.inbox.find? (fun e => e.visible 0 && selects (inbox.rd 0) e.msg)).map (·.msg.uid) = some 30 ∧
    (at0 th).here.inbox = [] ∧ (at0 th).me.timedOut = false ∧ (inbox.rd 2).toNat % 64 = 0 ∧ (inbox.rd 2).toNat + 64 ≤ 2 ^ 32 ∧
    (inbox.rd 5).toNat / 2 ^ 52 = 0 ∧ ((at0 { th with rtimer := some 0 }).thr 0 0).rtimer = some 0 ∧ (at0 th).cycle = 0 ∧
    (at0 { th with timedOut := true }).me.timedOut = true ∧ ((at0 th).rd 3).toNat / 2 ^ 52 = 0 ∧
    ((at0 { th with g := th.g.set 3 0x70000000000000 }).rd 3).toNat / 2 ^ 52 ≠ 0 ∧ inbox.me.unsettled = false ∧ inbox.mem.wf = true := by decide
/-- A message ready in core 1's outbox; one for a core that does not exist. -/
def outs (dst : Nat) : State := { at0 th with cores := (at0 th).cores ++ [(1, { outbox := [{ msg := { msg 0 0 with dst := dst } }] })], ev := { q := 1 } }
/-- One message in the network. -/
def net (m : Msg) : State := { at0 th with net := [m], ev := {} }
/-- A message alone in the network arrives where there is room. -/
theorem arrivesAt (s : State) (m : Msg) (hn : s.net = [m]) (hk : s.ev.k = 0)
    (h : (s.core m.dst).room m = true ∧ m.atRouter = false ∧ (s.core m.dst).spill = [] ∧ m.back = false) : Arrives s m := by
  refine ⟨by rw [InNet, hn, hk]; rfl, h.2.2.2, ?_, h.1, ?_⟩
  · intro _ o ho hr
    rw [hn, List.mem_singleton] at ho
    rw [ho, h.2.1] at hr; cases hr
  · intro _ o ho
    rw [h.2.2.1] at ho; cases ho
theorem arrives (m : Msg) (h : ((net m).core m.dst).room m = true ∧ m.atRouter = false ∧ ((net m).core m.dst).spill = [] ∧ m.back = false) :
    Arrives (net m) m := arrivesAt _ _ rfl rfl h
theorem witness_MessagesTravel : (∃ o, ((outs 0).core 1).outbox[0]? = some o ∧ o.ready = true ∧ o.routing = false ∧ (outs 0).sendable o.msg = true ∧
      (outs 0).unsettledPush o.msg = false) ∧ (∃ o, ((outs 4000).core 1).outbox[0]? = some o ∧ (outs 4000).sendable o.msg = false) ∧
    Arrives (net (msg 0 1)) (msg 0 1) ∧ Arrives (net (msg 3 0)) (msg 3 0) ∧
    (net (msg 0 1)).hasParked 7 = false ∧ (msg 0 1).dslot < 8 ∧ ((net (msg 0 1)).core 0).spill = [] := by
  refine ⟨⟨_, rfl, ?_⟩, ⟨_, rfl, ?_⟩, arrives _ (by decide), arrives _ (by decide), ?_⟩ <;> decide
theorem witness_MessagesTravel_spill : (0 : Nat) + ((net (msg 0 0)).die 0).dlto ≤ ({ net (msg 0 0) with cycle := 65536 } : State).cycle ∧
    ((net (msg 0 0)).die 0).dlto ≠ 0 ∧ coreExists 0 = true ∧ (msg 0 0).escaped = false ∧
    ((at0 th { spill := [msg 0 1] }).core 0).room (msg 0 1) = true := by decide
/-- Messages of the spawn and of a Drupe, towards core 0's next slot. -/
def spawnMsg : Msg := msg 4 0 (.spawn 0x5000 [1, 2, 3, 4, 5, 6, 7, 8] 1 0 3 2 none 1)
/-- Core 0 with every slot taken. -/
def crowded (m : Msg) : State := { net m with cores := [(0, { threads := (List.range 8).map (fun k => (k, { th with uid := 40 + k })) })] }
theorem witness_SpawnForms : (at0 th).outFull = false ∧ (at0 th).me.unsettled = false ∧ Arrives (net spawnMsg) spawnMsg ∧
    (net spawnMsg).rank = 0 ∧ (net spawnMsg).spawnInGang spawnMsg = false ∧ (net spawnMsg).reserved 0 = false ∧ (net spawnMsg).haltingOf none = false ∧
    (net spawnMsg).freeSlot 0 = some 1 ∧ (crowded spawnMsg).freeSlot 0 = none ∧
    ((at0 { th with blk := .spawnReply 3 0x5000 }).thr 0 0).blk = .spawnReply 3 0x5000 ∧ (0x5000 : Word).toNat % 8 = 0 ∧
    Arrives (net (msg 1 0 (.drupe none 1))) (msg 1 0 (.drupe none 1)) ∧ Arrives (net (msg 5 1 (.spawnReply true))) (msg 5 1 (.spawnReply true)) :=
  ⟨by decide, by decide, arrives _ (by decide), by decide, by decide, by decide, by decide, by decide, by decide, rfl, by decide, arrives _ (by decide),
   arrives _ (by decide)⟩
/-- Where every slot is taken, a spawn, a Drupe and a context still arrive. -/
theorem witness_SpawnForms_full : Arrives (crowded spawnMsg) spawnMsg ∧ Arrives (crowded (msg 1 0 (.drupe none 1))) (msg 1 0 (.drupe none 1)) ∧
    Arrives (crowded (msg 6 2 (.context th 1 3 4))) (msg 6 2 (.context th 1 3 4)) ∧ (crowded spawnMsg).spawnInGang spawnMsg = false ∧
    (crowded spawnMsg).reserved 0 = false ∧ (crowded spawnMsg).haltingOf none = false ∧ (crowded (msg 1 0 (.drupe none 1))).freeSlot 0 = none :=
  ⟨arrivesAt _ _ rfl rfl (by decide), arrivesAt _ _ rfl rfl (by decide), arrivesAt _ _ rfl rfl (by decide), by decide⟩
theorem witness_ContextMoves_arrives : Arrives (net (msg 6 2 (.context th 1 3 4))) (msg 6 2 (.context th 1 3 4)) ∧
    Arrives (net (msg 7 1 (.contextAck 5 2 0))) (msg 7 1 (.contextAck 5 2 0)) ∧ (net (msg 6 2)).freeSlot 0 = some 1 ∧
    ((at0 { th with blk := .leaving }).thr 0 0).blk = .leaving ∧
    ((at0 th).core 0).fwd.length < 16 ∧ (at0 th).reserved 0 = false ∧ ((at0 th).core 0).inbox = [] ∧ ((at0 th).core 0).qo = [] ∧
    (crowded (msg 6 2 (.context th 1 3 4))).freeSlot 0 = none ∧ (∀ e ∈ ((net (msg 6 2)).core 0).inbox, e.msg.kind ≠ 6) :=
  ⟨arrives _ (by decide), arrives _ (by decide), by decide⟩
end Sys2Proof.Tests
namespace Sys2Proof.Tests

/-! ## Engines, rings, collectives, queues -/

theorem witness_EngineQueuesAndRings_push : (at0 th).me.unsettled = false ∧ (fget [] (at0 th).here.qi 0).length < fifoDepth 0 ∧ (fget [] (at0 th).here.qi 1).length < fifoDepth 1 ∧
    (fget [] (at0 th).here.qi 2).length < fifoDepth 2 ∧ (fget [] (at0 th).here.qi 3).length < fifoDepth 3 ∧
    ((at0 { th with g := th.g.set 3 0x6A }).rd 3).toNat % 128 = 0x6A ∧ ((at0 { th with g := th.g.set 3 0x6B }).rd 3).toNat % 128 = 0x6B := by decide
/-- Two results of FIFO 1 wait, the second of this thread; the selector asks for FIFO 1, any sequence. -/
def results : State := at0 { th with g := th.g.set 4 1 } { qo := [(1, [{ hdr := 5, body := [6], slot := 1, uid := 9 }, { hdr := 7, body := [8, 9], slot := 0, uid := 7 }])] }
theorem witness_EngineQueuesAndRings_pop : (fget [] results.here.qo ((results.rd 4).toNat % 4)).map (fun e => e.uid == results.me.uid) = [false, true] := by
  decide
/-- Ring 0 of cluster 0: a slot filled and consumed, one acquired. -/
def ring0 : Ring := { base := 0x2000, slots := 4, bytes := 64, a := 3, p := 2, c := 1, f := 0 }
def ringState : State := { at0 { th with g := ((th.g.set 3 0).set 4 1).set 5 0, acquired := [(0, 2)], consumed := [(0, 0)] } with clusters := [(0, { rings := [(0, ring0)] })] }
theorem witness_EngineQueuesAndRings_ring : ringState.ringOf 0 none = some ring0 ∧ posDiff ring0.a ring0.f < ring0.slots ∧ ring0.c ≠ ring0.p ∧
    ring0.waitA = [] ∧ ring0.waitC = [] ∧ ring0.freed = [] ∧ ring0.pubs = [] ∧ ringState.unacked 7 = false ∧ ringState.me.unsettled = false ∧
    ringState.ringOf 0x2000 none = none ∧ fget? (ringState.cluster 0).rings 1 = none ∧ (∀ j, j < 1 → (fget? (ringState.cluster 0).rings j).isSome) ∧
    (0x1FFFF00 : Nat) % 2 ^ 25 + 4 * 64 ≤ 2 ^ 25 ∧ (0x1FFFF00 : Nat) % 64 = 0 := by decide
/-- Group 3 has a tree of this core alone; its round as given. -/
def grp (g : List (Nat × GroupState)) : State := { at0 th { tree := [(3, 0xF8000000)], groups := g } with ev := { k := 3 } }
theorem witness_Collectives : treeV ((grp []).treeOf 0 3) = true ∧ treeMb ((grp []).treeOf 0 3) = true ∧ treeMb ((grp []).treeOf 0 4) = false ∧
    (grp []).treeOf 0 3 = 2 ^ 31 + 2 ^ 30 + 7 * 2 ^ 27 ∧ fget? (grp []).here.groups 3 = none ∧
    fget? (grp [(3, { contrib := 5, uid := 7, bar := false, result := some 9 })]).here.groups 3 = some { contrib := 5, uid := 7, bar := false, result := some 9 } ∧
    fget? (grp [(3, { contrib := 5, uid := 7, bar := true, result := some 9 })]).here.groups 3 = some { contrib := 5, uid := 7, bar := true, result := some 9 } ∧
    (at0 svc).src.krole.toNat % 4 = 3 ∧ treeStatus 0 0xF8000000 = 0 ∧ (at0 svc).holdsRound 3 0 = false ∧ (grp []).me.unsettled = false ∧
    (grp []).ev.on = false ∧ ({ contrib := 5, uid := 7, bar := false } : GroupState).claimed = false ∧ ({ contrib := 5, uid := 7, bar := false } : GroupState).gone = false := by decide
/-- No other router names this core's as its parent; and core 16's does, so that the trees disagree. -/
def disagree : State := { grp [(3, { contrib := 5, uid := 7, bar := false })] with
  cores := (grp [(3, { contrib := 5, uid := 7, bar := false })]).cores ++ [(16, { tree := [(3, 0x80000000)] })] }
theorem witness_Collectives_alone (c : Nat) : ¬ (treeV ((grp []).treeOf c 3) = true ∧
    treeStep c ((grp []).treeOf c 3) (treePar ((grp []).treeOf c 3)) = some 0) := by
  rcases Nat.eq_zero_or_pos c with h | h
  · subst h; decide
  · have h0 : (grp []).treeOf c 3 = 0 := by
      have hc : (0 == c) = false := by rw [beq_eq_false_iff_ne]; omega
      simp [State.treeOf, State.core, grp, at0, fget, hc]
    rw [h0]; rintro ⟨h1, -⟩; exact absurd h1 (by decide)
theorem witness_Collectives_disagree : ((fget? disagree.cores 16).isSome = true ∧ treeV (disagree.treeOf 16 3) = true ∧
    treeStep 16 (disagree.treeOf 16 3) (treePar (disagree.treeOf 16 3)) = some 0) ∧ disagree.treeOf 0 3 = 2 ^ 31 + 2 ^ 30 + 7 * 2 ^ 27 ∧
    (fget? disagree.here.groups 3).isSome = true := by decide
/-- A core's copies of expert 5 (g1) at step 0, its slot 2 ACTIVE. -/
def grads : State := { at0 { th with g := #v[0, 5, 5, 0x8000000000000009, 4, 5, 0, 0, 1, 2, 3, 4, 5, 0x2100, 0x2008, 6] }
  { acts := [(5, { j := 2, wver := 0, fin := false, ostack := 1, gfmt := 4 })] } with ev := {} }
/-- An optimiser core whose queue holds two elements of expert 5. -/
def gradq : State :=
  let e := fun (l : Nat) => ({ name := 5, step := 0, line := l, last := false, j := 1, gfmt := 4, ending := false, data := 77, suid := 3 } : GradElem)
  { cores := [(2048, { threads := [(0, th)], gradq := [{ e 1 with name := 6 }, e 2, e 3] })], cur := { core := 2048, addr := 0x1000 } }
theorem witness_GradientQueue : fget? grads.here.acts ((grads.rd 2).toNat % 2 ^ 20) = some { j := 2, wver := 0, fin := false, ostack := 1, gfmt := 4 } ∧
    grads.me.credit (ocore 1 1) ≠ 0 ∧ grads.outFull = false ∧ grads.me.unsettled = false ∧
    ({ grads with cores := [(0, { grads.here with threads := [(0, grads.me.setCredit (ocore 1 1) 0)] })] } : State).me.credit (ocore 1 1) = 0 ∧
    (grads.rd 2).toNat / 2 ^ 20 % 2 ^ 32 = 0 ∧ (0x100005 : Nat) / 2 ^ 20 % 2 ^ 32 = 1 ∧ (msg 0 2).vn = 2 ∧ fget? (at0 th).here.acts 0 = none ∧ isOpt grads.cur.core = false ∧
    isOpt gradq.cur.core = true ∧ (gradq.here.gradq.map (fun e => (e.name, e.step))) = [(6, 0), (5, 0), (5, 0)] ∧ (gradq.rd 1).toNat = 5 ∧
    ∃ m, (net (msg 0 2 (.gradient 5 0 3 false 1 4 false))).net[0]? = some m := ⟨by decide, by decide, by decide, by decide, by decide, by decide, by decide, by decide, by decide, by decide, by decide, by decide, by decide, _, rfl⟩
/-- A record in cluster 0's queue and one outside it; core 0 owns an expert. -/
def taskRec : TaskRec := { pc := 0x5000, key := 0x2000, args := [1, 2, 3, 4, 5, 6], launch := none, cont := 0 }
def tasks (q o : List TaskRec) : State := { at0 th with clusters := [(0, { taskq := q, taskOver := o })], dir := [(5, { e := { v := true, name := 5 } })] }
theorem witness_TaskQueue : (at0 th).taskCap 0 = false ∧ (tasks [] []).taskCap 0 = true ∧ MayRetire (tasks [] []) ∧
    (tasks [] []).keyCluster 0 0 9 = 0 ∧ ((tasks [] []).cluster 0).taskq.length < 512 ∧ ((tasks [] []).cluster 0).taskOver = [] ∧
    ((tasks [] []).cluster 0).taskWait = [] ∧ ((tasks [] []).cluster 0).taskq = [] ∧ ((tasks [taskRec] []).cluster 0).taskq = [taskRec] ∧ taskRec.args.length = 6 ∧
    (tasks [taskRec] []).reserved 0 = false ∧ (tasks [taskRec] []).haltingOf taskRec.launch = false ∧ (tasks [taskRec] []).freeSlot 0 = some 1 ∧
    ((tasks [] [taskRec]).cluster 0).taskOver = [taskRec] ∧ (tasks [] []).me.unsettled = false ∧ (tasks [] []).walkHeld 0 0 9 = false ∧ (tasks [] []).cur.follows = false ∧ (tasks [] []).cur.stop = false ∧
    ({ tasks [] [] with cores := [(0, { (tasks [] []).here with threads := [(0, { th with deferred := [lateStore] })] })] } : State).canRetire 0 0 = false := by
  unfold MayRetire; decide

/-! ## Tables, directory, counters -/

theorem witness_TableForms_rights : (at0 th).src.krole.toNat % 4 ≠ 3 ∧ ((at0 { th with g := th.g.set 3 0x8000000000000001 }).rd 3).toNat / 2 ^ 63 = 1 ∧
    (at0 th).taskCap 0 = false ∧ isOpt 0 = false ∧ ((at0 th).rd 4).toNat % 4 = 0 ∧ (at0 th).svcCore 0 = false := by decide
/-- A service thread with a container of one placement entry, a stride pattern at g2 and TLB entries. -/
def tableState : State := { at0 { svc with g := #v[0, 153, 0x2000, 0x8000000000000203, 0, 0x10000, 0, 0, 1, 2, 3, 4, 5, 0x2100, 0x2008, 6], cont := 1 } { dtlb := [page 0 5, { page 0 6 with handle := 2 }], itlb := [page 0 5] } with
  conts := [(1, { root := 0, roles := [], place := [BitVec.ofNat 64 (2 + 7 * 2 ^ 11)], fanout := 4, vault := [], verified := true, measure := [] })]
  mem := words [(0x2000, 0x60000000000001)], svcmap := [(0, 0x8000)] }
theorem witness_TableForms_writes : tableState.src.krole.toNat % 4 = 3 ∧ tableState.me.unsettled = false ∧ tableState.unacked 7 = false ∧
    (tableState.rd 1).toNat < 154 ∧ (tableState.rd 4).toNat / 2 ^ 12 % 8 = 0 ∧ (tableState.rd 4).toNat / 2 ^ 62 = 0 ∧ tableState.here.cap.length < 16 ∧
    (tableState.rd 3).toNat / 2 ^ 63 = 1 ∧ (tableState.rd 1) ≠ 0 ∧ (tableState.rd 3).toNat % 2 ^ 8 ≠ 0 ∧ (tableState.rd 2).toNat % 32 = 0 ∧
    (tableState.rd 4).toNat / 2 ^ 8 % 2 = 0 ∧ patternOk (tableState.mem.nat 0x2000 32) = true ∧ fget? (at0 th).conts 0 = none ∧
    ((fget? tableState.conts 1).map (·.place)) = some [BitVec.ofNat 64 (2 + 7 * 2 ^ 11)] ∧ (tableState.rd 4).toNat ≤ (2 + 7 * 2 ^ 11) % 2 ^ 11 ∧
    (2 + 7 * 2 ^ 11) % 2 ^ 11 ≤ (2 + 7 * 2 ^ 11) / 2 ^ 11 % 2 ^ 11 := by decide
/-- Expert 5's home, in a window that does not end; slots as given, every slot served and finished where `f`. -/
def homes (f : Bool) : State := { at0 { svc with g := #v[0, 5, 0x2000, 2, 1, 0, 8, 0, 1, 2, 3, 4, 5, 0x2100, 0x2008, 6] } with
  dir := [(5, { e := { v := true, name := 5, frz := f, served := if f then 1 else 0, meter := 4, fver := 1
                       slots := { core := 3, state := 2, fin := f, wver := 1 } :: { core := 5, state := 2 } :: { core := 6, state := 3 } :: List.replicate 5 {} }, winLen := 9, winStart := 0 })]
  mem := words [(0x2010, 5 + 2 ^ 20 + 2 ^ 56), (0x2018, 7 * 2 ^ 56)] }
/-- The entry with its first slot alone. -/
def joined : State := { homes true with dir := [(5, { e := { v := true, name := 5, frz := true, served := 1, fver := 1, slots := { core := 3, state := 2, fin := true, wver := 1 } :: List.replicate 7 {} }, winLen := 9 })] }
set_option maxRecDepth 4096 in
theorem witness_DirectoryForms : (homes false).src.krole.toNat % 4 = 3 ∧ ((homes false).rd 2).toNat % 64 = 0 ∧ (homes false).me.unsettled = false ∧
    (entryOf ((homes false).mem.nat 0x2000 128)).name = 5 ∧ (entryOf ((homes false).mem.nat 0x2000 128)).win ≠ 0 ∧
    (homes false).cycle < ((homes false).home 5).winStart + 256 * ((homes false).home 5).winLen ∧ ((homes false).rd 4).toNat % 4 = 1 ∧
    ((homes false).rd 3).toNat % 4 = 2 ∧ ((homes false).home 5).e.v = true ∧ ((homes false).home 6).e.v = false ∧ (joined.home 5).joinDone = true ∧
    (joined.home 5).e.fver < (entryOf (joined.mem.nat 0x2000 128)).fver ∧ (joined.home 5).e.slots.length = 8 ∧
    (∀ j, j < 8 → 1 ≤ j → ((joined.home 5).e.slot j).state = 0) ∧ ((homes false).rd 4).toNat = 1 ∧ (((homes false).home 5).e.slot 1).state = 2 ∧
    (((homes false).home 5).e.slot 2).state ≠ 2 ∧ ((homes false).rd 5).toNat < 1 ∧ 7 < ((homes false).rd 6).toNat := by decide
/-- A legal image of expert 5 at 0x2000, owned by core 3, and no entry of it. -/
def creates : State := { homes false with dir := [], mem := words [(0x2010, 5 + 2 ^ 20 + 3 * 2 ^ 24 + 2 ^ 35 + 4 * 2 ^ 40 + 2 ^ 56), (0x2028, 1 + 0x2000 * 2 ^ 16)] }
/-- The joined entry, shared by cluster 2, its slot 1 claimed for a thread of core 9. -/
def deletes : State := { joined with
  cores := joined.cores ++ [(9, { threads := [(1, { th with uid := 9, blk := .answer 3 })] })]
  dir := [(5, { (joined.home 5) with e := { (joined.home 5).e with shr := 4 }, claims := [{ j := 1, core := 3, refused := 0, rest := [], asker := some (9, 1) }] })] }
set_option maxRecDepth 4096 in
theorem witness_DirectoryForms_create : creates.src.krole.toNat % 4 = 3 ∧ (creates.rd 5).toNat % 4 = 0 ∧ badImage (creates.mem.nat 0x2000 128) = false ∧
    (entryOf (creates.mem.nat 0x2000 128)).name = 5 ∧ (creates.home 5).e.v = false ∧ creates.entriesAt (homeOf 5) < 1024 ∧
    creates.me.unsettled = false ∧ badImage ((homes false).mem.nat 0x2000 128) = true ∧
    (({ creates with dir := (homes false).dir } : State).home 5).e.v = true := by decide
set_option maxRecDepth 4096 in
theorem witness_DirectoryForms_delete : (deletes.rd 10).toNat % 4 = 3 ∧ (deletes.home 5).e.v = true ∧
    (∀ j, j < 8 → 1 ≤ j → ((deletes.home 5).e.slot j).state = 0) ∧ (deletes.home 5).e.shr.testBit 2 = true ∧ ((deletes.home 5).e.slot 0).state ≠ 0 ∧
    (∀ cl ∈ (deletes.home 5).claims, cl.asker ≠ some (deletes.cur.core, deletes.cur.slot)) ∧ (deletes.thr 9 1).blk = .answer 3 ∧
    deletes.cycle < 256 * (deletes.home 5).winLen := by decide
/-- Slots 3 to 7 of expert 5 are FREE; clusters whose cores may hold a replica by `shr`. -/
def replicas (shr : Nat) : State := { homes false with
  dir := [(5, { e := { ((homes false).home 5).e with shr := shr, maxrep := 7 }, winLen := 9 })] }
set_option maxRecDepth 4096 in
theorem witness_DirectoryForms_repnew : ((replicas 1).home 5).e.v = true ∧ (replicas 1).cycle < 256 * ((replicas 1).home 5).winLen ∧
    (((replicas 1).home 5).e.slot 3).state = 0 ∧ ((replicas 1).home 5).claims = [] ∧ ((replicas 1).home 5).inUse < ((replicas 1).home 5).e.maxrep + 1 ∧
    ((replicas 1).home 5).e.shr.testBit (clusterOf 0) = true ∧ (replicas 1).reserved 0 = false ∧
    (∀ j, j < 8 → (((replicas 1).home 5).e.slot j).state = 0 ∨ (((replicas 1).home 5).e.slot j).core ≠ 0) ∧
    ((replicas 0).home 5).e.shr = 0 ∧ ((homes false).home 5).e.maxrep + 1 ≤ ((homes false).home 5).inUse := by decide
theorem witness_CounterForms : ((at0 th).rd 6).toNat = 0 ∧ (at0 th).cur.core < 2240 ∧ (at0 th).me.gang = none ∧ (at0 svc).src.krole.toNat % 4 = 3 ∧
    (0x2000008 : Nat) % 2 ^ 8 = 8 ∧ (0x200F008 : Nat) / 2 ^ 12 % 2 ^ 13 < 16 ∧ (0x2000108 : Nat) / 2 ^ 8 % 16 = 1 ∧ (0x0F : Nat) % 2 ^ 8 > 0x0E ∧
    ((homes false).home 5).e.v = true ∧ ((homes false).home 6).e.v = false ∧ (tableState).svcCore 0 = true ∧ tableState.me.unsettled = false ∧
    (2239 * 16 : Nat) / 2 ^ 4 % 2 ^ 12 < 2240 ∧ ringState.ringOf 0 ringState.me.launch = some ring0 ∧ fget? (ringState.cluster 0).rings 1 = none ∧
    (0x2000307 : Nat) % 2 ^ 8 = 7 ∧ (0x2000307 : Nat) / 2 ^ 8 % 16 = 3 ∧ (0x20BF00A : Nat) / 2 ^ 12 % 2 ^ 13 = 191 ∧ dieOf 0 < 8 ∧
    (1 + 11 * 16 : Nat) / 2 ^ 4 % 2 ^ 12 < 12 ∧ (2 + 23 * 16 : Nat) / 2 ^ 4 % 2 ^ 12 < 24 := by decide
/-- A record of core 0's with a reply code stands in slot 255 of the fault buffer. -/
theorem witness_CounterForms_record : (let s : State := { tableState with mem := Memory.setNat [] (tableState.fltBuf 0 + 64 * 255) 64 0x102 }
    (s.mem.nat (s.fltBuf 0 + 64 * 255) 64).testBit 8 = true ∧ s.mem.nat (s.fltBuf 0 + 64 * 255) 64 % 256 ≠ 0 ∧ s.mem.wf = true) := by decide +kernel
theorem leNat_zeros (l : List Nat) : leNat (l.map (fun _ => 0#8)) = 0 := by
  induction l with
  | nil => rfl
  | cons a l ih => rw [List.map_cons, leNat, ih]; rfl
/-- An empty fault buffer. -/
theorem witness_CounterForms_flush : ∀ k, k < 256 →
    (({ tableState with mem := [] } : State).mem.nat (tableState.fltBuf 0 + 64 * k) 64).testBit 8 = false := by
  intro k _
  have h : (({ tableState with mem := [] } : State).mem.nat (tableState.fltBuf 0 + 64 * k) 64) = 0 := leNat_zeros (List.range 64)
  rw [h]; rfl
end Sys2Proof.Tests
namespace Sys2Proof.Tests

/-! ## Events of a core and of its units -/

/-- A state at cycle 2^21 whose service core answers faults. -/
def later (t : Thread) (x : Core := {}) : State := { at0 t x with cycle := 2 ^ 21, svcmap := [(0, 0x8000)], ev := {} }
/-- An outstanding result. -/
def out (rs : List Reg) (w : OutWait) (v : OutVal) (look : Nat := 0) : Out := { id := 1, regs := rs, look := look, wait := w, val := v, lathe := false }
theorem witness_ThreadAndLatheEvents_timers : ((later { th with timer := some 2 }).thr 0 0).timer = some 2 ∧ 2 ≤ (later th).cycle ∧
    ((later th).core 0).kage.toNat ≤ ({ th with age := 57 } : Thread).age + 7 ∧ ((later th).core 0).kpre.toNat ≤ ({ th with safeCount := 4096 } : Thread).safeCount ∧
    (match (({ later { th with safeCount := 4096 } with mem := words [(0x1008, 0x82280000)] } : State).fetch 0 0).2 with
     | .group g => !groupSafe g
     | _ => false) = true := by decide
theorem witness_ThreadAndLatheEvents_results : (later { th with outs := [out [.g 3] .ready (.words [9])] }).ev.on = false ∧
    ((later { th with outs := [out [.g 3] .ready (.words [9])] }).thr 0 0).outs[0]? = some (out [.g 3] .ready (.words [9])) ∧
    (out [.g 3] (.ldx 0x2000 9 0 1024) (.words [])).wait = .ldx 0x2000 9 0 1024 ∧ 0 + 1024 ≤ (later th).cycle ∧ (1024 : Nat) ≠ 0 ∧
    (fget 0 (later th).svcmap (svcIndex 0)).toNat / 2 ^ 15 = 1 ∧ th.retried = false ∧
    ({ later { th with held := some (.stx 0x2000 5 9) } with stalls := [(0, 7, 0)] } : State).stalls = [(0, 7, 0)] ∧
    ((later { th with held := some (.load 0x2000 6 [.g 3] 0), outs := [out [.g 3] .held (.words [])] }).thr 0 0).outs = [out [.g 3] .held (.words [])] ∧
    (later th).stalls = [] ∧ (later th).illencAny 0 0 (.lone (.movi 5 5)) = false := by decide
/-- A vector store whose two units are to be performed later. -/
def lateStv : Deferred := ⟨.stv 0x4000 8 0 1 0 [BitVec.ofNat 1024 (2 ^ 32 * 7 + 5)] none, 1, 0x1000, [⟨0, 0x8020, 4⟩, ⟨1, 0x8024, 4⟩], false, true, [], false⟩
theorem witness_ThreadAndLatheEvents_relaxed : (relaxed [lateLoad]).defers = true ∧ (relaxed [lateLoad]).ev.on = true ∧
    (relaxed [lateLoad]).me.accessBusy = false ∧ ((relaxed []).rd 2).toNat % 8 = 0 ∧ (relaxed []).src.kmig.toNat % 2 = 0 ∧ (relaxed []).cur.stop = false ∧
    ((relaxed [lateLoad]).thr 0 0).deferred[0]? = some lateLoad ∧ lateLoad.parts[0]? = some ⟨0, 0x2000, 8⟩ ∧ lateLoad.got = [] ∧
    (relaxed [lateLoad]).partWaits ⟨0, th.cont, 7⟩ [lateLoad] 0 0 = false ∧ (relaxed [lateStore]).partWaits ⟨0, th.cont, 7⟩ [lateStore] 0 0 = false ∧
    ((relaxed [lateLoad]).thr 0 0).outs.map (fun o => (o.id, o.wait)) = [(lateLoad.out, .access)] ∧ (relaxed [lateStore]).mem.wf = true ∧
    (at0 { th with deferred := [lateStore] }).me.outs = [] := by decide
theorem witness_ThreadAndLatheEvents_order : (relaxed [lateStore, lateLoad]).partWaits ⟨0, th.cont, 7⟩ [lateStore, lateLoad] 1 0 = true ∧
    (relaxed [lateStv]).partWaits ⟨0, th.cont, 7⟩ [lateStv] 0 0 = false ∧ lateStv.parts[0]? = some ⟨0, 0x8020, 4⟩ ∧ (4 : Nat) ≤ 2 ^ 16 ∧
    (relaxed [lateStore]).me.deferred.isEmpty = false ∧ ((relaxed [lateStore]).rd 2).toNat % 8 = 0 := by decide
theorem witness_ThreadAndLatheEvents_stv : shapeState.vin ⟨0, 0⟩ = true ∧ ({ shapeState with defers := true } : State).me.deferred = [] ∧
    (let r := shapeOf (shapeState.mem.bytes 0x4000 32)
     r.ok 8 0 = true ∧ (r.active 8 0).map (fun l => (⟨l, (r.addr (8 + l)).toNat, unitBytes r.fmt⟩ : Part)) = [⟨0, 0x8020, 4⟩, ⟨1, 0x8024, 4⟩]) := by decide
/-- A byte of host memory whose last store context 20 does not see yet. -/
def unseen (ev : EvArgs) : State := { at0 th with hidden := [⟨2 ^ 60 + 64, 0, 9, 0, false, [], [7, 20]⟩], acks := [(9, 0)], ev := ev }
theorem witness_ThreadAndLatheEvents_acknowledgement : (unseen { on := true }).hidden[0]?.map (·.pa) = some (2 ^ 60 + 64) ∧
    (unseen {}).acks[0]? = some (9, 0) ∧ (unseen {}).ev.on = false := by decide
theorem witness_ThreadAndLatheEvents_held : ((later { th with held := some (.load 0x2000 6 [.g 3] 0), outs := [out [.g 3] .held (.words [])] }).thr 0 0).held =
      some (.load 0x2000 6 [.g 3] 0) ∧ (later th).flts = [] ∧ (later th).stalls = [] ∧ (later th).ev.on = false ∧
    (later { th with held := some (.stx 0x2000 5 9) }).me.blk = .none := by decide
/-- A Lathe at work on an addition, and one whose repetitions are over. -/
def lathe (isOver : Bool) : State :=
  let l : Lathe := { slot := 0, uid := 7, pc := 0x1000, left := 0, words := [.vadd 1 ⟨0, 0⟩ ⟨0, 2⟩ ⟨0, 7⟩], stride := 1, count := 3
                     wbase := 4, wcnt := 8, r := if isOver then 3 else 1 }
  { at0 { th with kvwin := 0x804 } { lathe := some l, v := Vector.ofFn (fun i => BitVec.ofNat 1024 (i.val * 0x10001)) } with ev := {} }
theorem witness_ThreadAndLatheEvents_lathe : ((lathe true).here.lathe.map (fun l => (l.left, l.over))) = some (0, true) ∧ (lathe true).me.outs = [] ∧
    (lathe true).here.envPend = [] ∧ (lathe true).here.rq = [] ∧ (lathe true).here.vxq = [] ∧ (lathe true).me.live = true ∧
    ((lathe false).here.lathe.map (fun l => (l.over, l.words, l.i, l.uid))) = some (false, [.vadd 1 ⟨0, 0⟩ ⟨0, 2⟩ ⟨0, 7⟩], 0, 7) ∧
    (Instr.vadd 1 ⟨0, 0⟩ ⟨0, 2⟩ ⟨0, 7⟩).wf = true ∧ 0 < 8 ∧ 4 + 8 ≤ 32 ∧
    (∀ o ∈ ([⟨0, 0⟩, ⟨0, 2⟩, ⟨0, 7⟩] : List VOp), 2 ^ o.w.val ≤ 8) ∧ ((lathe false).thr 0 0).held = none ∧ (lathe false).here.envPend = [] ∧
    (lathe false).here.vxq = [] := by decide
/-- A matrix command with its operands. -/
def mcmd (i : Instr) (ops : List Word) : MCmd := { ins := i, s := { ops := ops }, core := 0, slot := 0, uid := 7, pc := 0x1000, seq := 3, launch := none, cont := 0 }
/-- The command waits; the weight buffer holds a panel of one BF16 block, memory one of its own, a shape record and a row of A. -/
def matrix (m : MCmd) : State := { at0 th { mq := [m], wbuf := words [(0, 4 + 2 ^ 32 + 2 ^ 48), (64, 1), (128, 0x40403F80)], acc := [(0, { elems := [(0, 5), (3, 7)] })] } with
  ev := {}, mem := words [(0x2000, 0x8000 + 4 * 2 ^ 52), (0x2008, 4), (0x2010, 1), (0x4000, 4 + 2 ^ 32 + 2 ^ 48), (0x4040, 1), (0x8000, 0x40003F80)] }
/-- A product of two k-steps. -/
def mmaCmd : MCmd := mcmd (.mma 0 1 2 2 0 0) [0x2000, 0, 0]
set_option maxRecDepth 4096 in
theorem witness_MatrixUnitRuns_queue : ((matrix mmaCmd).core 0).mrun = none ∧ mmaCmd.shapeRec = [] ∧ mmaCmd.started = false ∧ mmaCmd.k = 0 ∧ mmaCmd.fetched = [] ∧
    mmaCmd.due = false ∧ mmaCheck ((matrix mmaCmd).core 0) mmaCmd ⟨0, 2, 1, 1, false, false, 0, 0, 0x2000⟩ (shapeOf ((matrix mmaCmd).mem.bytes 0x2000 32)) = none ∧
    (((matrix mmaCmd).core 0).accum 0).pos % 32 + 2 ≤ 32 ∧ isBfp mmaCmd.s.kfmtA.toNat = false ∧ (∀ k, k < 2 → (shapeOf ((matrix mmaCmd).mem.bytes 0x2000 32)).has k 0 = true →
      ((shapeOf ((matrix mmaCmd).mem.bytes 0x2000 32)).addr2 k 0).toNat + 2 ≤ 2 ^ 32) := by decide
set_option maxRecDepth 4096 in
theorem witness_MatrixUnitRuns_panel : (let p := panelOf 64 ((matrix mmaCmd).mem.bytes 0x4000 64)
    p.resv = 0 ∧ panelFmt p.fmt = true ∧ 0x4000 + p.size ≤ 2 ^ 32 ∧ 2 ^ 18 - 256 + p.size ≤ 2 ^ 18) ∧ ((matrix mmaCmd).core 0).wbuf.wf = true ∧
    0x2000 + 16448 ≤ 2 ^ 32 ∧ (matrix mmaCmd).mem.nat 0x5000 8 / 2 ^ 63 = 0 := by decide
/-- A command at work. -/
def mrun (m : MCmd) : State := { at0 th { mrun := some m, acc := [(0, { elems := [(0, 5), (3, 7)] })] } with ev := {} }
/-- A drain to FP32 rows at 0x4000, 64 bytes apart; its rows go to a handler that starts at `hpc`, staged at 0x6000. -/
def drainCmd (row hpc : Nat) : MCmd := { mcmd (.mdrain 0 1 0 3 false) [0x2000] with
  started := true, row := row, epiRec := (words [(0, hpc), (8, 0x6000), (16, 0x4000), (24, 64)]).bytes 0 32 }
/-- The command works; the row slots before `k` are taken; the accumulator has a mode. -/
def drains (m : MCmd) (k mode : Nat) : State := { mrun m with
  cores := [(0, { mrun := some m, rowSlots := (List.range k).map (fun j => (j, ⟨1, 0, 0x6000, 16, 9⟩)), threads := [(0, th)]
                  acc := [(0, { elems := [(0, 5), (3, 7)], mode := mode, sclA := if mode = 1 then 0x7000 else 0 })] })] }
theorem witness_MatrixUnitRuns_drain : (epiOf (drainCmd 0 0).epiRec).hpc = 0 ∧ (epiOf (drainCmd 0 0).epiRec).row 0 = 0x4000 ∧ (drainCmd 0 0).epiRec.isEmpty = false ∧
    (epiOf (drainCmd 0 0).epiRec).stage + 1024 ≤ 2 ^ 32 ∧ (drainCmd 0 0).faulted = false ∧ (drainCmd 0 0).done = false ∧
    (((drains (drainCmd 0 0) 0 1).core 0).accum 0).mode = 1 ∧ (((drains (drainCmd 0 0) 0 1).core 0).accum 0).sclA.toNat + 256 ≤ 2 ^ 32 ∧
    (((drains (drainCmd 0 0) 0 1).core 0).accum 0).sclB = 0 ∧ (drains (drainCmd 0 0) 0 1).mem.wf = true ∧
    drainFmt (drainCmd 0 0).s.kfmtC.toNat = true ∧ 0 < (drainCmd 1 0).row ∧ (drainCmd 0 0).waiting = none := by decide
theorem witness_MatrixUnitRuns_over : ((mrun (drainCmd 0 0)).core 0).mrows = [] ∧ ((mrun (drainCmd 0 0)).core 0).rowSlots = [] ∧ (drainCmd 0 0).remote = none ∧
    (∀ t ∈ ((mrun (drainCmd 0 0)).core 0).threads, t.2.rowCopy ≠ some 3) ∧ (drainCmd 0 0).shape = none ∧ (drainCmd 0 0).sr = false ∧
    fget? ((mrun (drainCmd 0 0)).core 0).threads 0 = some th ∧ th.uid = (drainCmd 0 0).uid := by decide
theorem witness_MatrixUnitRuns_handler : (epiOf (drainCmd 0 0x5000).epiRec).hpc ≠ 0 ∧
    (let x := (drains (drainCmd 0 0x5000) 7 0).core 0
     fget? x.rowSlots 7 = none ∧ ∀ i, i < 7 → fget? x.rowSlots i ≠ none) ∧
    (let x := (drains (drainCmd 0 0x5000) 8 0).core 0
     ∀ i, i < 8 → fget? x.rowSlots i ≠ none) := by decide
/-- A product command with rows of a segment to write, or one staged and its handler to be started. -/
def segs (hpc : Nat) (w : Option (Nat × Nat × Nat)) : MCmd := { drainCmd 0 hpc with
  ins := .mmas 0 1 2 32 0 3 true, stage := [(1, 0, [5, 6, 7, 8]), (1, 1, [9])], waiting := w }
theorem witness_MatrixUnitRuns_segment : (segs 0 none).stage = [(1, 0, [5, 6, 7, 8]), (1, 1, [9])] ∧ (segs 0 none).waiting = none ∧
    (epiOf (segs 0 none).epiRec).hpc = 0 ∧ (epiOf (segs 0x5000 none).epiRec).hpc ≠ 0 ∧ (epiOf (segs 0 none).epiRec).row 0 + 16 ≤ 2 ^ 32 ∧
    (segs 0x5000 (some (0, 0, 1))).waiting = some (0, 0, 1) ∧ (drains (segs 0x5000 (some (0, 0, 1))) 1 0).freeSlot 0 = some 1 ∧
    (drains (segs 0x5000 (some (0, 0, 1))) 1 0).haltingOf none = false ∧ (segs 0x5000 (some (0, 0, 1))).done = false ∧
    (drains { drainCmd 0 0x5000 with waiting := some (0, 0, 0) } 1 0).freeSlot 0 = some 1 ∧ ((drainCmd 0 0x5000).s.ops.getD 0 0).toNat % 32 = 0 := by decide
/-- A shape record of 64 units of BF16. -/
def longA : Memory := words [(0x2000, 0x8000 + 4 * 2 ^ 52), (0x2008, 64), (0x2010, 1)]
/-- An `mma` of 40 k-steps over rows of 2-byte units, at its start and after its first group. -/
def groups (running : Bool) : MCmd := { mcmd (.mma 0 1 2 40 0 0) [0x2000, 0, 0] with
  started := running, k := if running then 32 else 0, shapeRec := if running then longA.bytes 0x2000 32 else [] }
def grouped (running : Bool) : State := if running then { mrun (groups true) with mem := longA } else
  { matrix (groups false) with mem := longA, cores := [(0, { mq := [groups false], wbuf := words [(0, 4 + 2 ^ 33 + 2 ^ 48), (64, 2), (128, 0x40403F80)], threads := [(0, th)] })] }
theorem witness_MatrixUnitRuns_groups_shape : ∀ b, (groups b).shape = some ⟨0, 40, 1, 1, false, false, 0, 0, 0x2000⟩ := fun _ => rfl
set_option maxRecDepth 8192 in
theorem witness_MatrixUnitRuns_groups : ((grouped true).core 0).mrun = some (groups true) ∧ (groups true).shapeRec.isEmpty = false ∧ (groups true).k < 40 ∧
    (groups true).started = true ∧ (shapeOf (groups true).shapeRec).fmt = (groups true).s.kfmtA.toNat ∧
    ((grouped false).core 0).mrun = none ∧ ((grouped false).core 0).mq = [groups false] ∧ (groups false).shapeRec = [] ∧ (groups false).k = 0 ∧
    (0x2000 : Nat) % 32 = 0 ∧ 0x2000 + 32 ≤ 2 ^ 32 ∧ (groups false).fetched = [] ∧ (groups false).due = false ∧ (groups false).faulted = false ∧
    mmaCheck ((grouped false).core 0) (groups false) ⟨0, 40, 1, 1, false, false, 0, 0, 0x2000⟩ (shapeOf ((grouped false).mem.bytes 0x2000 32)) = none ∧
    (shapeOf ((grouped false).mem.bytes 0x2000 32)).fmt = (groups false).s.kfmtA.toNat ∧
    (∀ k, k < 40 → ((shapeOf (groups true).shapeRec).addr2 k 0).toNat + 2 ≤ 2 ^ 32) := by decide
/-- A Rind instruction in the queue; the envelope it will set is pending. -/
def rcmd (i : Instr) (ops : List Word) : RCmd := { ins := i, s := { ops := ops }, slot := 0, uid := 7, pc := 0x1000, seq := 3, launch := none }
def rind (r : RCmd) (p : List EnvPend) : State := { envs with
  cores := [(0, { threads := [(0, { th with outs := [out [.g 5] (.rind 3) (.words [])] })], env := envs.here.env, rq := [r], envPend := p })], svcmap := [(0, 0x8000)], ev := {} }
def pend1 : EnvPend := { d := 2, uid := 7, seq := 3, look := 2, res := none }
theorem witness_RindRuns : ((rind (rcmd (.econj 2 1 0) []) [pend1]).core 0).rq = [rcmd (.econj 2 1 0) []] ∧ (rcmd (.econj 2 1 0) []).old = [] ∧
    ((rind (rcmd (.econj 2 1 0) []) [pend1]).core 0).envPend = [pend1] ∧ pend1.seq = 3 ∧ pend1.res = none ∧
    2 ≤ pend1.look ∧ ((rind (rcmd (.econj 2 1 0) []) [pend1]).core 0).threads.any (fun t => t.2.live && t.2.uid == 7) = true ∧
    (fget 0 (rind (rcmd (.econj 2 1 0) []) []).svcmap (svcIndex 0)).toNat / 2 ^ 15 = 1 ∧ (rind (rcmd (.econj 2 1 0) []) []).findUid 7 = some (0, 0) ∧
    (envs.here.envReg 1).item 0 = some 0x3F80000000000000 ∧ (envs.here.envReg 1).item 512 = none ∧
    (0x7FC00000 / 2 ^ 23 % 2 ^ 8 = 255 ∧ 0x7FC00000 % 2 ^ 23 ≠ 0) ∧ 0x3F800000 / 2 ^ 23 % 2 ^ 8 ≠ 255 := by decide
/-- An image with one piece, and one whose reserved word is set. -/
theorem witness_RindRuns_image : (envOfImage ((words [(0, 0x3F80000000000000), (8, 1), (16, 0x400000003F800000)]).bytes 0 32)).isSome = true ∧
    envOfImage ((words [(8, 2 ^ 32)]).bytes 0 32) = none := by decide
/-- The number n in FP32, and the envelope of the first n tangents of x^2 at whole numbers. -/
def asFp32 (n : Nat) : Nat := if n = 0 then 0 else (127 + Nat.log2 n) * 2 ^ 23 + (n * 2 ^ 23 / 2 ^ Nat.log2 n - 2 ^ 23)
def tangents (n : Nat) : Env := { lo := negInf, hi := posInf, pieces := (List.range n).reverse.map (fun k => ⟨asFp32 (2 * k), 2 ^ 31 + asFp32 (k * k), 0, 1⟩) }
theorem witness_RindRuns_set : (envConj ((rind (rcmd (.econj 2 1 0) []) [pend1]).here.envReg 1)).bad = false ∧
    (envConj ((rind (rcmd (.econj 2 1 0) []) [pend1]).here.envReg 1)).val.pieces.length ≤ 256 ∧
    (envLine ((rind (rcmd (.econj 2 1 0) []) []).here.envReg 1) ⟨0x7F800000, 0x7F800000, 1⟩).bad = true := by decide
theorem witness_RindRuns_full : (let q := envLine (tangents 256) ⟨2 ^ 31 + asFp32 2, 2 ^ 31 + asFp32 1, 1⟩
    !q.bad && decide (256 < q.val.pieces.length) && (let w := envSimp q.val 0x49800000
      !w.bad && decide (w.val.pieces.length ≤ 256))) = true := by decide +kernel

/-! ## Engines, the Spindle, faults -/

/-- An engine command. -/
def ecmd (op : Nat) (body : List Word) : ECmd := { hdr := BitVec.ofNat 64 (op * 2 ^ 57 + 3), body := body, slot := 0, uid := 7, pc := 0x1000, launch := none, cont := 1, s := {} }
/-- A copy of 100 bytes waits, or runs with 64 of them done. -/
def copyCmd : ECmd := ecmd 0 [0x2000, 0x3000, 100]
def engine (q r : List ECmd) (f : Nat := 0) : State := { at0 { th with cont := 1 } { qi := [(f, q)], qrun := [(f, r)] } with ev := { f := f }, mem := words [(0x2040, 0x1122334455667788)] }
theorem witness_EngineRuns : (engine [copyCmd] []).mayStart 0 0 copyCmd = true ∧ (engine [copyCmd] []).startStatus copyCmd 0 = 0 ∧ copyCmd.op ≠ 0x20 ∧
    ((engine [] [{ copyCmd with done := 64 }]).running 0 0).map (fun e => (e.op, e.w 0, e.w 1, e.w 2, e.done, e.faulted)) = [(0, 0x2000, 0x3000, 100, 64, false)] ∧
    (engine [] []).mem.wf = true ∧ (engine [] [{ copyCmd with result := some (0, [100]) }]).findUid 7 = some (0, 0) ∧
    (fget [] ((engine [] []).core 0).qo 0).length < fifoDepth 0 ∧ (engine [] []).hasParked 7 = false ∧ (ecmd 4 [9]).op = 4 ∧
    (engine [] [ecmd 4 [9]]).copyBefore (ecmd 4 [9]) = false ∧
    (engine [] []).ev.on = false ∧ copyCmd.w 0 < 2 ^ 63 ∧ copyCmd.w 1 < 2 ^ 63 ∧ ((engine [] []).core 0).spillRes = [] ∧ ((engine [] []).thr 0 0).live = true := by decide
/-- A remote `mzero` for core 1, which grants it. -/
def remoteCmd : ECmd := ecmd 0x40 [1, 0x55, 0x94000002]
def remote : State := { engine [] [remoteCmd] 2 with cores := (engine [] [remoteCmd] 2).cores ++ [(1, { capab := [(0, (0x55, 1))] })] }
theorem witness_EngineRuns_remote_word : decodeGroup (remoteCmd.w 2 % 2 ^ 32) (remoteCmd.w 2 / 2 ^ 32) = .ok (.lone (.mzero 0 false)) := rfl
theorem witness_EngineRuns_remote : remote.ev.on = false ∧ remoteCmd.done = 0 ∧ (remote.running 0 2)[0]? = some remoteCmd ∧ (remote.target 1).core = 1 ∧ (remote.target 1).dev = remote.rank ∧ isOpt 1 = false ∧ coreExists 1 = true ∧
    (∃ p ∈ (remote.core 1).capab, p.2 = (remoteCmd.body.getD 1 0, 1)) ∧ remoteCmd.body.getD 1 0 ≠ 0 ∧ (1 : Nat).testBit 0 = true ∧ (remote.core 1).mq = [] ∧ (remote.core 1).mrun = none := by
  decide
/-- A gather (op 1) or scatter (op 2) of two rows of 64 bytes, its list at 0x2100, with its index list as read so far. -/
def rowsCmd (op : Nat) (w0 w3 : Word) (idx : List (Option Nat)) (done : Nat := 0) : ECmd := { ecmd op [w0, 0x2100, 2 + 64 * 2 ^ 32, w3] with idx := idx, done := done }
/-- It runs on engine 0 of a core whose ring 0 is in use; memory holds the list: row 3 and a hole. -/
def units (e : ECmd) (g : Ring := ring0) (f : Nat := 0) : State := { engine [] [e] f with
  clusters := [(0, { rings := [(0, g)] })], mem := words [(0x2100, 3 + (2 ^ 32 - 1) * 2 ^ 32)], ev := { on := true, f := f } }
theorem witness_EngineRuns_list : (units (rowsCmd 1 0x8000 0x4000 [])).ev.on = true ∧ (rowsCmd 1 0x8000 0x4000 []).result = none ∧
    ((units (rowsCmd 1 0x8000 0x4000 [])).running 0 0)[0]? = some (rowsCmd 1 0x8000 0x4000 []) ∧ (rowsCmd 1 0x8000 0x4000 []).faulted = false ∧
    (units (rowsCmd 1 0x8000 0x4000 [])).mem.wf = true ∧ 0x2100 + 4 * 2 ≤ 2 ^ 32 ∧ (rowsCmd 1 0x8000 0x4000 []).w 1 = 0x2100 ∧
    (rowsCmd 1 0x8000 0x4000 []).w 2 % 2 ^ 16 = 2 ∧ (rowsCmd 2 0x8000 0x4000 []).w 2 / 2 ^ 32 % 2 ^ 16 = 64 ∧
    (units (rowsCmd 1 0x8000 0x4000 [])).mem.nat 0x2100 4 = 3 ∧ (units (rowsCmd 1 0x8000 0x4000 [])).mem.nat 0x2104 4 = 2 ^ 32 - 1 ∧
    0x8000 + 3 * 64 + 64 ≤ 2 ^ 52 ∧ 2 ^ 52 < (rowsCmd 1 (2 ^ 52 - 64) 0x4000 []).w 0 + 3 * 64 + 64 := by decide
theorem witness_EngineRuns_rows : (∀ op, op = 1 ∨ op = 2 → (rowsCmd op 0x8000 0x4000 [some 3, some (2 ^ 32 - 1)]).idx.getD 0 none = some 3 ∧
      (rowsCmd op 0x8000 0x4000 [some 3, some (2 ^ 32 - 1)] 64).idx.getD (64 / 64) none = some (2 ^ 32 - 1) ∧
      (rowsCmd op 0x8000 0x4000 []).w 0 = 0x8000 ∧ (rowsCmd op 0x8000 0x4000 []).w 3 = 0x4000) ∧
    (ecmd 3 [0x2000, 9, 16]).w 2 % 8 = 0 ∧ (ecmd 3 [0x2000, 9, 16]).op = 3 := by
  refine ⟨?_, by decide⟩; rintro op (rfl | rfl) <;> decide
/-- A stride pattern of four 2-byte units, 4 bytes apart; an `sg.read` with it. -/
def strided (w1 : Word) (done : Nat := 0) : ECmd := { ecmd 0x20 [0x6000, w1, 0] with pattern := 1 + 4 * 2 ^ 52 + 4 * 2 ^ 64 + 2 * 2 ^ 128, done := done }
set_option maxRecDepth 4096 in
theorem witness_EngineRuns_stride : (strided 0x4000).op = 0x20 ∧ ((patternOf (strided 0x4000).pattern ((strided 0x4000).w 0)).map (fun r => (r.packed, unitBytes r.fmt, (r.addr 1).toNat))) =
    some (8, 2, 0x6004) ∧ (strided 0x4000).rest = [] ∧ ((units (strided 0x4000) ring0 1).running 0 1)[0]? = some (strided 0x4000) := by decide
set_option maxRecDepth 4096 in
theorem witness_EngineRuns_slots : (units copyCmd).ringOf 0 none = some ring0 ∧ ((ring0.a + 2 ^ 32 - ring0.f) % 2 ^ 32 < ring0.slots) ∧ turn ring0.waitA copyCmd.key = true ∧
    ring0.c ≠ ring0.p ∧ turn ring0.waitC copyCmd.key = true ∧ ¬ (({ ring0 with a := 4 } : Ring).a + 2 ^ 32 - 0) % 2 ^ 32 < 4 ∧ turn [5] copyCmd.key = false ∧
    (ecmd 0 [0x2000, 2 ^ 63, 64]).w 1 = 2 ^ 63 + 0 ∧ ({ ecmd 0 [0x2000, 2 ^ 63, 64] with ringPos := some 2 } : ECmd).ringPos = some 2 ∧
    (rowsCmd 1 0x8000 (2 ^ 63) [some 3, some 4]).w 3 = 2 ^ 63 + 0 ∧ (rowsCmd 2 (2 ^ 63) 0x8000 [some 3, some 4]).w 0 = 2 ^ 63 + 0 ∧ (strided (2 ^ 63)).w 1 = 2 ^ 63 + 0 ∧
    (patternOf (strided (2 ^ 63)).pattern 0x6000).isSome = true := by decide
/-! ## The Spindle -/

end Sys2Proof.Tests
namespace Sys2Proof.Tests

/-- A state vector of four qubits in stack 0: its record at 0x1_0000_0000, its amplitudes in the next page. -/
def svWord : Nat := 0x100010000 + (4 + 16 * 2 ^ 32) * 2 ^ 64
def svPush (op : Nat) (body : List Word) : State :=
  { at0 { th with cont := 1 } { dtlb := [page 0 (hbmPa 0 0)], qi := [(3, [ecmd op body])] } with mem := Memory.setNat [] (hbmPa 0 0) 32 svWord, ev := {} }
def svMap0 : SvMap := { valid := true, map := [0, 1, 2, 3], recAddr := 0x100000000, pages := [[hbmPa 0 0x10000]] }
/-- A command at its lead hub. -/
def svState (m : SvCmd) : State := { at0 th with
  hubs := [(0, { svq := [m], maps := [(0, svMap0)] })]
  svcmap := [(128, 0x8000)]
  mem := words [(hbmPa 0 0x10000, 0x3F80000040000000), (hbmPa 0 0x10010, 0x40000000)] }
def svCmd (op : Nat) (body : List Word) : SvCmd :=
  { hdr := BitVec.ofNat 64 (op * 2 ^ 57 + 3), body := body, core := 0, slot := 0, uid := 7, pc := 0x1000, launch := none, cont := 1, record := BitVec.ofNat 256 svWord }
def swapCmd : SvCmd := svCmd 0x65 [0x100000000, 0x301]
def g1Cmd : SvCmd := { svCmd 0x60 [0x100000000, 1, 0x2000] with started := true, active := true, phase := 3, data := [0x3F800000, 0, 0, 0x40000000] }
theorem witness_SpindleRuns_push : (svRecOf svWord).bad = false ∧ (svRecOf svWord).hubs.head? = some 0 ∧ (svRecOf svWord).rank0 = (svPush 0x65 []).rank ∧
    (match ((svPush 0x65 [0x100000000, 0x301]).svSend (ecmd 0x65 [0x100000000, 0x301])).2 with
     | .lead h pa => h == 0 && pa == hbmPa 0 0
     | _ => false) = true ∧ ((svPush 0x65 []).mem.nat (hbmPa 0 0) 32) = svWord ∧
    ((svPush 0x65 [0x100000000, 0x301]).svSend (ecmd 0x65 [0x100000000, 0x301])).1.mem = (svPush 0x65 []).mem ∧ svWords 0x65 = 2 := by decide
theorem witness_SpindleRuns_commit : (svState swapCmd).svFree 0 swapCmd = true ∧ (svState swapCmd).svReached swapCmd.svrec = true ∧ swapCmd.halted = false ∧ swapCmd.badQubits (swapCmd.svrec).n = false ∧ swapCmd.op = 0x65 ∧
    (svState swapCmd).svMap 0 0 = svMap0 ∧ svMap0.recAddr = swapCmd.w 0 ∧ svMap0.map.length = swapCmd.svrec.n ∧ swapCmd.svrec.hubs = [0] ∧
    (svState swapCmd).haltingOf none = false ∧ g1Cmd.op = 0x60 ∧ g1Cmd.svrec.s = 0 ∧ g1Cmd.svrec.d = 0 ∧ 1 ≤ g1Cmd.svrec.l ∧ g1Cmd.svrec.l ≤ 7 ∧
    (∀ p, p < 16 → ∀ q, q < 16 → p ≠ q → g1Cmd.svrec.at_ 0 svMap0.pages p + 8 ≤ g1Cmd.svrec.at_ 0 svMap0.pages q ∨
      g1Cmd.svrec.at_ 0 svMap0.pages q + 8 ≤ g1Cmd.svrec.at_ 0 svMap0.pages p) ∧ (svState g1Cmd).ownDev g1Cmd.svrec = 0 ∧
    g1Cmd.active = true ∧ g1Cmd.passes = false ∧ 0 ∈ g1Cmd.svrec.hubs ∧ g1Cmd.far = false ∧ g1Cmd.chunk = 0 ∧
    (fget 0 (svState g1Cmd).svcmap 128).toNat / 2 ^ 15 = 1 ∧ (svState g1Cmd).findUid 7 = some (0, 0) ∧ (svState g1Cmd).hasParked 7 = false := by decide
/-- A vector of two local bits and one stack bit, in stacks 0 and 1; a command at work on it. -/
def svSmall : Nat := 0x100010000 + (2 + 2 ^ 8 + 16 * 2 ^ 32) * 2 ^ 64 + 2 ^ 133
def ampCmd (op phase : Nat) (body : List Word) (data : List Word) (sums : List Nat := []) : SvCmd := { svCmd op body with
  record := BitVec.ofNat 256 svSmall, started := true, active := true, phase := phase, data := data, sums := sums }
def amps (m : SvCmd) (map : List Nat := [0, 1, 2]) : State := { svState m with
  hubs := [(0, { svq := [m], maps := [(0, { svMap0 with map := map, pages := [[hbmPa 0 0x10000], [hbmPa 1 0x10000]] })] })] }
theorem witness_SpindleRuns_amplitudes : (let m := ampCmd 0x60 3 [0x100000000, 1, 0x2000] [0x3F800000, 0, 0, 0x40000000]
    ((amps m).hub 0).svq[0]? = some m ∧ m.result = none ∧ m.halted = false ∧ (amps m).haltingOf none = false ∧ m.active = true ∧ m.started = true ∧
    m.passes = false ∧ (amps m).svReached m.svrec = true ∧ (amps m).mem.wf = true ∧ m.svrec.n = 3 ∧ m.svrec.l = 2 ∧ m.svrec.hubs = [0, 1] ∧
    (∀ p, p < 8 → ∀ q, q < 8 → p ≠ q → ampAt (amps m) m.svrec ((amps m).svMap 0 0).pages p + 8 ≤ ampAt (amps m) m.svrec ((amps m).svMap 0 0).pages q ∨
      ampAt (amps m) m.svrec ((amps m).svMap 0 0).pages q + 8 ≤ ampAt (amps m) m.svrec ((amps m).svMap 0 0).pages p)) := by decide
theorem witness_SpindleRuns_phases : (ampCmd 0x61 3 [0, 0x100, 0] []).targets = [0, 1] ∧ (∀ u ∈ ([0, 1] : List Nat), u < (ampCmd 0x61 3 [0, 0x100, 0] []).svrec.l) ∧
    (ampCmd 0x63 3 [0, 1, 0, 1, 1] []).op = 0x63 ∧ (ampCmd 0x64 3 [0, 1, 0] []).op = 0x64 ∧ (ampCmd 0x69 3 [0, 5] []).op = 0x69 ∧ (ampCmd 0x68 3 [0, 1] []).op = 0x68 ∧
    (ampCmd 0x60 0 [0, 1, 0] []).targets[0]? = some 1 ∧ (ampCmd 0x60 0 [0, 2, 0] []).targets[0]? = some 2 ∧ (ampCmd 0x60 0 [0, 2, 0] []).svrec.hubs.Nodup ∧
    (∀ c, c < 2 → 1 < c → ∃ t ∈ (ampCmd 0x60 0 [0, 2, 0] []).targets, [0, 1, 2].getD t 0 = c) ∧ (∀ t ∈ (ampCmd 0x60 0 [0, 2, 0] []).targets, [0, 1, 2].getD t 0 ≠ 1) ∧
    2 ≤ (ampCmd 0x60 0 [0, 2, 0] []).svrec.l := by decide
theorem witness_SpindleRuns_perm : (let m := { ampCmd 0x66 4 [0, 0x2000] [1, 0, 2] with pidx := 2 }
    (m.data.map (·.toNat)).take m.svrec.n = [1, 0, 2] ∧ (∀ p, p ≤ 2 → [1, 0, 2].getD (qubitAt [1, 0, 2] p) 0 = p) ∧
    [0, 1, 2].getD (qubitAt [1, 0, 2] 1) 0 ≠ 1 ∧ [0, 1, 2].getD (qubitAt [1, 0, 2] 2) 0 = 2) ∧
    (∀ op, op = 0x67 ∨ op = 0x68 → (ampCmd op 5 [0, 1, 1] [] (List.replicate 2 0)).sums.length = 2 ∧ 2 ^ (1 + 0) = 2) ∧
    ¬ 0 + 1 < chunksOf (2 ^ 2) ∧ 0 + 1 < chunksOf (2 ^ 7) := by
  refine ⟨by decide, ?_, by decide⟩; rintro op (rfl | rfl) <;> decide
/-- A fault's record awaits its reply. -/
def wait0 : FaultWait := { frec := { rid := 5, cls := cALIGN }, svc := 0, postedAt := 0, uid := 7, resume := .group, launch := some (2, 9) }
def faulted (m : Msg) : State := { later { th with blk := .mailbox 5 } with flts := [wait0], net := [m], fifos := [(2, { running := some { sq := 9, record := 0 } })] }
theorem witness_FaultFlow : ((faulted (msg 9 1)).die 0).fltto ≠ 0 ∧ wait0.postedAt + ((faulted (msg 9 1)).die 0).fltto ≤ (faulted (msg 9 1)).cycle ∧
    (faulted (msg 9 1 (.faultReply 5 0 1 0 0))).arriving = some (msg 9 1 (.faultReply 5 0 1 0 0)) ∧ (faulted (msg 9 1)).findUid 7 = some (0, 0) ∧
    ((faulted (msg 9 1)).thr 0 0).blk = .mailbox 5 ∧ wait0.frec.cls ≠ cSAFEOVD ∧ ((faulted (msg 9 1)).fifo 2).running.map (·.sq) = some 9 :=
  ⟨by decide, by decide, rfl, by decide⟩

/-! ## Tokens, replicas, the directory -/

/-- A token for expert 5's slot 2, and a core that holds its copies with capacity 3. -/
def token : Msg := { msg 2 2 with tag := 5, rix := 2 }
def holder (m : Msg) (a : Activation) : State := { net m with cores := [(0, { threads := [(0, th)], acts := [(5, a)], cap := [(5, 3)] })] }
def act2 : Activation := { j := 2, wver := 0, fin := false, ostack := 1, gfmt := 4, served := 2 }
theorem witness_TokensAndDirectory_token : Arrives (holder token act2) token ∧ (holder token act2).fwdFor 0 false 5 = none ∧
    fget? ((holder token act2).core 0).acts 5 = some act2 ∧ token.fwd = false ∧ act2.j = token.rix ∧ act2.state ≠ 1 ∧ act2.state ≠ 4 ∧ act2.fin = false ∧ act2.served = 2 ∧ act2.wver = token.step ∧ fget? ((holder token act2).core 0).cap 5 = some 3 ∧
    fget? ((net token).core 0).claims 5 = none ∧ fget? ((net token).core 0).acts 5 = none ∧ (net token).rank = 0 :=
  ⟨arrivesAt _ _ rfl rfl (by decide), by decide⟩
theorem witness_TokensAndDirectory_unknown : (net token).arriving = some token := rfl
/-- A core that sends tokens for expert 5 on to core 3. -/
def sendsOn : State := { net token with cores := [(0, { threads := [(0, th)], fwd := [{ thread := false, key := 5, core := 3, slot := 0, expires := 9 }] })] }
theorem witness_TokensAndDirectory_forwarded : sendsOn.arriving = some token ∧ token.kind = 2 ∧ token.ddev = sendsOn.rank ∧
    (sendsOn.fwdFor 0 false 5).map (·.core) = some 3 := ⟨rfl, by decide⟩
/-- Expert 5's home with a message for it in the network. -/
def homeNet (m : Msg) (e : DirEntry) : State := { net m with dir := [(5, { e := e, winLen := 9 })] }
theorem witness_TokensAndDirectory_home : (homeNet (msg 7 0 (.meter 5)) entry5).arriving = some (msg 7 0 (.meter 5)) ∧ (homeNet (msg 7 0 (.served 5 2 3)) entry5).arriving = some (msg 7 0 (.served 5 2 3)) ∧
    (holder (msg 7 0 (.servedAnswer 5 2 true)) { act2 with served := 1 }).arriving = some (msg 7 0 (.servedAnswer 5 2 true)) ∧
    (homeNet { msg 7 0 (.depth 5 0 300) with src := 3 } entry5).arriving = some { msg 7 0 (.depth 5 0 300) with src := 3 } ∧
    ({ at0 {} with cycle := 512 } : State).cycle % 256 = 0 ∧ ({ at0 {} with cycle := 300 } : State).cycle % 256 ≠ 0 ∧
    entry5.threp = 0 ∧ entry5.frz = false ∧ (entry5.slot 0).core = 3 ∧ (entry5.slot 0).state ≠ 0 ∧ (entry5.slot 0).depth ≠ min 300 255 ∧ entry5.slots.length = 8 ∧
    ((((homeNet (msg 7 0) entry5).unNet 30).atHome 5).home 5).e = entry5 ∧ (msg 7 0).step = 0 ∧ ({ entry5 with fver := 0 } : DirEntry).frz = false :=
  ⟨rfl, rfl, rfl, rfl, by decide⟩
theorem witness_ReplicaLife_claim : (homeNet (msg 7 0 (.claim 5 3)) entry5).isFirst (msg 7 0 (.claim 5 3)) (fun o => o.tells 0 5) = true ∧ (homeNet (msg 7 0 (.claim 5 3)) entry5).arriving = some (msg 7 0 (.claim 5 3)) ∧ (homeNet (msg 7 0 (.claim 5 3)) entry5).freeSlot 0 = some 1 ∧
    (homeNet (msg 7 0) entry5).haltingOf none = false ∧ ((homeNet (msg 7 0) entry5).home 5).e.v = true ∧ (homeNet (msg 7 0) entry5).containedOf none = false ∧ (crowded (msg 7 0 (.claim 5 3))).freeSlot 0 = none ∧
    ({ homeNet (msg 7 0 (.claimReply 5 3 9 40 true)) entry5 with dir := [(5, { e := entry5, claims := [{ j := 3, core := 9, refused := 0, rest := [], asker := none }] })] }).arriving = some (msg 7 0 (.claimReply 5 3 9 40 true)) :=
  ⟨by decide, rfl, by decide, by decide, by decide, by decide, by decide, rfl⟩
theorem witness_ReplicaLife_reply : (let s : State := { homeNet (msg 7 0 (.claimReply 5 3 9 40 true)) entry5 with dir := [(5, { e := entry5, claims := [{ j := 3, core := 9, refused := 0, rest := [], asker := none }] })] }
    (((s.unNet 30).atHome 5).home 5).claims.find? (fun x => x.j == 3 && x.core == 9) = some { j := 3, core := 9, refused := 0, rest := [], asker := none }) ∧ entry5.slots.length = 8 := by decide
/-- A replica copy of one line from the owner, core 0, to core 4; its slot is PENDING. -/
def copyEntry : DirEntry := { entry5 with wlines := 1, wbase := 0x2000, rvoff := 0x8000, fver := 5, slots := { core := 0, state := 2, wver := 5 } :: { core := 4, state := 1 } :: List.replicate 6 {} }
def copying (ver : Nat) (e : DirEntry) : State := { vaultState with
  cores := vaultState.cores ++ [(4, { copies := [(5, (1, ver, 0))], claims := [(5, 1)] })]
  dir := [(5, { e := e, winLen := 9 })], cycle := 2 ^ 21, ev := { q := 4, k := 5 } }
theorem witness_ReplicaLife_copy : fget? ((copying 5 copyEntry).core 4).copies 5 = some (1, 5, 0) ∧
    (match ((copying 5 copyEntry).runCopy 4 5).2 with
     | .done => true
     | _ => false) = true ∧ (let u := ((copying 5 copyEntry).runCopy 4 5).1
     let w := (u.setCore 4 { u.core 4 with copies := ferase (u.core 4).copies 5 }).beforeCopy 5
     (w.home 5).e.slots.length = 8 ∧ ((w.home 5).e.slot 1).state = 1 ∧ (w.home 5).e.fver = 5) ∧ copyEntry.slots.length = 8 ∧ (copyEntry.slot 1).state = 1 ∧
    copyAddr copyEntry 4 + 64 ≤ 2 ^ 32 ∧
    (match ((copying 9 { copyEntry with fver := 9 }).runCopy 4 5).2 with
     | .abort => true
     | _ => false) = true ∧ (let u := ((copying 9 { copyEntry with fver := 9 }).runCopy 4 5).1
     let w := (u.setCore 4 { u.core 4 with copies := ferase (u.core 4).copies 5, claims := ferase (u.core 4).claims 5 }).beforeCopy 5
     (w.home 5).e.slots.length = 8 ∧ ((w.home 5).e.slot 1).state = 1) := by decide
theorem witness_ReplicaLife_activation : (net (msg 7 0 (.activation 5 2 0 false 1 4 (some 7)))).arriving = some (msg 7 0 (.activation 5 2 0 false 1 4 (some 7))) ∧
    (net (msg 7 0 (.activation 5 2 0 false 1 4 (some 7)))).isFirst (msg 7 0 (.activation 5 2 0 false 1 4 (some 7))) (fun o => o.tells 0 5) = true ∧ ((at0 th).core 0).parkedTokens 5 2 = [] ∧
    (at0 { th with blk := .answer 3 }).findUid 7 = some (0, 0) ∧ ((at0 { th with blk := .answer 3 }).thr 0 0).blk = .answer 3 := ⟨rfl, by decide⟩
/-- Expert 5's window ends: its meter below the retirement threshold, slots 0 and 1 in use; slot 2 has drained. -/
def windows : State := { homes false with
  ev := { k := 5, t := 2 }, cycle := 9 * 256
  dir := [(5, { e := { ((homes false).home 5).e with thret := 5, win := 9 }, winLen := 9 })] }
theorem witness_ReplicaLife_window : (windows.home 5).winStart + 256 * (windows.home 5).winLen ≤ windows.cycle ∧ (windows.home 5).e.meter < (windows.home 5).e.thret ∧
    2 ≤ (windows.home 5).inUse ∧ ((windows.home 5).e.slot 1).state = 2 ∧ (∀ i, i < 8 → 1 < i → ((windows.home 5).e.slot i).state ≠ 2) ∧
    ((windows.home 5).e.slot 2).state = 3 ∧ fget [] (windows.home 5).drainWait 2 = [] ∧ (windows.core 6).inbox = [] ∧ (windows.home 5).e.served.testBit 2 = false ∧
    windows.fwdFull 6 = false ∧ (((homes true).home 5).e.thret ≤ ((homes true).home 5).e.meter) := by decide
/-- Cluster 0 fetches expert 5's entry. -/
def fetchState : State := { at0 th with clusters := [(0, { fetching := [5] })], dir := [(5, { e := entry5 })], ev := { k := 5 } }
theorem witness_TokensAndDirectory_messages : (net (msg 7 0 (.change 0 5 entry5))).arriving = some (msg 7 0 (.change 0 5 entry5)) ∧
    (∀ st, (holder (msg 7 0 (.slotChange 5 2 st 0 false)) act2).arriving = some (msg 7 0 (.slotChange 5 2 st 0 false))) ∧ (homeNet (msg 7 0 (.changeAck 0 5)) entry5).arriving = some (msg 7 0 (.changeAck 0 5)) ∧
    (homeNet (msg 7 0 (.evict 0 5)) entry5).arriving = some (msg 7 0 (.evict 0 5)) ∧ (homeNet (msg 7 0 (.finalPush 5 2 1)) entry5).arriving = some (msg 7 0 (.finalPush 5 2 1)) := ⟨rfl, fun _ => rfl, rfl, rfl, rfl⟩
theorem witness_TokensAndDirectory_change : (net (msg 7 0 (.change 0 5 entry5))).isFirst (msg 7 0 (.change 0 5 entry5)) (fun o => o.changes 0 5) = true ∧
    (∀ st, st < 4 → (holder (msg 7 0 (.slotChange 5 2 st 0 false)) act2).isFirst (msg 7 0 (.slotChange 5 2 st 0 false)) (fun o => o.tells 0 5) = true) ∧
    fget? ((holder (msg 7 0 (.slotChange 5 2 3 0 false)) act2).core 0).acts 5 = some act2 ∧ ((holder (msg 7 0 (.slotChange 5 2 0 0 false)) act2).core 0).inbox = [] ∧ act2.j = 2 ∧
    (fget? (homeNet (msg 7 0 (.changeAck 0 5)) entry5).dir 5).isSome = true ∧ ((homeNet (msg 7 0 (.evict 0 5)) entry5).cluster 0).dirLine 5 = none ∧
    (fetchState.cluster 0).fetching.contains 5 = true ∧ fetchState.messages.any (fun m => m.changes 0 5) = false ∧ (fetchState.home 5).e.v = true ∧ fetchState.routing 0 5 = [] ∧
    (fetchState.cluster 0).dcache.length < 64 ∧ entry5.fver = 1 := by decide
end Sys2Proof.Tests
namespace Sys2Proof.Tests

/-! ## Launches, contexts, other devices -/

/-- A record: container 1, cluster 0, arguments at 0x2000, a completion word at host byte 0x10000. -/
def record (extra : Nat) : BitVec 512 := BitVec.ofNat 512 (2 ^ 32 + 2 ^ 64 + 0x2000 * 2 ^ 192 + extra + 0x10000 * 2 ^ 448)
def role0 : Role := { idx := 0, text := 0x100000000, size := 0x80, entry := 0x100000008, krole := 0, comm := true }
/-- Every core of the region runs role 0 at stage 3; one vault byte. -/
def contain : Container := { root := 0, roles := [role0], place := [BitVec.ofNat 64 (2047 * 2 ^ 11 + 2 ^ 43 + 3 * 2 ^ 44)], fanout := 4, vault := [9], verified := true, measure := [] }
/-- FIFO 2 with records in its queue. -/
def queued (q : List (Nat × BitVec 512)) : State := { at0 th with
  fifos := [(2, { queue := q, pushed := 9, done := 8 })], conts := [(1, contain)], ev := { f := 2, data := record 0 } }
theorem witness_Launches_push : (2 : Nat) < 16 ∧ ((queued []).fifo 2).queue.length < 32 ∧
    ((queued (List.replicate 32 (9, 0))).fifo 2).queue.length = 32 ∧ ((queued [(9, record 1)]).fifo 2).running = none := by decide
theorem witness_Launches_start : (queued [(9, record 1)]).rejects 2 9 (record 1) = true ∧ (queued [(9, record 0)]).rejects 2 9 (record 0) = false ∧
    (recTokens (record 0)).all (queued []).tokenMet = true ∧ fget? (queued []).conts (recCont (record 0)) = some contain ∧
    contain.vault.length ≤ 2 ^ 25 ∧ (queued []).mem.wf = true ∧
    (∀ g ∈ fifoOrder.takeWhile (fun g => g != 2), (queued [(9, record 0)]).headReady g = false) := by decide +kernel
/-- FIFO 2's launch runs; threads still to place; its boot tree as given. -/
def running (p : List (Nat × Nat × Nat × Nat)) (boot : Nat) : State := { queued [] with
  cores := [(0, { icache := none }), (1, { icache := if boot = 2 then some (1, 0) else none })]
  fifos := [(2, { running := some { sq := 9, record := record 0, toPlace := p, placed := 2 } })], boot := [(2, [(0, boot)])], ev := { f := 2, q := 1 }, cur := {} }
theorem witness_Launches_retire : ((running [] 0).fifo 2).running.map (fun l => l.halting.isNone && l.toPlace.isEmpty && l.sq == 9) = some true ∧
    (running [] 0).launchLives (2, 9) = false ∧ (running [] 0).unitsWork (2, 9) = false ∧ (running [] 0).acks = [] ∧ (running [] 0).storesDone (2, 9) = true := by decide
theorem witness_Launches_boot : ((running [(0, 0, 0, 3)] 0).fifo 2).running.isSome = true ∧ contain.role 0 = some role0 ∧ (running [(0, 0, 0, 3)] 0).blocksAt 2 0 < role0.blocks ∧
    (contain.tree 1 0).head? = some (0, 0) := by decide +kernel
theorem witness_Launches_placed : (running [(1, 0, 0, 3)] 2).nextPlaced 2 1 = some ({ sq := 9, record := record 0, toPlace := [(1, 0, 0, 3)], placed := 2 }, role0, 0, 3) ∧
    (running [(1, 0, 0, 3)] 2).freeSlot 1 = some 0 ∧ (∀ g ∈ fifoOrder.takeWhile (fun g => g != 2), (running [(1, 0, 0, 3)] 2).nextPlaced g 1 = none) := by decide +kernel
/-- A slot of a reserve core (240) has become free. -/
def reserve : State := { running [] 0 with
  cores := [(240, { freed := [1] })], ev := { q := 240, t := 1 }
  fifos := [(2, { running := some { sq := 9, record := record (2 ^ 64 * 2 ^ 12) } })] }
theorem witness_Launches_comm : 1 ∈ (reserve.core 240).freed ∧ (reserve.core 240).free 1 = true ∧ reserve.reserved 240 = true ∧ (reserve.commImage 240).isSome = true := by
  decide +kernel
/-- A token for a core of die 0 is on its way; the bounds of the die's pressure are 0. -/
def pressed : State := { net (msg 2 2) with cycle := 256, dies := [(0, { rsvhi := 0, rsvlo := 0 })] }
theorem witness_Launches_pressure : pressed.cycle % 256 = 0 ∧ (pressed.die pressed.ev.q).changed = none ∧ (pressed.die 0).rsvhi < pressed.pressure 0 ∧
    (pressed.die 0).rsvlo ≤ pressed.pressure 0 ∧ (pressed.die 0).n < (pressed.die 0).rsvmax ∧ ({ pressed with cycle := 255 } : State).cycle % 256 ≠ 0 := by decide
/-- A context that left slot 0 of core 0 may come back. -/
def absent1 : Absent := { thr := { th with kvwin := 0x404 }, slot := 0, glive := 0x8002, plive := 1, vlive := 5, win := [1, 2, 3, 4] }
def away : State := { cores := [(0, { absent := [absent1] })] }
theorem witness_ContextMoves_resume : (away.core 0).absent[0]? = some absent1 ∧ away.mayResume 0 absent1 = true ∧ absent1.target = none ∧ away.freeSlot 0 = some 0 ∧
    (away.core 0).windowFits absent1.thr.kvwin none = true ∧ away.ev.on = false ∧ away.fwdFull 0 = false ∧ winBase absent1.thr.kvwin + absent1.win.length ≤ 32 ∧ away.flts = [] ∧
    coreExists 0 = true ∧ (at0 th).cur.slot < slotCount 0 ∧ fget false (at0 th).mwSw 0 = false :=
  ⟨rfl, by decide⟩
/-- A fill of page 0x10000 of device 1 arrives at hub 0. -/
def filling : State := { paged [] with fills := [(0, 0x10000, 1, 3, 7, true)], ev := { q := 1, f := 3, k := 0x70008, v := 0x1234 } }
theorem witness_PageCaches : filling.fills[0]? = some (0, 0x10000, 1, 3, 7, true) ∧ filling.reachable 1 = true ∧ (filling.hub 0).pcsz ≠ 0 ∧ filling.ev.f < 24 ∧
    filling.ev.k < 2 ^ 36 ∧ filling.ev.q ≠ filling.rank ∧ filling.rankExists 1 = true ∧ (filling.hub 3).pointers = [] ∧
    filling.peerWaits filling.ev (hbmPa 3 0x70008) = false ∧ filling.mem.wf = true ∧
    (∀ x ∈ filling.hubs, x.2.tags = []) := ⟨rfl, by decide⟩

/-! ## The management window -/

/-- A file of one section, the measurement, at host byte 0: header and section table. -/
def file : Memory := words [(2 ^ 64, 0x0001000130435254), (2 ^ 64 + 8, 160), (2 ^ 64 + 16, 0x10000), (2 ^ 64 + 64, 9), (2 ^ 64 + 72, 128), (2 ^ 64 + 80, 32)]
/-- A memory with the digest of the file's first 96 bytes behind them. -/
def signedFile (m : Memory) : Memory := m.setNat (hostPa 0 + 128) 32 (Config.shake256 (m.bytes (hostPa 0) 96)).toNat
def loads (m : Memory) : State := { at0 th with mem := signedFile m, mwPol := 1 }
def measureSection : Section := { kind := 9, role := 0, krole := 0, comm := false, entry := 0, off := 128, size := 32, addr := 0 }
theorem loads_nat (m : Memory) (h : m.wf = true) (a n : Nat) (hd : a + n ≤ hostPa 0 + 128) : (loads m).mem.nat a n = m.nat a n := by
  simp only [loads, signedFile]
  exact Memory.nat_setNat_of_disjoint m (hostPa 0 + 128) a n 32 _ h (Or.inl hd)
theorem loads_bytes (m : Memory) (h : m.wf = true) : (loads m).mem.bytes (hostPa 0) 96 = m.bytes (hostPa 0) 96 := by
  simp only [loads, signedFile]
  exact Memory.bytes_setNat_of_disjoint m (hostPa 0 + 128) (hostPa 0) 96 32 _ h (Or.inl (by omega))
theorem loads_digest (m : Memory) (h : m.wf = true) :
    (loads m).mem.bytes (hostPa 0 + 128) 32 = leBytes 32 (Config.shake256 (m.bytes (hostPa 0) 96)).toNat := by
  simp only [loads, signedFile]
  exact Memory.bytes_setNat_same m (hostPa 0 + 128) 32 _ h
/-- What the file's words must be for a load to pass. -/
theorem load_passes (m : Memory) (h : m.wf = true) (hn : m.nat (hostPa 0 + 6) 2 = 1) (hs : sectionOf (m.nat (hostPa 0 + 64 + 32 * 0) 32) = measureSection)
    (hh : m.nat (hostPa 0) 64 = 0x10000 * 2 ^ 128 + 160 * 2 ^ 64 + 0x0001000130435254) : (loads m).loadStatus 0 160 = 0 := by
  have hsec : (loads m).sections 0 = [measureSection] := by
    rw [State.sections, loads_nat m h _ _ (by omega), hn, List.range_one, List.map_cons, List.map_nil, loads_nat m h _ _ (by omega), hs]
  have hm : (loads m).measurement 0 = leBytes 32 (Config.shake256 (m.bytes (hostPa 0) 96)).toNat := by
    simp [State.measurement, hsec, ofKind, State.secBytes, measureSection, loads_digest m h]
  have hd : (loads m).digests 0 = leBytes 32 (Config.shake256 (m.bytes (hostPa 0) 96)).toNat := by
    simp [State.digests, hsec, measureSection, loads_bytes m h]
  have hp : (loads m).placement 0 = [] := by simp [State.placement, hsec, ofKind, measureSection, words64]
  have hf : (loads m).fileOk 0 160 = true := by
    simp only [State.fileOk, hsec, loads_nat m h _ _ (show hostPa 0 + 64 ≤ hostPa 0 + 128 by omega), hh]
    decide
  have hfree : (loads m).freeHandle.isNone = false := rfl
  have hpol : (loads m).mwPol.toNat % 2 = 1 := rfl
  simp only [State.loadStatus, hf, hm, hd, hp, hfree, hpol]
  simp
theorem witness_ContainerCommands_place : ∃ secs fs, places [measureSection] 0 = some secs ∧
    (loads file).framesAt 0 (framesFor (pageRights secs)) = some fs := by
  have h : ((places [measureSection] 0).bind (fun secs => (loads file).framesAt 0 (framesFor (pageRights secs)))).isSome = true := by decide +kernel
  obtain ⟨fs, h⟩ := Option.isSome_iff_exists.1 h
  obtain ⟨secs, h1, h2⟩ := Option.bind_eq_some_iff.1 h
  exact ⟨secs, fs, h1, h2⟩
/-- A command block of an opcode and three operand words. -/
def block (op w1 w2 w3 : Nat) : BitVec 512 := BitVec.ofNat 512 (op + 2 ^ 64 * w1 + 2 ^ 64 * 2 ^ 64 * w2 + 2 ^ 64 * 2 ^ 64 * 2 ^ 64 * w3)
theorem witness_ContainerCommands_opcode : isCommand .attest = true ∧ ({ data := block 9 0 0 0 } : EvArgs).on = false ∧ (block 9 0 0 0).toNat % 256 = 9 ∧
    9 < (block 10 0 0 0).toNat % 256 ∧ cmdW (block 1 0 160 0) 1 / 64 * 64 = 0 ∧ cmdW (block 1 0 160 0) 2 = 160 ∧ cmdW (block 2 1 0 0) 1 = 1 := by decide +kernel
theorem witness_ContainerCommands_load : (loads file).mwBusy = false ∧ (loads file).loadStatus 0 160 = 0 ∧ fget? (loads file).conts 1 = none ∧
    (at0 th).loadStatus 0 0 ≠ 0 :=
  ⟨rfl, load_passes file (by decide +kernel) (by decide +kernel) (by decide +kernel) (by decide +kernel), rfl, by decide +kernel⟩
theorem witness_ContainerCommands_unload : (queued [(9, record 0)]).contBusy 1 = true ∧ (queued []).contBusy 1 = false ∧ (queued []).mwBusy = false ∧
    ({ at0 th with mwCst := 0x8000000000000000 } : State).mwBusy = true := by decide
/-- FIFO 2's launch is to be halted into an area. -/
def halt1 (h : Option Nat) : State := { at0 {} with fifos := [(2, { running := some { sq := 9, record := record 0, halting := h } })], ev := { data := block 3 2 9 0x1000 } }
/-- The halt is being performed. -/
def halting : State := { (halt1 (some 0x1000)).mwGoes (block 3 2 9 0x1000) with ev := { on := true, data := block 3 2 9 0x1000 } }
theorem witness_MachineCommands_words : cmdW (halt1 none).ev.data 1 = 2 ∧ cmdW (halt1 none).ev.data 2 = 9 ∧ cmdW (halt1 none).ev.data 3 = 0x1000 ∧
    (halt1 none).ev.on = false ∧ cmdW (block 4 0x1000 0 0) 1 = 0x1000 ∧ ((at0 th).fifo 2).running.isNone = true ∧ ((at0 th).fifo 2).queue = [] := by decide +kernel
theorem witness_MachineCommands_halting : halting.mwBusy = true ∧ halting.mwCmd = some halting.ev.data ∧ halting.ev.on = true ∧
    (halting.fifo 2).running.map (fun r => (r.sq, r.halting, r.halted, r.contained)) = some (9, some 0x1000, false, false) ∧ halting.quiet (2, 9) = true ∧
    halting.mem.wf = true := by decide +kernel
def saved : HaltSave := { area := 0x1000, fifo := 2, run := { sq := 9, record := record 0, halting := some 0x1000 }, contexts := [(0, absent1)], parked := [], accs := [], envs := [], sv := [], maps := [], late := [] }
theorem witness_MachineCommands_halt : (halt1 none).mwBusy = false ∧ ((halt1 none).fifo 2).running.map (fun r => (r.sq, r.halting, r.halted)) = some (9, none, false) ∧
    ((halt1 (some 0x1000)).fifo 2).running.map (fun r => (r.sq, r.halting, r.halted)) = some (9, some 0x1000, false) ∧ (halt1 (some 0x1000)).quiet (2, 9) = true ∧
    (halt1 none).stands = false ∧ (halt1 none).halts.find? (fun h => h.area == 0x1000) = none ∧
    (({ halt1 none with halts := [saved] } : State).halts.find? (fun h => h.area == 0x1000)).map (·.late) = some [] ∧
    (({ halt1 none with halts := [saved] } : State).fifo 2).running.map (·.sq) = some saved.run.sq ∧ (halt1 (some 0x1000)).mem.wf = true ∧
    ({ saved with run := { saved.run with sq := 8 } } : HaltSave).run.sq ≠ 9 := by decide
/-- A CXL region of n bytes; the command names it, or hub 1 and its frame 0. -/
def ckState (n : Nat) : State := { at0 {} with mwCxl := [(1, BitVec.ofNat 128 (2 ^ 63 + n * 2 ^ 64))], ev := { data := block 5 1 0 0x70000 } }
theorem witness_MachineCommands_checkpoint : (ckState (2 ^ 42)).stands = true ∧ (ckState 0).regionHolds 1 0 (ckSize 0) = false ∧
    (ckState (ckSize 0)).regionHolds 1 0 (ckSize 1) = false ∧ (ckState (ckSize 0)).regionHolds 1 0 (ckSize 0) = true ∧
    (ckState (2 ^ 42)).regionHolds 1 0 (ckSize (ckState (2 ^ 42)).hbmLines.length) = true ∧ (ckState (2 ^ 42)).mem.wf = true ∧ cmdW (ckState 0).ev.data 1 = 1 ∧
    cmdW (ckState 0).ev.data 2 = 0 ∧ (1 : Nat) < 24 ∧ (ckState 0).peerCopies = [] ∧ (ckState 0).targetBase 0x70000 0 = some (hbmPa 0 0x70000) ∧
    (ckState 0).targetBase (2 ^ 55) 0 = none ∧ ((ckState 0).hub 1).pointers.length < 65536 := by decide +kernel
theorem witness_MachineCommands_lease : ∃ p ∈ ({ ckState 0 with peerCopies := [(3, 1, 0, true)] } : State).peerCopies, (p.2.1 = 1 ∧ p.2.2.1 = 0) ∧ p.2.2.2 = true :=
  ⟨(3, 1, 0, true), by simp, by decide⟩
/-- A hub's pointer area that is full, frame 0 not in it. -/
def fullPointers : FMap Nat := (List.range 65536).map (fun k => (k + 1, 0))
theorem fget?_succ_zero (l : List Nat) : fget? (l.map (fun k => (k + 1, 0))) 0 = (none : Option Nat) := by
  induction l with
  | nil => rfl
  | cons x l ih => simpa [fget?] using ih
theorem witness_MachineCommands_full : fullPointers.length = 65536 ∧ fget? fullPointers 0 = none :=
  ⟨by simp [fullPointers], fget?_succ_zero _⟩
/-- The pool's first byte. -/
def firstByte : Nat := 2 ^ 60
/-- A trailer at the checkpoint's place. -/
def trailer (v : Nat) : State := { ckState (ckSize 0) with mem := Memory.setNat [] (firstByte + ckSize 0 - 64) 64 v }
theorem trailer_digest (v : Nat) : ckDigest (trailer v).mem firstByte 0 = ckDigest [] firstByte 0 := by
  have h : Memory.range (trailer v).mem firstByte (ckSize 0 - 64) = [] := by
    apply List.filter_eq_nil_iff.2
    intro c hc
    simp only [trailer, Memory.setNat] at hc
    rcases Memory.mem_setBytes [] (firstByte + ckSize 0 - 64) (leBytes 64 v) c hc with hc | hc
    · have h0 : 64 ≤ ckSize 0 := by decide
      simp only [Bool.and_eq_true, decide_eq_true_eq, not_and]
      omega
    · cases hc
  rw [ckDigest, ckDigest, h]; rfl
theorem trailer_reads (v : Nat) : (trailer v).mem.nat (firstByte + ckSize 0 - 64) 64 = v % 2 ^ 512 := by
  simp only [trailer]
  exact Memory.nat_setNat_same [] (firstByte + ckSize 0 - 64) 64 v rfl
theorem trailer_region (v n : Nat) : (trailer v).regionHolds 1 0 (ckSize n) = decide (ckSize n ≤ ckSize 0) := by
  have hc : (fget 0 (trailer v).mwCxl 1).toNat = 2 ^ 63 + ckSize 0 * 2 ^ 64 := by
    show (BitVec.ofNat 128 (2 ^ 63 + ckSize 0 * 2 ^ 64)).toNat = _
    decide
  have h1 : bitsN (2 ^ 63 + ckSize 0 * 2 ^ 64) 63 63 = 1 := by decide
  have h2 : (2 ^ 63 + ckSize 0 * 2 ^ 64) / 2 ^ 64 = ckSize 0 := by decide
  simp only [State.regionHolds, hc, h1, h2]
  simp
theorem trailer_pool (v : Nat) : (trailer v).poolAt 1 0 = firstByte := by
  show 2 ^ 60 + (BitVec.ofNat 128 (2 ^ 63 + ckSize 0 * 2 ^ 64)).toNat % 2 ^ 52 + 0 = _
  decide
theorem trailer_found (v : Nat) : (trailer v).checkpointAt 1 0 = if v % 2 ^ 512 = ckDigest [] firstByte 0 then some 0 else none := by
  have h : ∀ n, ((trailer v).regionHolds 1 0 (ckSize n) && (trailer v).mem.nat (firstByte + ckSize n - 64) 64 ==
      ckDigest (trailer v).mem firstByte n) = decide (n = 0 ∧ v % 2 ^ 512 = ckDigest [] firstByte 0) := by
    intro n
    by_cases hn : n = 0
    · subst hn
      rw [trailer_region, trailer_reads, trailer_digest]
      by_cases hv : v % 2 ^ 512 = ckDigest [] firstByte 0 <;> simp [hv]
    · have hlt : ¬ ckSize n ≤ ckSize 0 := by simp only [ckSize]; omega
      rw [trailer_region, decide_eq_false hlt]
      simp [hn]
  rw [State.checkpointAt, trailer_pool]
  simp only [h]
  by_cases hv : v % 2 ^ 512 = ckDigest [] firstByte 0
  · rw [if_pos hv, List.range_succ_eq_map, List.find?_cons_of_pos (by simp [hv])]
  · rw [if_neg hv, List.find?_eq_none]
    intro n _; simp [hv]
/-- A checkpoint with its right trailer is found; with another it is not. -/
theorem witness_MachineCommands_restore : (trailer (ckDigest [] firstByte 0)).checkpointAt 1 0 = some 0 ∧
    (trailer (ckDigest [] firstByte 0 + 1)).checkpointAt 1 0 = none := by
  have hd : ckDigest [] firstByte 0 < 2 ^ 512 := BitVec.isLt _
  rw [trailer_found, trailer_found, if_pos (Nat.mod_eq_of_lt hd), if_neg (by omega)]
  exact ⟨rfl, rfl⟩
end Sys2Proof.Tests
namespace Sys2Proof.Tests

/-! ## Steps, encodings, single rules -/

/-- The thread's group at 0x1008 is a pair; a lone one at 0x1010. -/
def stepping (a : Word) : State := { at0 { th with pc := a } with
  mem := words [(0x1008, 0x4208020002000002), (0x1010, 0x0000000582280000)], sched := [.issue 0 0 false], cur := {} }
/-- The state after the cycles of the pick, and that in which it issues, the thread ready. -/
def cycled (a : Word) : State :=
  let q : State := { stepping a with sched := [] }
  { (q.noteReady (fun k => k != 0 || (q.loneSlot 0).isNone)).pass 1 with defers := false }
def issues (a : Word) : State := (cycled a).wakes 0 0
theorem witness_StepRunsDecoded : (stepping 0x1008).on = true ∧ (stepping 0x1008).sched = [.issue 0 0 false] ∧ coreExists 0 = true ∧ (cycled 0x1008).cool 0 = true ∧
    (cycled 0x1008).loneSlot 0 = some 0 ∧ isOpt 0 = false ∧
    ((issues 0x1008).thr 0 0).pc = 0x1008 ∧ ((issues 0x1008).thr 0 0).gang = none ∧ ((issues 0x1008).thr 0 0).drupe = none ∧ ((issues 0x1008).core 0).lathe = none ∧
    (∀ g ∈ [Group.pair (.br 2) (.add 1 0 4), .lone (.movi 5 5)],
      ((issues 0x1008).landFor 0 0 (absOf 0 (groupWrites g))).groupHeld 0 0 g = false ∧
      ((issues 0x1008).landFor 0 0 (absOf 0 (groupWrites g))).overdueAt 0 0 g = false) := by decide
theorem witness_StepRunsDecoded_groups :
    decodeGroup ((issues 0x1008).mem.nat 0x1008 4) ((issues 0x1008).mem.nat 0x100C 4) = .ok (.pair (.br 2) (.add 1 0 4)) ∧
    decodeGroup ((issues 0x1010).mem.nat 0x1010 4) ((issues 0x1010).mem.nat 0x1014 4) = .ok (.lone (.movi 5 5)) := ⟨rfl, rfl⟩
theorem witness_EncodingsRoundTrip : (Instr.add 3 1 2).wf = true ∧ lvSplit (.add 3 1 2) = none ∧ encVec (.add 3 1 2) = none ∧
    (Instr.vaddLV 6 ⟨0, 0⟩ ⟨0, 1⟩ ⟨0, 2⟩ ⟨⟨0, 0⟩, some 1, true, false, some 4, 0⟩).wf = true ∧
    (lvSplit (.vaddLV 6 ⟨0, 0⟩ ⟨0, 1⟩ ⟨0, 2⟩ ⟨⟨0, 0⟩, some 1, true, false, some 4, 0⟩)).isSome = true ∧ (Instr.vadd 6 ⟨0, 0⟩ ⟨0, 1⟩ ⟨0, 2⟩).wf = true ∧
    (encVec (.vadd 6 ⟨0, 0⟩ ⟨0, 1⟩ ⟨0, 2⟩)).isSome = true := by decide
theorem witness_EveryStepGoesOn : State.reset.on = true ∧ ({ State.reset with on := false } : State).on = false := by decide
theorem witness_MemoryStaysCanonical : (stepping 0x1008).mem.wf = true ∧ (match step (stepping 0x1008) with
    | .next _ => true
    | _ => false) = true := by decide
/-- Registers 0 hold 0 and the link register too. -/
def ends : State := at0 { th with g := th.g.set 14 0 }
theorem witness_TargetZeroRetires : MayGo ends ∧ MayRetire ends ∧ target ends (-512) = 0 ∧ ends.rd 0 = 0 ∧ ends.rd 1 ≠ 0 ∧ ends.rd 1 ≠ 1 ∧ ends.rd 14 = 0 ∧
    inDrupe.me.drupe.isSome = true := by unfold MayGo MayRetire; decide
/-- A trap block whose handlers, at 0, are entered or returned to; a gang's follower whose register 13 holds 0. -/
def ending (cause : Nat) : State := { at0 { th with ktrap := 0x2000 } with mem := words [(0x2000, 0x4000), (0x2018, cause)] }
theorem witness_TargetZeroRetires_trap : MayGo (ending 0) ∧ (ending 0).me.gang = none ∧ (ending 0).src.ktrap ≠ 0 ∧ (ending 0).src.ktrap.toNat < 2 ^ 32 ∧
    (ending 0).mem.wf = true ∧ (ending 0).me.unsettled = false ∧ (ending 0).mem.nat 0x2008 8 = 0 ∧ (ending 0).mem.nat 0x2018 8 < 2 ^ 63 ∧
    (ending (2 ^ 63)).mem.nat 0x2010 8 = 0 ∧ 2 ^ 63 ≤ (ending (2 ^ 63)).mem.nat 0x2018 8 ∧ (at0 { th with g := th.g.set 13 0 }).headOf 0 0 = 0 := by
  unfold MayGo; decide
theorem witness_YieldReorders : (at0 th).me.gang = none ∧ gang2.me.gang.isSome = true ∧ ({ uid := 3, krole := 4 } : Thread).krole.toNat % 4 = (at0 th).me.krole.toNat % 4 ∧
    (at0 th).me.promoted = false ∧ ({ uid := 3 } : Thread).readyAt ≤ (at0 th).cycle := by decide
theorem witness_SlotMaps : (0x40000000 : Nat) < 2 ^ 31 ∧ 0x20 ≤ (0x40000000 : Nat) / 2 ^ 25 ∧ (0x3FFFFFFF : Nat) / 2 ^ 25 < 0x20 ∧
    ((at0 th).thr 0 0).drupe = none ∧ ((at0 th).thr 0 0).pc.toNat % 8 = 0 ∧
    (∀ i, i < 8 → (at0 th).mem.get (0x1008 + i) = 0) ∧ (at0 th).members 0 0 = [(0, 0)] := by decide
theorem witness_SlotMaps_words : decC 0 = .ok .nopC := rfl
theorem witness_TwoWriters_words : decC 0x0E280180 = .ok (.ld ⟨0, 5⟩ 0 0 6 0) ∧ decA' 0x42280000 = .ok (.add 5 0 0) := ⟨rfl, rfl⟩
theorem witness_TwoWriters : Reg.g 5 ∈ (Instr.ld ⟨0, 5⟩ 0 0 6 0).writes ∧ Reg.g 5 ∈ (Instr.add 5 0 0).writes ∧ (8 : Nat) + 2 ^ 3 = 16 := by decide
theorem witness_CompletionAndRejection : (2 : Nat) < 16 ∧ (queued []).mem.wf = true ∧ (9 : Nat) < 2 ^ 27 ∧ (record 0).toNat / 2 ^ 448 ≠ 0 ∧
    (record 1).toNat % 2 ^ 32 ≠ 0 ∧ (record 0).toNat % 2 ^ 32 = 0 ∧ (record 0).toNat / 2 ^ 64 % 2 ^ 128 ≠ 0 ∧ (record (0x91000009 * 2 ^ 256)).toNat / 2 ^ 256 % 2 ^ 32 / 2 ^ 31 = 1 ∧
    (queued [(9, record (0x90000009 * 2 ^ 256))]).rejects 2 9 (record (0x90000009 * 2 ^ 256)) = true ∧
    (queued [(9, record (0x90000008 * 2 ^ 256))]).rejects 2 9 (record (0x90000008 * 2 ^ 256)) = false ∧ ((queued []).fifo 2).done + 1 = 9 := by decide +kernel
/-- A service core that forwards for expert 5 and for slot 5. -/
def forwards : State := { at0 { svc with g := (th.g.set 3 3).set 2 2 } { fwd := [{ thread := false, key := 5, core := 3, slot := 0, expires := 9 }, { thread := true, key := 5, core := 4, slot := 1, expires := 9 }] } with cycle := 4 }
theorem witness_ForwardTimes : forwards.src.krole.toNat % 4 = 3 ∧ (forwards.fwdFor 0 false 5).isSome = true ∧ (forwards.fwdFor 0 true 5).isSome = true ∧
    forwards.fwdFor 0 false 6 = none ∧ (forwards.rd 0).toNat % 2 ^ 16 = 0 ∧ (forwards.rd 1).toNat % 2 ^ 16 ≠ 0 ∧ (forwards.rd 3).toNat % 4 = 3 ∧ (forwards.rd 2).toNat % 4 = 2 ∧
    (forwards.rd 0).toNat % 4 = 0 ∧ (forwards.rd 1).toNat % 4 = 1 := by decide
/-- A record arrives at core 0 whose generation is 3. -/
def recordNet (gen : Nat) : State := { net (msg 8 1 (.faultRecord { gen := gen, cls := 5 })) with cores := [(0, { gen := 3 })] }
theorem witness_RecordGenerations : (recordNet 3).arriving = some (msg 8 1 (.faultRecord { gen := 3, cls := 5 })) ∧ ((recordNet 3).core 0).gen = 3 ∧
    ((recordNet 3).core 0).spillFlt = [] ∧ (recordNet 3).fltSlot 0 = some 0 ∧ (recordNet 3).mem.wf = true ∧ 4 ≠ ((recordNet 4).core 0).gen :=
  ⟨rfl, by decide⟩
/-- Power-on times at both ends of bands 0, 1, 6 and 7. -/
theorem witness_HistogramBands : (at0 th).hours < 64 ∧ 64 * 4 ^ (1 - 1) ≤ 64 ∧ 255 < 64 * 4 ^ 1 ∧ 64 * 4 ^ (6 - 1) ≤ 65536 ∧ 262143 < 64 * 4 ^ 6 ∧
    64 * 4 ^ (7 - 1) ≤ ({ at0 th with powerOn := 262144 * 3600 * 2 ^ 31 } : State).hours := by decide
/-- A die with a sensor at a temperature; its throttle temperature is 95, its shutdown temperature 105. -/
def warm (temp : Nat) : State := { at0 th with dies := [(7, { temps := [(0, temp)] })], ev := { k := 0, f := 7, t := 96 } }
/-- Sizes 8 × 16 × 64 × 1, an idle and a busy device, a page-cache size at its bound, crossings of a temperature, a log that is due. -/
theorem witness_ManagementAndPhysical : (at0 th).anyLaunch = false ∧ (running [] 0).anyLaunch = true ∧ 524288 ≤ 524288 ∧ 524288 % 8 = 0 ∧ 524288 < 524296 ∧
    (2 ^ 16 - 1 : Nat) < 2 ^ 16 ∧ ¬ (((warm 95).die 7).thr % 256 < fget 0 ((warm 95).die 7).temps 0 ↔ ((warm 95).die 7).thr % 256 < 96) ∧
    (((warm 97).die 7).thr % 256 < fget 0 ((warm 97).die 7).temps 0 ↔ ((warm 97).die 7).thr % 256 < 96) ∧
    (warm 105).dies.any (fun d => d.2.tooHot) = true ∧ (warm 104).dies.any (fun d => d.2.tooHot) = false ∧ (7 : Nat) = 21 / 3 ∧
    ((running [] 0).fifo 2).running.isSome = true ∧ ({ at0 th with cycle := 2 ^ 24 } : State).cycle % 2 ^ 24 = 0 ∧
    ({ at0 th with cycle := 1 } : State).cycle % 2 ^ 24 ≠ 0 ∧ ({ at0 th with ev := { k := 11, on := true } } : State).ev.k < 12 := by decide

end Sys2Proof.Tests
namespace Sys2Proof.Tests

/-! ## Well-formedness: an ill-formed term for each check -/

theorem test_wf_brdec_needs_a_counter : (Instr.brdec 0 4).wf = false ∧ (Instr.brdec 1 4).wf = true := by decide
theorem test_wf_size_codes : (Instr.ld ⟨0, 1⟩ 2 0 7 0).wf = false ∧ (Instr.st ⟨0, 1⟩ 2 1 0).wf = false ∧
    (Instr.ld ⟨1, 2⟩ 2 0 4 0).wf = false ∧ (Instr.ld ⟨1, 2⟩ 2 0 6 0).wf = true := by decide
theorem test_wf_alignment : (Instr.ldx ⟨1, 3⟩ 2 1 0).wf = false ∧ (Instr.ldv ⟨1, 3⟩ 2 0).wf = false ∧
    (Instr.vadd 6 ⟨1, 1⟩ ⟨0, 2⟩ ⟨0, 3⟩).wf = false := by decide
theorem test_wf_lanes : (Instr.vadd 0 ⟨1, 2⟩ ⟨1, 2⟩ ⟨1, 2⟩).wf = false ∧ (Instr.vadd 3 ⟨3, 8⟩ ⟨3, 8⟩ ⟨3, 8⟩).wf = true := by decide
theorem test_wf_formats : (Instr.vadd 8 ⟨0, 1⟩ ⟨0, 2⟩ ⟨0, 3⟩).wf = false ∧ (Instr.vrcp 2 0 ⟨0, 1⟩ ⟨0, 2⟩).wf = false ∧
    (Instr.vrng 5 ⟨0, 1⟩ ⟨0, 2⟩ ⟨0, 3⟩).wf = false ∧ (Instr.vquant 6 ⟨0, 1⟩ ⟨0, 2⟩).wf = false ∧ (Instr.vsel 7 ⟨0, 1⟩ ⟨0, 2⟩ ⟨0, 3⟩).wf = false ∧
    (Instr.vred 6 5 ⟨0, 1⟩ ⟨0, 2⟩).wf = false ∧ (Instr.vcmp 1 9 0 ⟨0, 1⟩ ⟨0, 2⟩).wf = false ∧ (Instr.vxall 5 ⟨0, 1⟩ ⟨0, 2⟩).wf = false := by decide
theorem test_wf_widths : (Instr.vcvt 4 6 ⟨0, 2⟩ ⟨0, 4⟩).wf = false ∧ (Instr.vcvt 4 6 ⟨1, 2⟩ ⟨0, 4⟩).wf = true ∧
    (Instr.vred 6 0 ⟨1, 2⟩ ⟨1, 4⟩).wf = false ∧ (Instr.vscan 6 0 false ⟨0, 2⟩ ⟨1, 4⟩).wf = false ∧
    (Instr.vperm 2 ⟨0, 1⟩ ⟨0, 2⟩ ⟨1, 4⟩).wf = false ∧ (Instr.vbcast 2 ⟨0, 1⟩ ⟨0, 2⟩ 32).wf = false ∧ (Instr.vbcast 2 ⟨0, 1⟩ ⟨0, 2⟩ 31).wf = true := by decide
theorem test_wf_control_registers : (Instr.kget 1 0x11).wf = false ∧ (Instr.kset 1 0x10 0).wf = false ∧ (Instr.kset 1 2 3).wf = false ∧
    (Instr.kset 0 2 3).wf = true := by decide
theorem test_wf_counts : (Instr.gang 1 3).wf = false ∧ (Instr.lathe 1 0 2 5).wf = false ∧ (Instr.mma 0 1 2 0 0 0).wf = false ∧
    (Instr.mmas 0 1 2 0 0 0 false).wf = false := by decide
theorem test_wf_messages : (Instr.send 1 ⟨1, 2⟩ 4 0 1 0).wf = false ∧ (Instr.send 1 ⟨1, 3⟩ 4 0 0 0).wf = false ∧ (Instr.sendd 1 2 3 0 0).wf = false ∧
    (Instr.sendx 1 ⟨1, 2⟩ 4 1 0).wf = false ∧ (Instr.recv 1 ⟨1, 4⟩ 2 0).wf = false ∧ (Instr.qpop ⟨1, 4⟩ 2 0).wf = false ∧
    (Instr.gqpush ⟨2, 4⟩ 2).wf = false ∧ (Instr.postc ⟨1, 4⟩ 2).wf = false ∧ (Instr.qpush 1 ⟨3, 4⟩ 2).wf = false ∧
    (Instr.cpCopy 1 ⟨2, 2⟩ ⟨0, 0⟩).wf = false := by decide
theorem test_wf_word_one : (Instr.vaddLV 6 ⟨0, 1⟩ ⟨0, 2⟩ ⟨0, 3⟩ ⟨⟨0, 4⟩, none, false, false, none, 0⟩).wf = false ∧
    (Instr.vaddLV 6 ⟨0, 1⟩ ⟨0, 2⟩ ⟨0, 3⟩ ⟨⟨0, 0⟩, none, true, false, none, 0⟩).wf = false ∧
    (Instr.vaddLV 2 ⟨0, 1⟩ ⟨0, 2⟩ ⟨0, 3⟩ ⟨⟨0, 0⟩, none, false, false, some 1, 0⟩).wf = false ∧
    (Instr.vandLV ⟨0, 1⟩ ⟨0, 2⟩ ⟨0, 3⟩ ⟨⟨0, 0⟩, none, false, true, none, 0⟩).wf = false ∧
    (Instr.vquantLV 8 ⟨0, 1⟩ ⟨0, 2⟩ ⟨⟨0, 0⟩, some 1, false, false, none, 0⟩).wf = false ∧
    (Instr.vselLV 6 ⟨0, 1⟩ ⟨0, 2⟩ ⟨0, 3⟩ ⟨⟨0, 0⟩, none, false, false, none, 0⟩).wf = false ∧
    (Instr.vaddLV 6 ⟨0, 1⟩ ⟨0, 2⟩ ⟨0, 3⟩ ⟨⟨0, 0⟩, some 1, true, true, some 4, 0⟩).wf = true := by decide

/-! ## Decoding: words written field by field from R95, R97, R98 and R104 to R107 -/

theorem test_decode_branches : decodeTableWord 32 (0x04 * 2 ^ 25 + 3 * 2 ^ 19 + 5) = some (.brdec 3 5) ∧
    decodeTableWord 32 (0x05 * 2 ^ 25 + 0x7FFFF) = some (.call (-1)) ∧ decodeTableWord 32 (0x06 * 2 ^ 25 + 2 * 2 ^ 19 + 4 * 2 ^ 13) = some (.jr 2 4) ∧
    decodeTableWord 64 (2 ^ 31 + 0x03 * 2 ^ 25 + 9 * 2 ^ 32) = some (.jmp 9) := by decide
theorem test_decode_scalar : decodeTableWord 32 (0x21 * 2 ^ 25 + 3 * 2 ^ 19 + 1 * 2 ^ 13 + 2 * 2 ^ 7 + 1) = some (.sub 3 1 2) ∧
    decodeTableWord 32 (0x22 * 2 ^ 25 + 3 * 2 ^ 19 + 1 * 2 ^ 13 + 2 * 2 ^ 7 + 6 * 2 ^ 3) = some (.div 3 1 2 6) ∧
    decodeTableWord 32 (0x23 * 2 ^ 25 + 3 * 2 ^ 19 + 1 * 2 ^ 13 + 0x1FFF) = some (.addi 3 1 (-1)) ∧
    decodeTableWord 64 (2 ^ 31 + 0x01 * 2 ^ 25 + 4 * 2 ^ 19 + 5 * 2 ^ 13 + 2 + 7 * 2 ^ 32) = some (.addl 4 5 7) := by decide
theorem test_decode_memory : decodeTableWord 32 (0x09 * 2 ^ 25 + 0x12 * 2 ^ 19 + 4 * 2 ^ 13 + 6 * 2 ^ 6 + 63) = some (.st ⟨1, 2⟩ 4 6 63) ∧
    decodeTableWord 32 (0x0B * 2 ^ 25 + 0x38 * 2 ^ 19 + 2 * 2 ^ 13 + 3 * 2 ^ 7 + 9 * 2 ^ 3) = some (.ldx ⟨3, 8⟩ 2 3 9) ∧
    decodeTableWord 32 (0x0E * 2 ^ 25 + 3 * 2 ^ 18 + 0x14 * 2 ^ 12 + 2 * 2 ^ 8) = some (.ldv ⟨0, 3⟩ 2 2) ∧
    decodeTableWord 32 (0x0D * 2 ^ 25 + 0x12 * 2 ^ 19 + 4 * 2 ^ 13 + 5 * 2 ^ 3) = some (.acas 1 4 5) ∧
    decodeTableWord 64 (2 ^ 31 + 0x04 * 2 ^ 25 + 5 * 2 ^ 19 + 6 * 2 ^ 13 + 3 * 2 ^ 9 + 2 * 2 ^ 6 + 1 * 2 ^ 4 + 0xFFFFFFFC * 2 ^ 32) =
      some (.ldLong ⟨0, 5⟩ 6 3 2 true (-4)) := by decide
theorem test_decode_system : decodeTableWord 32 (0x10 * 2 ^ 25 + 5 * 2 ^ 19 + 3 * 2 ^ 6) = some (.kget 5 3) ∧
    decodeTableWord 32 (0x11 * 2 ^ 25 + 0x123 * 2 ^ 13 + 5) = some (.trap 0x123) ∧ decodeTableWord 32 (0x12 * 2 ^ 25 + 5 * 2 ^ 19 + 8) = some (.gang 5 8) ∧
    decodeTableWord 64 (2 ^ 31 + 0x08 * 2 ^ 25 + 3 * 2 ^ 10 + 1 * 2 ^ 2 + 5 * 2 ^ 32) = some (.safe 3 1 5) ∧
    decodeTableWord 64 (2 ^ 31 + 0x09 * 2 ^ 25 + 1 * 2 ^ 21 + 2 * 2 ^ 16 + 100 * 2 ^ 32) = some (.lathe 1 2 0 100) := by decide
theorem test_decode_vector : decodeTableWord 32 (0x2B * 2 ^ 25 + 1 * 2 ^ 18 + 2 * 2 ^ 11 + 3 * 2 ^ 4 + 4) = some (.vfma 4 ⟨0, 1⟩ ⟨0, 2⟩ ⟨0, 3⟩) ∧
    decodeTableWord 32 (0x32 * 2 ^ 25 + 0x22 * 2 ^ 18 + 4 * 2 ^ 11 + 6 * 2 ^ 7 + 4) = some (.vcvt 4 6 ⟨1, 2⟩ ⟨0, 4⟩) ∧
    decodeTableWord 64 (2 ^ 31 + 0x28 * 2 ^ 25 + 1 * 2 ^ 18 + 2 * 2 ^ 11 + 3 * 2 ^ 4 + 6 + (1 * 2 ^ 20 + 2 ^ 19 + 2 ^ 18 + 12 * 2 ^ 14) * 2 ^ 32) =
      some (.vaddLV 6 ⟨0, 1⟩ ⟨0, 2⟩ ⟨0, 3⟩ ⟨⟨0, 0⟩, some 1, true, true, some 4, 0⟩) ∧
    decodeTableWord 32 (0x3C * 2 ^ 25 + 2 * 2 ^ 20 + 1 * 2 ^ 13 + 3 * 2 ^ 6 + 6 * 2 ^ 2 + 3) = some (.vcmp 2 6 3 ⟨0, 1⟩ ⟨0, 3⟩) ∧
    decodeTableWord 32 (0x3D * 2 ^ 25 + 1 * 2 ^ 20 + 2 * 2 ^ 15 + 3 * 2 ^ 10) = some (.pand 1 2 3) := by decide
theorem test_decode_matrix_rind : decodeTableWord 32 (0x3E * 2 ^ 25 + 1 * 2 ^ 21 + 2 * 2 ^ 17 + 3 * 2 ^ 13 + 5 * 2 ^ 3 + 2) = some (.eadd 1 2 3 5) ∧
    decodeTableWord 32 (0x3F * 2 ^ 25 + 2 * 2 ^ 17 + 0x12 * 2 ^ 7 + 5 * 2 ^ 3) = some (.eeval 2 1 5) ∧
    decodeTableWord 32 (0x1C * 2 ^ 25 + 2 * 2 ^ 19 + 4 * 2 ^ 13 + 5 * 2 ^ 3) = some (.eld 2 4 5) := by decide
theorem test_decode_messages : decodeTableWord 64 (2 ^ 31 + 0x06 * 2 ^ 25 + 1 * 2 ^ 19 + 0x12 * 2 ^ 13 + 4 * 2 ^ 7 + (1 * 2 ^ 26 + 0x123456) * 2 ^ 32) =
      some (.send 1 ⟨1, 2⟩ 4 1 0 0x123456) ∧
    decodeTableWord 32 (0x13 * 2 ^ 25 + 0x14 * 2 ^ 19 + 0x38 * 2 ^ 13 + 3 * 2 ^ 7 + 7 * 2 ^ 3) = some (.recv 2 ⟨3, 8⟩ 3 7) ∧
    decodeTableWord 32 (0x14 * 2 ^ 25 + 1 * 2 ^ 19 + 0x12 * 2 ^ 13 + 4 * 2 ^ 7) = some (.qpush 1 ⟨1, 2⟩ 4) ∧
    decodeTableWord 32 (0x16 * 2 ^ 25 + 9 * 2 ^ 7) = some (.bar 9) ∧ decodeTableWord 32 (0x18 * 2 ^ 25 + 3 * 2 ^ 19) = some (.tqtake 3) ∧
    decodeTableWord 32 (0x19 * 2 ^ 25 + 3 * 2 ^ 19 + 0x38 * 2 ^ 13 + 0x12 * 2 ^ 7 + 0x60) = some (.svG1 3 ⟨3, 8⟩ ⟨1, 2⟩) := by decide
theorem test_decode_refuses : decodeGroup 0 0 = .error ⟨1, 1⟩ ∧ decodeTableWord 32 (0x1D * 2 ^ 25) = none ∧
    decodeTableWord 32 (0x07 * 2 ^ 25 + 5 * 2 ^ 19 + 4 * 2 ^ 13 + 7 * 2 ^ 6) = none := ⟨rfl, by decide⟩

end Sys2Proof.Tests
namespace Sys2Proof.Tests

/-! ## One step each: the spec's worked examples and values worked out by hand from its rules -/

/-- The state after an instruction. -/
def after (i : Instr) (s : State) : State :=
  match exec i s with
  | .next t => t
  | _ => s
/-- Register n after an instruction. -/
def reg (i : Instr) (s : State) (n : Nat) : Nat := ((after i s).me.reg n).toNat
/-- A thread with two operands in g1 and g2. -/
def two (a b : Word) : State := at0 { th with g := (th.g.set 1 a).set 2 b }
/-- A window of 16 registers from 4 with the first three of it given. -/
def vecs (a b c : Nat) : State :=
  at0 { th with kvwin := 0x1004 } { v := (((Vector.replicate 32 0).set 4 (BitVec.ofNat 1024 a)).set 5 (BitVec.ofNat 1024 b)).set 6 (BitVec.ofNat 1024 c) }
/-- Vector register n of core 0 after an instruction, its low 64 bits. -/
def low (i : Instr) (s : State) (n : Fin 32) : Nat := ((after i s).here.v[n]).toNat % 2 ^ 64
def flags (i : Instr) (s : State) : Nat := (after i s).me.kflags.toNat

/-- R134: a sum wraps. -/
theorem test_add_wraps : reg (.add 3 1 2) (two (BitVec.allOnes 64) 2) 3 = 1 := by decide
/-- R134: the spec's two examples of `addsat.s16`. -/
theorem test_addsat : reg (.addsat 1 true 3 1 2) (two 0x7FF0 0x20) 3 = 0x7FFF ∧
    reg (.addsat 1 true 3 1 2) (two 0xFFFFFFFFFFFF8000 0x8000) 3 = 0xFFFFFFFFFFFF8000 ∧ flags (.addsat 1 true 3 1 2) (two 0x7FF0 0x20) = 32 := by decide
/-- R134: bit extract and deposit, hand-worked. -/
theorem test_bext_bdep : reg (.bext 3 1 2) (two 0b1011 0b1010) 3 = 0b11 ∧ reg (.bdep 3 1 2) (two 0b01 0b1010) 3 = 0b0010 := by decide
/-- R134: `mulh` is signed, `mulhu` is not. -/
theorem test_mulh : reg (.mulh 3 1 2) (two (BitVec.allOnes 64) 2) 3 = 2 ^ 64 - 1 ∧ reg (.mulhu 3 1 2) (two (BitVec.allOnes 64) 2) 3 = 1 := by decide
/-- R137: the spec's `movi` and `movhi` example. -/
theorem test_movi_movhi : reg (.movhi 4 1) (after (.movi 4 0x72000000) (at0 th)) 4 = 0x172000000 := by decide
/-- R138: division by zero gives −1. -/
theorem test_div_by_zero : (after (.div 3 1 2 4) (two 7 0)).me.outs.map (fun o => (o.regs, o.look, o.val)) =
    [([.g 3], 4, .words [BitVec.allOnes 64])] := by decide
/-- R139: `brdec` counts down and branches while the counter is not 0. -/
theorem test_brdec : reg (.brdec 1 (-1)) (two 2 0) 1 = 1 ∧ (after (.brdec 1 (-1)) (two 2 0)).me.pc = 0xFF8 ∧
    (after (.brdec 1 (-1)) (two 1 0)).me.pc = 0x1008 := by decide
/-- R229: a signed byte is extended; R1: the lowest byte is the lowest address. -/
theorem test_load_store : (after (.ld ⟨0, 3⟩ 1 4 1 0) { two 0x2001 0 with mem := words [(0x2000, 0x80FF)] }).me.outs.map (·.val) =
      [.words [0xFFFFFFFFFFFFFF80]] ∧
    (after (.st ⟨0, 2⟩ 1 2 1) { two 0x2000 0x12345678 with mem := words [(0x2000, 0)] }).mem = [(0x2002, 0x78), (0x2003, 0x56)] := by decide
/-- R241: the spec's example of `afadd`. -/
theorem test_afadd : (after (.afadd 3 1 2 0) { two 0x2000 0x800000003F000000 with mem := words [(0x2000, 0x3F80000040000000)] }).mem.nat 0x2000 8 =
    0x3F80000040200000 := by decide
/-- R131: a reserved value of `kround` faults: the thread is blocked and the register as before. -/
theorem test_kset_refused : (after (.kset 1 6 0) (two 0xFF 0)).me.kround = 0 ∧ (after (.kset 1 6 0) (two 0xFF 0)).cur.stop = true := by decide
/-- R84, R85: the spec's example of overflow at the midpoint, under RNE, RTZ and `.sat`. -/
theorem test_fma_overflow : low (.vfma 6 ⟨0, 2⟩ ⟨0, 0⟩ ⟨0, 1⟩) (vecs 0x7F7FFFFF 0x3F800000 0x73000000) 6 = 0x7F800000 ∧
    low (.vfmaLV 6 ⟨0, 3⟩ ⟨0, 0⟩ ⟨0, 1⟩ ⟨⟨0, 2⟩, none, false, false, some 1, 0⟩) (vecs 0x7F7FFFFF 0x3F800000 0x73000000) 7 = 0x7F7FFFFF ∧
    low (.vfmaLV 6 ⟨0, 3⟩ ⟨0, 0⟩ ⟨0, 1⟩ ⟨⟨0, 2⟩, none, false, true, none, 0⟩) (vecs 0x7F7FFFFF 0x3F800000 0x73000000) 7 = 0x7F7FFFFF := by decide +kernel
/-- R72: 1.5 + 0.25 in FP32 and the two lanes of a word (06: `f32(1.5)` is 0x3FC0_0000). -/
theorem test_vadd : low (.vadd 6 ⟨0, 2⟩ ⟨0, 0⟩ ⟨0, 1⟩) (vecs (0x3FC00000 + 0x40000000 * 2 ^ 32) (0x3E800000 + 0xC0000000 * 2 ^ 32) 0) 6 = 0x3FE00000 := by decide +kernel
/-- R76: the spec's BFP8 block, 121.6 / 16 and its neighbours, and the flag. -/
theorem test_vquant : low (.vquant 14 ⟨0, 2⟩ ⟨0, 0⟩) (vecs (0x40F33333 + 0xC0F00000 * 2 ^ 32 + 0x3E99999A * 2 ^ 64 + 0x40200000 * 2 ^ 96) 0 0) 6 = 0x2805887A81 := by decide +kernel
/-- R173: 2^3 and log2 8, exact. -/
theorem test_exp_log : (after (.vexp2 6 0 ⟨0, 2⟩ ⟨0, 0⟩) (vecs 0x40400000 0 0)).me.outs.map (fun o => match o.val with
      | .vecs vs => (vs.headD 0).toNat % 2 ^ 32
      | .words _ => 0) = [0x41000000] ∧
    (after (.vlog2 6 0 ⟨0, 2⟩ ⟨0, 0⟩) (vecs 0x41000000 0 0)).me.outs.map (fun o => match o.val with
      | .vecs vs => (vs.headD 0).toNat % 2 ^ 32
      | .words _ => 0) = [0x40400000] := by decide +kernel
/-- R175: lane l of a shuffle is lane l xor k. -/
theorem test_vshuf : low (.vshuf 2 ⟨0, 2⟩ ⟨0, 0⟩ 1) (vecs (7 + 9 * 2 ^ 32) 0 0) 6 = 9 + 7 * 2 ^ 32 := by decide +kernel
/-- R181: `vcmp` less, of signed 64-bit lanes. -/
theorem test_vcmp : (after (.vcmp 1 3 2 ⟨0, 0⟩ ⟨0, 1⟩) (vecs (2 ^ 64 - 1) 0 0)).me.pred 1 = 1 := by decide +kernel
/-- R148: `trap` saves the address of the next group and the cause in the block. -/
theorem test_trap : (after (.trap 0x12) (trapState 0)).mem.nat 0x2010 8 = 0x1008 := by decide
/-- R27, R100: the words of a pair with one destination twice do not decode. -/
theorem test_two_writers : decodeGroup (0x10 * 2 ^ 25 + 5 * 2 ^ 19 + 3 * 2 ^ 6) (0x23 * 2 ^ 25 + 5 * 2 ^ 19 + 1) = .error ⟨1, 13⟩ := rfl
/-- R49: reset memory and threads: nothing runs. -/
theorem test_reset : State.reset.mem.wf = true ∧ (State.reset.thr 0 0).live = false ∧ (State.reset.core 3).kage = 64 := by decide
/-- R365: regions that meet name one byte; offset 0x1000 with ports 1 and 3 and a 4 KiB granule goes to port 3. -/
def pool : State := { mwCxl := [(0, BitVec.ofNat 128 (2 ^ 63 + 0x20000 + 12 * 2 ^ 56 + 10 * 2 ^ 52 + 2 ^ 80)), (1, BitVec.ofNat 128 (2 ^ 63 + 0x10000))] }
theorem test_pool : pool.pooled (cxlPa 0 5) = pool.pooled (cxlPa 1 0x10005) ∧ pool.cxlPort 0 0x1000 = some 3 ∧ pool.cxlPort 0 0x2000 = some 1 ∧
    pool.cxlOk 0 0x1000 = true ∧ ({ pool with linksDown := [16387] } : State).cxlOk 0 0x1000 = false := by decide
/-- R347: without power a step is a fault. -/
theorem test_no_power : step { State.reset with on := false } = .fault .poweredOff := rfl

end Sys2Proof.Tests
end

/-! # The memory stays in its canonical form (R1, R220)

Every change of the memory goes through `Memory.set`, `setBytes`, `setNat`, `copy` and `clear`, which keep the canonical form. First the
operations that leave the memory as it is, file by file of the model; then those that may write it, up to `step`. -/

namespace Sys2Proof.Machine

/-! ## Results that hold states -/

theorem getD_mem {o : Option State} {s : State} {m : Memory} (ho : ∀ u ∈ o, u.mem = m) (hs : s.mem = m) : (o.getD s).mem = m := by
  cases o with
  | none => exact hs
  | some u => exact ho u rfl
theorem mem_of_eq {α : Type} {p : State × α} {t : State} {a : α} {m : Memory} (hp : p.1.mem = m) (e : p = (t, a)) : t.mem = m := by
  rw [← hp, e]

/-! ## Operands -/

@[simp] theorem State.modUid_mem (s : State) (uid : Nat) (f : Thread → Thread) : (s.modUid uid f).mem = s.mem := rfl
@[simp] theorem State.wrN_mem (s : State) (n v : Nat) : (s.wrN n v).mem = s.mem := rfl
@[simp] theorem State.wrs_mem (s : State) (n : Nat) (vs : List Word) : (s.wrs n vs).mem = s.mem := rfl
@[simp] theorem State.addOut_mem (s : State) (rs : List Reg) (look : Nat) (w : OutWait) (val : OutVal) :
    (s.addOut rs look w val).mem = s.mem := rfl
@[simp] theorem State.longG_mem (s : State) (n look : Nat) (v : Word) : (s.longG n look v).mem = s.mem := by
  unfold State.longG; split <;> simp

/-! ## Translate -/

@[simp] theorem State.useL2_mem (s : State) (c : Nat) (e : TlbEntry) : (s.useL2 c e).mem = s.mem := rfl
@[simp] theorem State.useL1_mem (s : State) (c : Nat) (fetch : Bool) (e : TlbEntry) : (s.useL1 c fetch e).mem = s.mem := rfl
@[simp] theorem State.lookup_mem (s : State) (c h ea : Nat) (fetch : Bool) : (s.lookup c h ea fetch).1.mem = s.mem := by
  unfold State.lookup; dsimp only; repeat' split
  all_goals simp
@[simp] theorem State.unhide_mem (s : State) (pa n : Nat) : (s.unhide pa n).mem = s.mem := by
  unfold State.unhide; split <;> simp
@[simp] theorem State.mapTags_mem (s : State) (r h f : Nat) (g : PcTag → PcTag) : (s.mapTags r h f g).mem = s.mem := rfl
@[simp] theorem State.touchTag_mem (s : State) (g p : Nat) (t : PcTag) : (s.touchTag g p t).mem = s.mem := rfl
@[simp] theorem State.noteWrite_mem (s : State) (pa : Nat) : (s.noteWrite pa).mem = s.mem := by
  unfold State.noteWrite; dsimp only; repeat' split
  all_goals simp
@[simp] theorem State.noteDirty_mem (s : State) (pa : Nat) : (s.noteDirty pa).mem = s.mem := by
  unfold State.noteDirty; repeat' split
  all_goals simp

/-! ## Access -/

@[simp] theorem State.noteSeen_mem (s : State) (uid pa n : Nat) : (s.noteSeen uid pa n).mem = s.mem := by
  unfold State.noteSeen; split <;> simp
@[simp] theorem State.reveal_mem (s : State) (uid pa n : Nat) : (s.reveal uid pa n).mem = s.mem := by
  unfold State.reveal; split <;> simp
@[simp] theorem State.wakeLdx_mem (s : State) (pa : Nat) : (s.wakeLdx pa).mem = s.mem := by
  unfold State.wakeLdx; exact foldl_mem _ _ (fun u x => State.setThr_mem u _ _ _) s

/-! ## Flags -/

@[simp] theorem State.raise_mem (s : State) (f : Flags) : (s.raise f).mem = s.mem := rfl
@[simp] theorem State.raiseUid_mem (s : State) (uid : Nat) (f : Flags) : (s.raiseUid uid f).mem = s.mem := rfl

/-! ## Home -/

@[simp] theorem State.homeMsg_mem (s : State) (name dst : Nat) (b : SysMsg) : (s.homeMsg name dst b).mem = s.mem := by simp [State.homeMsg]
@[simp] theorem State.toHome_mem (s : State) (name src : Nat) (b : SysMsg) : (s.toHome name src b).mem = s.mem := by simp [State.toHome]
@[simp] theorem State.tellChange_mem (s : State) (name : Nat) : (s.tellChange name).mem = s.mem := by simp [State.tellChange]
@[simp] theorem State.tellCore_mem (s : State) (name j : Nat) : (s.tellCore name j).mem = s.mem := by simp [State.tellCore]
@[simp] theorem State.changeShared_mem (s : State) (name j : Nat) (x : DirSlot) :
    (s.changeShared name j x).mem = s.mem := by simp [State.changeShared]
@[simp] theorem State.addStat_mem (s : State) (name k : Nat) : (s.addStat name k).mem = s.mem := rfl
@[simp] theorem State.drainSlot_mem (s : State) (name j : Nat) : (s.drainSlot name j).mem = s.mem := by simp [State.drainSlot]
@[simp] theorem State.windowEnd_mem (s : State) (name t : Nat) : (s.windowEnd name t).mem = s.mem := by
  unfold State.windowEnd; dsimp only; repeat' split
  all_goals simp
@[simp] theorem State.windowEnds_mem (s : State) (name t n : Nat) : (s.windowEnds name t n).mem = s.mem := by
  induction n generalizing s with
  | zero => rfl
  | succ n ih => unfold State.windowEnds; dsimp only; split <;> simp [ih]
@[simp] theorem State.atHome_mem (s : State) (name : Nat) : (s.atHome name).mem = s.mem := by simp [State.atHome]
@[simp] theorem State.beforeCopy_mem (s : State) (name : Nat) : (s.beforeCopy name).mem = s.mem := by
  unfold State.beforeCopy; split <;> simp

/-! ## Thread -/

@[simp] theorem State.unNet_mem (s : State) (uid : Nat) : (s.unNet uid).mem = s.mem := rfl
@[simp] theorem State.atDoor_mem (s : State) (m : Msg) : (s.atDoor m).mem = s.mem := by
  unfold State.atDoor; split <;> simp

/-! ## Fault -/

@[simp] theorem State.lifeAdd_mem (s : State) (kind idx item : Nat) : (s.lifeAdd kind idx item).mem = s.mem := rfl
@[simp] theorem State.countRefault_mem (s : State) (c : Nat) : (s.countRefault c).mem = s.mem := rfl
@[simp] theorem State.forgetAsker_mem (s : State) (c t : Nat) : (s.forgetAsker c t).mem = s.mem := rfl
@[simp] theorem State.freeRings_mem (s : State) (l : Nat × Nat) : (s.freeRings l).mem = s.mem := rfl

/-! ## Ops -/

@[simp] theorem State.thenGo_mem {s t : State} {go : State → State} (hgo : ∀ u, (go u).mem = u.mem) (ht : t.mem = s.mem) :
    (s.thenGo t go).mem = s.mem := by
  unfold State.thenGo; split <;> simp [hgo, ht]

/-! ## Branch -/

@[simp] theorem State.drupeop_mem (s : State) : s.drupeop.mem = s.mem := by simp [State.drupeop]

/-! ## Context -/

@[simp] theorem State.landOuts_mem (s : State) (c t : Nat) (p : Out → Bool) : (s.landOuts c t p).mem = s.mem := rfl
@[simp] theorem State.closeWindows_mem (s : State) (c t : Nat) : (s.closeWindows c t).mem = s.mem := rfl
@[simp] theorem State.saveContext_mem (s : State) (c t : Nat) (pc : Word) (gl : BitVec 16) (pl : BitVec 8) (vl : BitVec 32)
    (target : Option (Nat × Nat)) :
    (s.saveContext c t pc gl pl vl target).mem = s.mem := by simp [State.saveContext]

/-! ## LoadStore -/

@[simp] theorem State.leaveTo_mem (s : State) (target : Nat) (pc : Word) (d : Nat) :
    (s.leaveTo target pc d).mem = s.mem := by simp [State.leaveTo]
@[simp] theorem State.showScope_mem (s : State) (scope : Nat) : (s.showScope scope).mem = s.mem := by
  unfold State.showScope; repeat' split
  all_goals simp
@[simp] theorem State.doFence_mem (s : State) (stores : Bool) (scope : Fin 6) : (s.doFence stores scope).mem = s.mem := by
  unfold State.doFence; dsimp only; repeat' split
  all_goals simp
@[simp] theorem State.dropPrefetch_mem (s : State) : s.dropPrefetch.mem = s.mem := rfl
@[simp] theorem State.prefetchFill_mem (s : State) (ea : Word) (own : Bool) : (s.prefetchFill ea own).mem = s.mem := by
  unfold State.prefetchFill
  split
  · simp
  · split
    · simp
    · have hu := mem_of_eq (State.lookup_mem s _ _ _ _) ‹_›
      dsimp only; repeat' split
      all_goals simp [hu]

/-! ## Control -/

@[simp] theorem State.setWindow_mem (s : State) (v : Word) (code : Nat) : (s.setWindow v code).mem = s.mem := by
  unfold State.setWindow; dsimp only; repeat' split
  all_goals simp
@[simp] theorem State.kset_mem (s : State) (kn : Nat) (v : Word) : (s.kset kn v).mem = s.mem := by
  unfold State.kset; split <;> simp
@[simp] theorem State.formGang_mem (s : State) (c t : Nat) (g : GangRec) (l : List (Nat × Nat)) : (s.formGang c t g l).mem = s.mem := by
  induction l generalizing s with
  | nil => rfl
  | cons m l ih =>
    unfold State.formGang; repeat' split
    all_goals simp [ih]
@[simp] theorem State.splitOff_mem (s : State) (c t : Nat) : (s.splitOff c t).mem = s.mem := by
  unfold State.splitOff; dsimp only; repeat' split
  all_goals simp
theorem State.doMigr_mem (s : State) (k d : Nat) (pc : Word) : ∀ u ∈ s.doMigr k d pc, u.mem = s.mem := by
  unfold State.doMigr; dsimp only; repeat' split
  all_goals simp
@[simp] theorem State.finishAfter_mem (s : State) (c t : Nat) : (s.finishAfter c t).mem = s.mem := by
  unfold State.finishAfter; dsimp only; split
  · rfl
  · split
    · rfl
    · split <;> simp
    · split
      · rename_i v hv
        exact (State.doMigr_mem _ _ _ _ v hv).trans (by simp)
      · rfl

/-! ## Net -/

@[simp] theorem State.addFwd_mem (s : State) (c : Nat) (f : Forward) : (s.addFwd c f).mem = s.mem := rfl
@[simp] theorem State.postSched_mem (s : State) (c : Nat) (a : Absent) : (s.postSched c a).mem = s.mem := by
  unfold State.postSched; split <;> simp
@[simp] theorem State.parkItem_mem (s : State) (c : Nat) (a : Absent) (p : Parked) :
    (s.parkItem c a p).mem = s.mem := by simp [State.parkItem]
@[simp] theorem State.parkMsg_mem (s : State) (c : Nat) (a : Absent) (m : Msg) : (s.parkMsg c a m).mem = s.mem := by
  unfold State.parkMsg; split <;> simp
@[simp] theorem State.haltPark_mem (s : State) (c : Nat) (p : Parked) : (s.haltPark c p).mem = s.mem := rfl
theorem State.spillMsg_mem (s : State) (c : Nat) (m : Msg) (back : Bool) : ∀ u ∈ s.spillMsg c m back, u.mem = s.mem := by
  unfold State.spillMsg; repeat' split
  all_goals simp
@[simp] theorem State.turnedAway_mem (s : State) : s.turnedAway.mem = s.mem := by
  unfold State.turnedAway; repeat' split
  · exact getD_mem (State.spillMsg_mem (s.unNet _) _ _ _) (by simp)
  all_goals rfl
theorem State.enter_mem (s : State) (c : Nat) (m : Msg) (back : Bool) : ∀ u ∈ s.enter c m back, u.mem = s.mem := by
  unfold State.enter; split
  · simp
  · exact s.spillMsg_mem c m back
theorem State.consume_mem {act : State → State} {s : State} (ha : (act s).mem = s.mem) (m : Msg) (back : Bool) :
    ∀ u ∈ s.consume m back act, u.mem = s.mem := by
  unfold State.consume; split
  · simpa using ha
  · exact State.spillMsg_mem s m.dst m back
theorem State.deliver_mem (s : State) (c : Nat) (m : Msg) (back : Bool) : ∀ u ∈ s.deliver c m back, u.mem = s.mem := by
  unfold State.deliver; split
  · exact s.enter_mem c m back
  · repeat' split
    case isFalse.isTrue.isFalse => exact s.enter_mem c m back
    all_goals simp
theorem State.orWait_mem {o : Option State} {s : State} (ho : ∀ u ∈ o, u.mem = s.mem) (m : Msg) : (s.orWait m o).mem = s.mem := by
  unfold State.orWait; repeat' split
  · exact ho _ rfl
  all_goals simp
theorem State.enterResult_mem (s : State) (c t f : Nat) (e : QoEntry) (back : Bool) : ∀ u ∈ s.enterResult c t f e back, u.mem = s.mem := by
  unfold State.enterResult; dsimp only; repeat' split
  all_goals simp
theorem State.deliverResult_mem (s : State) (f : Nat) (e : QoEntry) (back : Bool) : ∀ u ∈ s.deliverResult f e back, u.mem = s.mem := by
  unfold State.deliverResult; split
  · split
    · simp
    · exact s.enterResult_mem _ _ _ _ _
  · repeat' split
    all_goals simp

/-! ## Directory -/

@[simp] theorem State.cacheLine_mem (s : State) (k : Nat) (l : DirLine) : (s.cacheLine k l).mem = s.mem := by
  unfold State.cacheLine; dsimp only; split <;> simp
@[simp] theorem State.cacheDecides_mem (s : State) (c : Nat) (o : OutboxEntry) (e : DirEntry) : (s.cacheDecides c o e).mem = s.mem := by
  unfold State.cacheDecides; dsimp only; repeat' split
  all_goals simp
@[simp] theorem State.routeToken_mem (s : State) (c : Nat) (o : OutboxEntry) : (s.routeToken c o).mem = s.mem := by
  unfold State.routeToken; dsimp only; repeat' split
  all_goals simp
@[simp] theorem State.takeToken_mem (s : State) (c : Nat) (m : Msg) (ask : Bool) : (s.takeToken c m ask).mem = s.mem := by
  unfold State.takeToken; split <;> simp
theorem State.arriveToken_mem (s : State) (c : Nat) (m : Msg) : ∀ u ∈ s.arriveToken c m, u.mem = s.mem := by
  unfold State.arriveToken; repeat' split
  all_goals simp
@[simp] theorem State.recheck_mem (s : State) (c : Nat) (es : List InboxEntry) : (s.recheck c es).mem = s.mem := by
  induction es generalizing s with
  | nil => rfl
  | cons e es ih =>
    unfold State.recheck; dsimp only; rw [ih]; repeat' split
    all_goals simp
@[simp] theorem State.turnAway_mem (s : State) (c : Nat) (es : List InboxEntry) : (s.turnAway c es).mem = s.mem := by
  induction es generalizing s with
  | nil => rfl
  | cons e es ih => simp [State.turnAway, ih]
@[simp] theorem State.answerUid_mem (s : State) (uid v : Nat) : (s.answerUid uid v).mem = s.mem := by
  unfold State.answerUid; repeat' split
  all_goals simp
@[simp] theorem State.applySlot_mem (s : State) (c name j state wver : Nat) (fin : Bool) :
    (s.applySlot c name j state wver fin).mem = s.mem := by
  unfold State.applySlot; dsimp only; repeat' split
  all_goals simp
@[simp] theorem State.answer_mem (s : State) (who : Option (Nat × Nat)) (v : Nat) : (s.answer who v).mem = s.mem := by
  unfold State.answer; repeat' split
  all_goals simp
@[simp] theorem State.claimNext_mem (s : State) (name : Nat) (cl : Claim) : (s.claimNext name cl).mem = s.mem := by
  unfold State.claimNext; dsimp only; split <;> simp
@[simp] theorem State.createReplica_mem (s : State) (name j : Nat) (asker : Option (Nat × Nat)) :
    (s.createReplica name j asker).mem = s.mem :=
  State.claimNext_mem _ _ _
@[simp] theorem State.startCopy_mem (s : State) (name j : Nat) : (s.startCopy name j).mem = s.mem := rfl
@[simp] theorem State.tellRetire_mem (s : State) (name j uid : Nat) : (s.tellRetire name j uid).mem = s.mem := by
  unfold State.tellRetire; split <;> simp
@[simp] theorem State.retireMessage_mem (s : State) (name j : Nat) : (s.retireMessage name j).mem = s.mem := by
  unfold State.retireMessage; split <;> simp
@[simp] theorem State.retireSlot_mem (s : State) (name j : Nat) : (s.retireSlot name j).mem = s.mem := by
  unfold State.retireSlot; dsimp only; split <;> simp
@[simp] theorem State.endElements_mem (s : State) (name : Nat) (e : DirEntry) (is : List Nat) : (s.endElements name e is).mem = s.mem := by
  induction is generalizing s with
  | nil => rfl
  | cons i is ih => simp [State.endElements, ih]
@[simp] theorem State.stepSlot_mem (s : State) (name j : Nat) (fin : Bool) : (s.stepSlot name j fin).mem = s.mem := by
  unfold State.stepSlot; dsimp only; repeat' split
  all_goals simp
@[simp] theorem State.stepEntry_mem (s : State) (name v : Nat) : (s.stepEntry name v).mem = s.mem := by
  unfold State.stepEntry
  exact (foldl_mem _ _ (fun u j => by simp) _).trans (by simp)
@[simp] theorem State.report_mem (s : State) (c : Nat) (l : List (Nat × Activation)) : (s.report c l).mem = s.mem := by
  induction l generalizing s with
  | nil => rfl
  | cons a l ih => unfold State.report; dsimp only; rw [ih]; split <;> simp
@[simp] theorem State.compareDepths_mem (s : State) : s.compareDepths.mem = s.mem := by
  obtain ⟨_, _, _, _, e⟩ := s.compareDepths_eq
  rw [e]
@[simp] theorem State.installDue_mem (s : State) (c : Nat) (l : List (Nat × Nat)) : (s.installDue c l).mem = s.mem := by
  induction l generalizing s with
  | nil => rfl
  | cons a l ih => unfold State.installDue; dsimp only; rw [ih]; split <;> simp

/-! ## Messages -/

@[simp] theorem State.fromFabric_mem (s : State) : s.fromFabric.mem = s.mem := by
  unfold State.fromFabric; dsimp only; split <;> simp
@[simp] theorem State.spawnAnswered_mem (s : State) (m : Msg) (ok : Bool) : (s.spawnAnswered m ok).mem = s.mem := by
  unfold State.spawnAnswered; dsimp only; repeat' split
  all_goals simp
theorem State.replyTaken_mem (s : State) (m : Msg) (back : Bool) : ∀ u ∈ s.replyTaken m back, u.mem = s.mem := by
  unfold State.replyTaken; split
  · exact State.consume_mem (by simp) m back
  · simp
@[simp] theorem State.settleContext_mem (s : State) (m : Msg) (t : Nat) : (s.settleContext m t).mem = s.mem := by
  unfold State.settleContext; split <;> simp
theorem State.contextTaken_mem (s : State) (m : Msg) (back : Bool) : ∀ u ∈ s.contextTaken m back, u.mem = s.mem := by
  unfold State.contextTaken
  exact State.consume_mem (by split <;> simp) m back
@[simp] theorem State.forwardMsgs_mem (s : State) (c t : Nat) (es : List InboxEntry) (k : Nat × Nat) :
    (s.forwardMsgs c t es k).mem = s.mem := by
  induction es generalizing s with
  | nil => rfl
  | cons e es ih => simp [State.forwardMsgs, ih]
theorem State.forwardResult_mem (s : State) (c f : Nat) : ∀ u ∈ s.forwardResult c f, u.mem = s.mem := by
  unfold State.forwardResult; dsimp only; split
  · exact State.deliverResult_mem (s.setCore c _) f _ _
  · simp
@[simp] theorem State.forwardResults_mem (s : State) (c : Nat) (fs : List Nat) : (s.forwardResults c fs).mem = s.mem := by
  induction fs generalizing s with
  | nil => rfl
  | cons f fs ih => exact (ih _).trans (getD_mem (State.forwardResult_mem s c f) rfl)
@[simp] theorem State.vacate_mem (s : State) (c nc nt os : Nat) : (s.vacate c nc nt os).mem = s.mem := by
  unfold State.vacate; dsimp only; split <;> simp
theorem State.ackTaken_mem (s : State) (m : Msg) (back : Bool) : ∀ u ∈ s.ackTaken m back, u.mem = s.mem := by
  unfold State.ackTaken; split
  · split
    · simp
    · exact State.consume_mem (by simp) m back
  · simp
@[simp] theorem State.messageBack_mem (s : State) (c vn : Nat) : (s.messageBack c vn).mem = s.mem := by
  unfold State.messageBack; dsimp only; split
  · rfl
  · split
    · split <;> rfl
    · refine getD_mem (fun u hu => ?_) rfl
      split at hu
      · exact (State.replyTaken_mem _ _ _ u hu).trans (State.setCore_mem _ _ _)
      · exact (State.ackTaken_mem _ _ _ u hu).trans (State.setCore_mem _ _ _)
      · exact (State.contextTaken_mem _ _ _ u hu).trans (State.setCore_mem _ _ _)
      · exact (State.deliver_mem _ _ _ _ u hu).trans (State.setCore_mem _ _ _)

/-! ## Collectives -/

@[simp] theorem State.contribute_mem (s : State) (n : Nat) (v : Word) (bar : Bool) :
    (s.contribute n v bar).mem = s.mem := by simp [State.contribute]
@[simp] theorem State.endRound_mem (s : State) (n : Nat) : (s.endRound n).mem = s.mem := rfl
@[simp] theorem State.roundAt_mem (s : State) (n : Nat) (v : Word) (c : Nat) : (s.roundAt n v c).mem = s.mem := by
  unfold State.roundAt; dsimp only; repeat' split
  all_goals simp

/-! ## Rings -/

@[simp] theorem State.setRing_mem (s : State) (h : Nat) (r : Ring) : (s.setRing h r).mem = s.mem := rfl

/-! ## VecOps -/

@[simp] theorem State.countSr_mem (s : State) (x : LVX) (ty n : Nat) : (s.countSr x ty n).mem = s.mem := by
  unfold State.countSr; split <;> simp
@[simp] theorem State.useFree_mem (s : State) (os : List VOp) (b n : Nat) : (s.useFree os b n).mem = s.mem := by
  unfold State.useFree; split <;> simp
/-- A vector instruction keeps memory when what it does once it is dispatched keeps it (R158, R162). -/
@[simp] theorem State.vec_mem {go : State → State} (hgo : ∀ u, (go u).mem = u.mem) (s : State) (i : Instr) (ops : List (VOp × Nat)) :
    (s.vec i ops go).mem = s.mem := by
  unfold State.vec; split <;> simp [hgo]
@[simp] theorem State.vput_mem (s : State) (d : VOp) (g : Nat) (fl : Flags) : (s.vput d g fl).mem = s.mem := rfl
@[simp] theorem State.laneOp_mem (s : State) (x : LVX) (d : VOp) (b : Nat) (f : Nat → Nat × Flags) :
    (s.laneOp x d b f).mem = s.mem := rfl

/-! ## Matrix -/

@[simp] theorem State.mpush_mem (s : State) (i : Instr) (ops : List Word) : (s.mpush i ops).mem = s.mem := by
  unfold State.mpush; dsimp only; repeat' split
  all_goals simp
@[simp] theorem State.mfault_mem (s : State) (c : Nat) (m : MCmd) (cls opnd ea : Nat) : (s.mfault c m cls opnd ea).mem = s.mem := by
  unfold State.mfault; split <;> simp
@[simp] theorem State.mstop_mem (s : State) (c : Nat) (m : MCmd) (opnd : Nat) (e : AccRes) : (s.mstop c m opnd e).mem = s.mem := by
  unfold State.mstop; split <;> simp
@[simp] theorem State.remoteResult_mem (s : State) (far : Option Nat) (k q status : Nat) : (s.remoteResult far k q status).mem = s.mem := by
  unfold State.remoteResult; split <;> simp
@[simp] theorem State.mreject_mem (s : State) (c : Nat) (m : MCmd) (cls opnd addr elem : Nat) :
    (s.mreject c m cls opnd addr elem).mem = s.mem := by
  unfold State.mreject; split <;> simp
@[simp] theorem State.startEpi_mem (s : State) (c : Nat) (m : MCmd) (e : Epi) (acc : Nat) : (s.startEpi c m e acc).mem = s.mem := by
  unfold State.startEpi; repeat' split
  all_goals simp
@[simp] theorem State.moving_mem (s : State) (c : Nat) (u : State) : (s.moving c u).mem = s.mem ∨ (s.moving c u).mem = u.mem := by
  unfold State.moving; split <;> simp
@[simp] theorem State.mremoteDone_mem (s : State) (m : MCmd) : (s.mremoteDone m).mem = s.mem := by
  unfold State.mremoteDone; split <;> simp
@[simp] theorem State.mfinish_mem (s : State) (m : MCmd) : (s.mfinish m).mem = s.mem := by
  unfold State.mfinish; split <;> simp

/-! ## Engines -/

@[simp] theorem State.push_mem (s : State) (op : Nat) (body : List Word) (d : R) : (s.push op body d).mem = s.mem := by
  unfold State.push; dsimp only; split <;> simp
@[simp] theorem State.setRunning_mem (s : State) (c f : Nat) (l : List ECmd) : (s.setRunning c f l).mem = s.mem := rfl
@[simp] theorem State.startCmd_mem (s : State) (c f : Nat) : (s.startCmd c f).mem = s.mem := by
  unfold State.startCmd; repeat' split
  all_goals simp
@[simp] theorem State.takeSlot_mem (s : State) (e : ECmd) (w : Nat) (full : Bool) : (s.takeSlot e w full).1.mem = s.mem := by
  unfold State.takeSlot; repeat' split
  all_goals simp
@[simp] theorem State.leaveSlot_mem (s : State) (e : ECmd) (w : Nat) (full : Bool) : (s.leaveSlot e w full).mem = s.mem := by
  unfold State.leaveSlot; repeat' split
  all_goals simp
@[simp] theorem State.passRow_mem (s : State) (e : ECmd) (w : Nat) (full : Bool) (out : Nat) : (s.passRow e w full out).1.mem = s.mem := by
  unfold State.passRow; split <;> simp
@[simp] theorem State.engineFault_mem (s : State) (c f : Nat) (e : ECmd) (cls opnd addr : Nat) :
    (s.engineFault c f e cls opnd addr).mem = s.mem := by
  unfold State.engineFault; dsimp only; split <;> simp
@[simp] theorem State.enterRemote_mem (s : State) (core c : Nat) (far : Option Nat) (e : ECmd) (i : Instr) :
    (s.enterRemote core c far e i).mem = s.mem := rfl
@[simp] theorem State.farCommand_mem (s : State) : s.farCommand.mem = s.mem := by
  unfold State.farCommand; dsimp only; repeat' split
  all_goals simp

/-! ## Fetch -/

@[simp] theorem State.faultAt_mem (s : State) (c t cls opnd addr aux : Nat) :
    (s.faultAt c t cls opnd addr aux).mem = s.mem := by simp [State.faultAt]
@[simp] theorem State.safeovd_mem (s : State) (c t : Nat) : (s.safeovd c t).mem = s.mem := by simp [State.safeovd]
@[simp] theorem State.fetchFails_mem (s : State) (c t : Nat) (f : Fetched) : (s.fetchFails c t f).mem = s.mem := by
  unfold State.fetchFails; dsimp only; repeat' split
  all_goals simp

/-! ## Lathe -/

@[simp] theorem State.landFor_mem (s : State) (c t : Nat) (ws : List Reg) : (s.landFor c t ws).mem = s.mem := rfl
@[simp] theorem State.latheDone_mem (s : State) (c : Nat) (l : Lathe) : (s.latheDone c l).mem = s.mem := by simp [State.latheDone]
@[simp] theorem State.captured_mem (s : State) (c : Nat) (l : Lathe) : (s.captured c l).mem = s.mem := by
  unfold State.captured; split <;> simp
@[simp] theorem State.latheop_mem (s : State) (c t : Nat) (l : Lathe) : (s.latheop c t l).mem = s.mem := by simp [State.latheop]

/-! ## Rind -/

@[simp] theorem State.addEnv_mem (s : State) (e q look : Nat) : (s.addEnv e q look).mem = s.mem := rfl
@[simp] theorem State.rindPush_mem (s : State) (i : Instr) (q : Nat) (srcs : List Nat) (ops : List Word) (img : List Byte) :
    (s.rindPush i q srcs ops img).mem = s.mem := rfl
@[simp] theorem State.rind_mem (s : State) (i : Instr) (d : Option Nat) (srcs : List Nat) (ops : List Word) (g : Option Nat) (look : Nat) :
    (s.rind i d srcs ops g look).mem = s.mem := by
  unfold State.rind; repeat' split
  all_goals simp
@[simp] theorem State.rindOut_mem (s : State) (c : Nat) (r : RCmd) (v : Option Word) : (s.rindOut c r v).mem = s.mem := by
  unfold State.rindOut; repeat' split
  all_goals simp
@[simp] theorem State.rindFail_mem (s : State) (c : Nat) (r : RCmd) (cls opnd : Nat) :
    (s.rindFail c r cls opnd).mem = s.mem := by simp [State.rindFail]
@[simp] theorem State.rindEnv_mem (s : State) (c : Nat) (r : RCmd) (e : Env) (fl : Flags) : (s.rindEnv c r e fl).mem = s.mem := rfl
@[simp] theorem State.rindSet_mem (s : State) (c : Nat) (r : RCmd) (q : Rd Env) : (s.rindSet c r q).mem = s.mem := by
  unfold State.rindSet; dsimp only; repeat' split
  all_goals simp
@[simp] theorem State.rindWord_mem (s : State) (c : Nat) (r : RCmd) (v : Nat) (fl : Flags) :
    (s.rindWord c r v fl).mem = s.mem := by simp [State.rindWord]

/-! ## Vec -/

@[simp] theorem State.doArith_mem (s : State) (i : Instr) (op : Nat) (ty : Fin 16) (d a b : VOp) (x : LVX) :
    (s.doArith i op ty d a b x).mem = s.mem :=
  State.vec_mem (fun _ => by simp) _ _ _
@[simp] theorem State.doFma_mem (s : State) (i : Instr) (ty : Fin 16) (d a b c : VOp) (x : LVX) (os : List (VOp × Nat)) :
    (s.doFma i ty d a b c x os).mem = s.mem :=
  State.vec_mem (fun _ => by simp) _ _ _
@[simp] theorem State.doMinmax_mem (s : State) (i : Instr) (least prop : Bool) (ty : Fin 16) (d a b : VOp) (x : LVX) :
    (s.doMinmax i least prop ty d a b x).mem = s.mem :=
  State.vec_mem (fun _ => by simp) _ _ _
@[simp] theorem State.doLogic_mem (s : State) (i : Instr) (op : Nat) (d a b : VOp) (x : LVX) : (s.doLogic i op d a b x).mem = s.mem :=
  State.vec_mem (fun _ => by simp) _ _ _
@[simp] theorem State.doShift_mem (s : State) (i : Instr) (op : Nat) (sz : Fin 4) (d a b : VOp) (x : LVX) :
    (s.doShift i op sz d a b x).mem = s.mem :=
  State.vec_mem (fun _ => by simp) _ _ _
@[simp] theorem State.doCvt_mem (s : State) (i : Instr) (ty dty : Fin 16) (d a : VOp) (x : LVX) : (s.doCvt i ty dty d a x).mem = s.mem :=
  State.vec_mem (fun _ => by simp) _ _ _
@[simp] theorem State.doSpecial_mem (s : State) (i : Instr) (fn : Nat) (ty : Fin 16) (look : Look) (d a : VOp) (x : LVX) :
    (s.doSpecial i fn ty look d a x).mem = s.mem :=
  State.vec_mem (fun _ => by simp) _ _ _
@[simp] theorem State.doPerm_mem (s : State) (i : Instr) (sz : Fin 4) (d a b : VOp) (x : LVX) : (s.doPerm i sz d a b x).mem = s.mem :=
  State.vec_mem (fun _ => by simp) _ _ _
@[simp] theorem State.doMove_mem (s : State) (i : Instr) (shuf : Bool) (sz : Fin 4) (d a : VOp) (k : Fin 128) (x : LVX) :
    (s.doMove i shuf sz d a k x).mem = s.mem :=
  State.vec_mem (fun _ => by simp) _ _ _
@[simp] theorem State.doRed_mem (s : State) (i : Instr) (ty : Fin 16) (op : Fin 8) (d a : VOp) (x : LVX) :
    (s.doRed i ty op d a x).mem = s.mem :=
  State.vec_mem (fun _ => by simp) _ _ _
@[simp] theorem State.doScan_mem (s : State) (i : Instr) (ty : Fin 16) (op : Fin 8) (ex : Bool) (d a : VOp) (x : LVX) :
    (s.doScan i ty op ex d a x).mem = s.mem :=
  State.vec_mem (fun _ => by simp) _ _ _
@[simp] theorem State.doRng_mem (s : State) (i : Instr) (ty : Fin 16) (d a b : VOp) (x : LVX) : (s.doRng i ty d a b x).mem = s.mem :=
  State.vec_mem (fun _ => by rfl) _ _ _
@[simp] theorem State.doQuant_mem (s : State) (i : Instr) (ty : Fin 16) (d a : VOp) (x : LVX) : (s.doQuant i ty d a x).mem = s.mem :=
  State.vec_mem (fun _ => by simp) _ _ _
@[simp] theorem State.doDeq_mem (s : State) (i : Instr) (ty : Fin 16) (d a : VOp) (x : LVX) : (s.doDeq i ty d a x).mem = s.mem :=
  State.vec_mem (fun _ => by simp) _ _ _
@[simp] theorem State.doCmul_mem (s : State) (i : Instr) (d a b : VOp) (x : LVX) : (s.doCmul i d a b x).mem = s.mem :=
  State.vec_mem (fun _ => by simp) _ _ _
@[simp] theorem State.doSel_mem (s : State) (i : Instr) (ty : Fin 16) (d a b : VOp) (pg : Fin 8) (pn : Bool) :
    (s.doSel i ty d a b pg pn).mem = s.mem :=
  State.vec_mem (fun _ => by simp) _ _ _
@[simp] theorem State.doVxall_mem (s : State) (i : Instr) (ty : Fin 16) (d a : VOp) : (s.doVxall i ty d a).mem = s.mem :=
  State.vec_mem (fun _ => by rfl) _ _ _
@[simp] theorem State.vxMiss_mem (s : State) (c : Nat) : (s.vxMiss c).mem = s.mem := by
  unfold State.vxMiss; repeat' split
  all_goals simp
@[simp] theorem State.vxPut_mem (s : State) (c j n : Nat) (vs : List VxCmd) : (s.vxPut c j n vs).mem = s.mem := by
  unfold State.vxPut; dsimp only; repeat' split
  all_goals simp

/-! ## Repeat -/

@[simp] theorem State.latheLook_mem (s : State) (c : Nat) (l : Lathe) (done : Bool) : (s.latheLook c l done).mem = s.mem := rfl
@[simp] theorem State.latheEnds_mem (s : State) (c : Nat) (l : Lathe) : (s.latheEnds c l).mem = s.mem := by
  unfold State.latheEnds; dsimp only; split <;> simp
@[simp] theorem State.latheNext_mem (s : State) (c : Nat) (l : Lathe) : (s.latheNext c l).mem = s.mem := by
  unfold State.latheNext; repeat' split
  all_goals simp
@[simp] theorem State.replaying_mem (s : State) (c : Nat) (e : RingEntry) : (s.replaying c e).mem = s.mem := rfl

/-! ## Tables -/

@[simp] theorem State.tlbInvalidate_mem (s : State) (scope : Nat) (p : TlbEntry → Bool) : (s.tlbInvalidate scope p).mem = s.mem := rfl
@[simp] theorem State.dirCreate_mem (s : State) (i : DirEntry) (d : Nat) : (s.dirCreate i d).mem = s.mem := by simp [State.dirCreate]
@[simp] theorem State.dirDelete_mem (s : State) (name : Nat) : (s.dirDelete name).mem = s.mem := by
  unfold State.dirDelete
  simp only [State.setHome_mem, State.tellChange_mem]
  refine (foldl_mem _ _ (fun u j => ?_) _).trans (foldl_mem _ _ (fun u cl => by simp) s)
  split <;> simp
@[simp] theorem State.dirPerform_mem (s : State) (op : Nat) (i : DirEntry) (d : Nat) : (s.dirPerform op i d).mem = s.mem := by
  unfold State.dirPerform; split <;> simp
@[simp] theorem State.allHubs_mem (s : State) (f : Hub → Hub) : (s.allHubs f).mem = s.mem :=
  foldl_mem _ _ (fun _ _ => by rfl) s

/-! ## Spindle -/

@[simp] theorem State.setMaps_mem (s : State) (hs : List Nat) (k : Nat) (f : SvMap → SvMap) : (s.setMaps hs k f).mem = s.mem :=
  foldl_mem _ _ (fun _ _ => by rfl) s
@[simp] theorem State.svSend_mem (s : State) (e : ECmd) : (s.svSend e).1.mem = s.mem := by
  unfold State.svSend; dsimp only; split
  · rfl
  · split
    · rfl
    · split
      all_goals have hu := mem_of_eq (State.lookup_mem s _ _ _ _) ‹_›
      · exact hu
      · repeat' split
        all_goals exact hu
theorem State.svRefuse_mem (s : State) (c : Nat) (e : ECmd) (rest : List ECmd) (status : Nat) :
    ∀ u ∈ s.svRefuse c e rest status, u.mem = s.mem :=
  State.deliverResult_mem _ _ _ _
@[simp] theorem State.svEnter_mem (s : State) (h : Nat) (m : SvCmd) : (s.svEnter h m).mem = s.mem := rfl
@[simp] theorem State.svAccept_mem (s : State) (c : Nat) : (s.svAccept c).mem = s.mem := by
  unfold State.svAccept
  split
  · rfl
  · rename_i e rest _
    have refused {u : State} (hu : u.mem = s.mem) (st : Nat) : ((u.svRefuse c e rest st).getD s).mem = s.mem :=
      getD_mem (fun v hv => (State.svRefuse_mem u c e rest st v hv).trans hu) rfl
    split
    · exact refused rfl _
    · split
      · rfl
      · split
        · exact refused rfl _
        · split
          all_goals have hu := mem_of_eq (State.svSend_mem s e) ‹_›
          · dsimp only; split <;> simp [hu]
          · rfl
          · exact refused hu _
          · dsimp only; split
            · exact refused hu _
            · simp [hu]
@[simp] theorem State.svFar_mem (s : State) : s.svFar.mem = s.mem := by
  unfold State.svFar
  dsimp only
  split
  · rfl
  · have hu := mem_of_eq (State.lookup_mem s _ _ _ _) ‹_›
    repeat' split
    all_goals simp [hu]
@[simp] theorem State.setSv_mem (s : State) (h k : Nat) (m : SvCmd) : (s.setSv h k m).mem = s.mem := rfl
@[simp] theorem State.svDone_mem (s : State) (h k : Nat) (m : SvCmd) (st : Nat) (b : List Word) : (s.svDone h k m st b).mem = s.mem := rfl
@[simp] theorem State.svOpen_mem (s : State) (h k : Nat) (m : SvCmd) (st : Nat) : (s.svOpen h k m st).mem = s.mem := rfl
@[simp] theorem State.svFail_mem (s : State) (h k : Nat) (m : SvCmd) (q : Nat) : (s.svFail h k m q).mem = s.mem := by
  unfold State.svFail; split <;> simp
@[simp] theorem State.svSum_mem (s : State) (h k : Nat) (m : SvCmd) : (s.svSum h k m).mem = s.mem := by
  unfold State.svSum; dsimp only; repeat' split
  all_goals simp
@[simp] theorem State.svHubError_mem (s : State) (q : Nat) : (s.svHubError q).mem = s.mem := by
  refine foldl_mem _ _ (fun u x => foldl_mem _ _ (fun v k => ?_) u) s
  split
  · split <;> simp
  · rfl

/-! ## Waits -/

@[simp] theorem State.finishAccess_mem (s : State) (c t : Nat) (a : Access) (r : AccRes) : (s.finishAccess c t a r).mem = s.mem := by
  unfold State.finishAccess; dsimp only; repeat' split
  all_goals simp
@[simp] theorem State.postAccess_mem (s : State) (c t : Nat) (a : Access) (cls ea : Nat) : (s.postAccess c t a cls ea).mem = s.mem := by
  unfold State.postAccess; dsimp only; split <;> simp
theorem State.goneLdx_mem (s : State) (c t : Nat) : ∀ u ∈ s.goneLdx c t, u.mem = s.mem := by
  unfold State.goneLdx; dsimp only; repeat' split
  all_goals simp

/-! ## Faults -/

@[simp] theorem State.answered_mem (s : State) (w : FaultWait) : (s.answered w).mem = s.mem := rfl
@[simp] theorem State.unblock_mem (s : State) (uid : Nat) : (s.unblock uid).mem = s.mem := by
  unfold State.unblock; dsimp only; repeat' split
  all_goals simp
@[simp] theorem State.skipGroup_mem (s : State) (uid pc : Nat) : (s.skipGroup uid pc).mem = s.mem := by
  unfold State.skipGroup; repeat' split
  · rfl
  · simp
  · exact foldl_mem _ _ (fun u m => by simp) s
@[simp] theorem State.resetSafe_mem (s : State) (uid : Nat) : (s.resetSafe uid).mem = s.mem := by
  unfold State.resetSafe; split <;> simp
@[simp] theorem State.containFault_mem (s : State) (w : FaultWait) : (s.containFault w).mem = s.mem := by simp [State.containFault]
@[simp] theorem State.replyGroup_mem (s : State) (w : FaultWait) (code : Nat) : (s.replyGroup w code).mem = s.mem := by
  unfold State.replyGroup; repeat' split
  all_goals simp
@[simp] theorem State.unhold_mem (s : State) (c q : Nat) : (s.unhold c q).mem = s.mem := rfl
@[simp] theorem State.skipHeld_mem (s : State) (c t : Nat) (a : Access) : (s.skipHeld c t a).mem = s.mem := by
  unfold State.skipHeld; split <;> simp
@[simp] theorem State.passUnit_mem (s : State) (e : ECmd) : (s.passUnit e).1.mem = s.mem := by
  unfold State.passUnit; dsimp only; repeat' split
  all_goals simp
theorem State.replyEngine_mem (s : State) (w : FaultWait) (f q code : Nat) : ∀ u ∈ s.replyEngine w f q code, u.mem = s.mem := by
  unfold State.replyEngine; dsimp only; repeat' split
  all_goals simp
@[simp] theorem State.passMatrix_mem (s : State) (c : Nat) (m : MCmd) : (s.passMatrix c m).1.mem = s.mem := by
  unfold State.passMatrix; dsimp only; repeat' split
  all_goals simp
@[simp] theorem State.abortMatrix_mem (s : State) (c : Nat) (m : MCmd) : (s.abortMatrix c m).mem = s.mem := by
  unfold State.abortMatrix; dsimp only; split <;> simp
@[simp] theorem State.replyMatrix_mem (s : State) (w : FaultWait) (code : Nat) : (s.replyMatrix w code).mem = s.mem := by
  unfold State.replyMatrix; repeat' split
  all_goals simp
@[simp] theorem State.replyHaltedSv_mem (s : State) (w : FaultWait) (h code : Nat) : (s.replyHaltedSv w h code).mem = s.mem := rfl
@[simp] theorem State.replySpindle_mem (s : State) (w : FaultWait) (h code : Nat) : (s.replySpindle w h code).mem = s.mem := by
  unfold State.replySpindle; repeat' split
  all_goals simp
@[simp] theorem State.replySched_mem (s : State) (w : FaultWait) (uid code : Nat) : (s.replySched w uid code).mem = s.mem := by
  unfold State.replySched; split <;> simp

/-! ## Loader -/

@[simp] theorem State.mwDone_mem (s : State) (status handle : Nat) : (s.mwDone status handle).mem = s.mem := rfl
@[simp] theorem State.mwGoes_mem (s : State) (b : BitVec 512) : (s.mwGoes b).mem = s.mem := rfl

/-! ## Halt -/

@[simp] theorem State.haltThread_mem (s : State) (c t : Nat) : (s.haltThread c t).mem = s.mem := by simp [State.haltThread]
@[simp] theorem State.repostLate_mem (s : State) (w : FaultWait) : (s.repostLate w).mem = s.mem := by simp [State.repostLate]
@[simp] theorem State.haltBack_mem (s : State) (h : HaltSave) : (s.haltBack h).mem = s.mem := by
  unfold State.haltBack
  refine (foldl_mem _ _ (fun u p => State.repostLate_mem u _) _).trans ?_
  simp only [State.setFifo_mem]
  iterate 5 refine (foldl_mem _ _ (fun _ _ => by rfl) _).trans ?_
  exact foldl_mem _ _ (fun _ _ => by rfl) s

/-! ## Launch -/

@[simp] theorem State.sampleDies_mem (s : State) (now last : Nat) : (s.sampleDies now last).mem = s.mem := by
  obtain ⟨d, e⟩ := s.sampleDies_eq now last
  rw [e]
@[simp] theorem State.resumeIn_mem (s : State) (q k : Nat) (a : Absent) (c t : Nat) : (s.resumeIn q k a c t).mem = s.mem := by
  unfold State.resumeIn; dsimp only; split <;> simp
@[simp] theorem State.unpark_mem (s : State) (q k : Nat) (p : Parked) : (s.unpark q k p).mem = s.mem := by
  unfold State.unpark; dsimp only; repeat' split
  · rfl
  · exact getD_mem (State.enter_mem _ _ _ _) rfl
  · exact getD_mem (State.enterResult_mem _ _ _ _ _ _) rfl
  all_goals simp

/-! ## Outside -/

@[simp] theorem State.peerNote_mem (s : State) (q pa : Nat) : (s.peerNote q pa).mem = s.mem := by
  unfold State.peerNote; split <;> simp

/-! ## Queues -/

@[simp] theorem State.returnCredit_mem (s : State) (uid oc : Nat) : (s.returnCredit uid oc).mem = s.mem := rfl
@[simp] theorem State.joinLast_mem (s : State) (k : Nat) (r : TaskRec) : (s.joinLast k r).mem = s.mem := by
  unfold State.joinLast; dsimp only; repeat' split
  all_goals simp
@[simp] theorem State.joinTask_mem (s : State) (k : Nat) (r : TaskRec) : (s.joinTask k r).mem = s.mem := by
  unfold State.joinTask; dsimp only; split <;> simp
@[simp] theorem State.postTasks_mem (s : State) (rs : List TaskRec) : (s.postTasks rs).mem = s.mem := by
  induction rs generalizing s with
  | nil => rfl
  | cons r rs ih => simp [State.postTasks, ih]

/-! ## Issue -/

@[simp] theorem State.begin_mem (s : State) (c t : Nat) (pc : Word) : (s.begin c t pc).mem = s.mem := rfl
@[simp] theorem State.notePartner_mem (u v : State) (c t : Nat) : (u.notePartner v c t).mem = v.mem := by
  unfold State.notePartner; split <;> simp
@[simp] theorem State.captureAt_mem (s : State) (c t : Nat) (pc : Word) (l : Lathe) (g : Group) :
    (s.captureAt c t pc l g).mem = s.mem := by simp [State.captureAt]
@[simp] theorem State.captureGroup_mem (s : State) (c t : Nat) (g : Group) (ms : List (Nat × Nat)) :
    (s.captureGroup c t g ms).mem = s.mem := by
  have dropped (u : State) (bad : List ((Nat × Nat) × Lathe)) (hu : u.mem = s.mem) :
      (bad.foldl (fun u p => u.latheop p.1.1 p.1.2 p.2) u).mem = s.mem :=
    (foldl_mem _ _ (fun u p => by simp) u).trans hu
  unfold State.captureGroup; dsimp only; split
  · exact foldl_mem _ _ (fun u m => by split <;> simp) s
  · split
    · exact dropped _ _ (foldl_mem _ _ (fun _ _ => by rfl) s)
    · exact dropped _ _ (foldl_mem _ _ (fun _ _ => by rfl) s)
@[simp] theorem State.armWait_mem (s : State) (c t : Nat) (g : Group) : (s.armWait c t g).mem = s.mem := by
  unfold State.armWait; dsimp only; repeat' split
  all_goals simp
@[simp] theorem State.gather_mem (s : State) (c t : Nat) : (s.gather c t).mem = s.mem := by
  unfold State.gather; dsimp only; split
  · rfl
  · exact foldl_mem _ _ (fun _ _ => by rfl) s
@[simp] theorem State.wakes_mem (s : State) (c t : Nat) : (s.wakes c t).mem = s.mem := by
  unfold State.wakes; split
  · exact foldl_mem _ _ (fun _ _ => by rfl) s
  · rfl
@[simp] theorem State.grow_mem (s u : State) (c t : Nat) (ts : List Nat) : (s.grow u c t ts).mem = u.mem := by
  unfold State.grow; split
  · rfl
  · exact foldl_mem _ _ (fun _ _ => by rfl) u

/-! ## Sched -/

@[simp] theorem State.passTo_mem (s : State) (t : Nat) : (s.passTo t).mem = s.mem := by
  unfold State.passTo; dsimp only; split <;> simp

/-! # What keeps the canonical form -/

/-- What an answer leaves is a memory in canonical form. -/
def AnswersWf (r : Res) : Prop := ∀ t, r = .next t → t.mem.wf = true
@[simp] theorem answersWf_next (t : State) : AnswersWf (.next t) ↔ t.mem.wf = true := by simp [AnswersWf]
@[simp] theorem answersWf_fault (e : Fault) : AnswersWf (.fault e) := fun _ ht => by cases ht
@[simp] theorem answersWf_refused (e : Refusal) : AnswersWf (.refused e) := fun _ ht => by cases ht
theorem AnswersWf.andThen {r : Res} {f : State → Res} (hr : AnswersWf r) (hf : ∀ t, t.mem.wf = true → AnswersWf (f t)) :
    AnswersWf (andThen r f) := by
  cases r with
  | next t => exact hf t ((answersWf_next t).1 hr)
  | fault e => exact answersWf_fault e
  | refused e => exact answersWf_refused e
/-- Of a result that is matched as a pair, the state. -/
theorem wf_of_eq {α : Type} {p : State × α} {t : State} {a : α} (hp : p.1.mem.wf = true) (e : p = (t, a)) : t.mem.wf = true := by
  rwa [e] at hp
theorem getD_wf {o : Option State} {s : State} (ho : ∀ u ∈ o, u.mem.wf = true) (hs : s.mem.wf = true) : (o.getD s).mem.wf = true := by
  cases o with
  | none => exact hs
  | some u => exact ho u rfl
/-- A fold of steps that keep the canonical form keeps it. -/
theorem foldl_wf {α : Type} (l : List α) {f : State → α → State} (hf : ∀ s x, s.mem.wf = true → (f s x).mem.wf = true) {s : State}
    (h : s.mem.wf = true) : (l.foldl f s).mem.wf = true :=
  List.foldlRecOn l f h (fun s hs x _ => hf s x hs)
theorem Memory.foldl_wf {α : Type} (l : List α) {f : Memory → α → Memory} (hf : ∀ m x, m.wf = true → (f m x).wf = true) {m : Memory}
    (h : m.wf = true) : Memory.wf (l.foldl f m) = true :=
  List.foldlRecOn l f h (fun m hm x _ => hf m x hm)

section
variable {s : State} (h : s.mem.wf = true)
include h
theorem State.thenGo_wf {t : State} {go : State → State} (hgo : ∀ u, (go u).mem = u.mem) (ht : t.mem.wf = true) :
    (s.thenGo t go).mem.wf = true := by
  unfold State.thenGo; split <;> simp [hgo, h, ht]
theorem State.orWait_wf {o : Option State} (ho : ∀ u ∈ o, u.mem = s.mem) (m : Msg) : (s.orWait m o).mem.wf = true := by
  unfold State.orWait; split
  · rw [ho _ rfl]; exact h
  · split <;> simp [h]
end

theorem writePool_wf (m : Memory) (a n : Nat) (ls : List (Nat × Nat × BitVec 512)) (h : m.wf = true) : (writePool m a n ls).wf = true :=
  Memory.foldl_wf _ (fun _ _ hm => Memory.setNat_wf _ _ _ _ hm) (Memory.foldl_wf _ (fun _ _ hm =>
    Memory.setNat_wf _ _ _ _ (Memory.setNat_wf _ _ _ _ (Memory.setBytes_wf _ _ _ hm))) h)
theorem State.checkpointMem_wf {s : State} (h : s.mem.wf = true) (b : Nat) : (s.checkpointMem b).wf = true := by
  unfold State.checkpointMem; dsimp only
  refine Memory.foldl_wf _ (fun _ _ hm => Memory.setNat_wf _ _ _ _ hm) ?_
  refine Memory.foldl_wf _ (fun _ _ hm => writePool_wf _ _ _ _ hm) (Memory.foldl_wf _ (fun _ _ hm => writePool_wf _ _ _ _ hm) ?_)
  refine Memory.foldl_wf _ (fun m x hm => ?_) (Memory.copy_wf _ _ _ _ (Memory.foldl_wf _ (fun _ _ hm => Memory.copy_wf _ _ _ _ hm)
    (Memory.clear_wf _ _ _ h)))
  split
  · exact Memory.setNat_wf _ _ _ _ hm
  · exact hm
theorem tablesMem_wf (m : Memory) (fs : List Nat) (pages : FMap Nat) (h : m.wf = true) : (tablesMem m fs pages).wf = true := by
  unfold tablesMem; dsimp only
  refine Memory.foldl_wf _ (fun _ _ hm => Memory.setNat_wf _ _ _ _ hm) (Memory.foldl_wf _ (fun _ _ hm => Memory.setNat_wf _ _ _ _ hm) ?_)
  exact Memory.foldl_wf _ (fun _ _ hm => Memory.setNat_wf _ _ _ _ hm) (Memory.foldl_wf _ (fun _ _ hm => Memory.clear_wf _ _ _ hm) h)
theorem pagesMem_wf (m : Memory) (fs ps : List Nat) (a : Nat) (b : List Byte) (h : m.wf = true) : (pagesMem m fs ps a b).wf = true :=
  Memory.foldl_wf _ (fun _ _ hm => Memory.setBytes_wf _ _ _ hm) h

/-- What the two cases of a structural recursion on a number keep, every run of it keeps. -/
theorem brecOn_induction {α : Type} (F : (n : Nat) → Nat.below (motive := fun _ => α) n → α) (P : α → Prop) (h0 : ∀ b, P (F 0 b))
    (hs : ∀ n b, P b.1 → P (F (n + 1) b)) (n : Nat) : P (Nat.brecOn n F) := by
  induction n with
  | zero => exact h0 _
  | succ n ih => exact hs n _ ih

/-! # Each operation, from a state whose memory is in canonical form -/

section
variable {s : State} (h : s.mem.wf = true)
include h

/-! ## Translate -/

@[simp] theorem State.copyVerLines_wf (dst src : Nat) (ls : List Nat) : (s.copyVerLines dst src ls).mem.wf = true := by
  induction ls generalizing s with
  | nil => exact h
  | cons i ls ih => exact ih (Memory.copy_wf _ _ _ _ h)
@[simp] theorem State.copyPiece_wf (dst src : Nat) : (s.copyPiece dst src).mem.wf = true := Memory.copy_wf _ _ _ _ h
@[simp] theorem State.clearPiece_wf (pa : Nat) : (s.clearPiece pa).mem.wf = true := Memory.clear_wf _ _ _ h
@[simp] theorem State.dropPiece_wf (t : PcTag) : (s.dropPiece t).mem.wf = true := by
  unfold State.dropPiece; repeat' split
  all_goals simp [h]
/-- The intermediate states are set apart one by one: what is left of each is that its memory is canonical. -/
@[simp] theorem State.fillPiece_wf (g p r hub f : Nat) (lease : Bool) : (s.fillPiece g p r hub f lease).mem.wf = true := by
  unfold State.fillPiece
  extract_lets +onlyGivenNames pa s1 x ways victim held s2 s3 add
  have h1 : s1.mem.wf = true := by
    unfold s1; split
    · split
      · exact h
      · exact State.dropPiece_wf (by exact h) _
    · exact h
  have h2 : s2.mem.wf = true := by simp [s2, h1]
  have h3 : s3.mem.wf = true := by
    clear_value s2 victim
    unfold s3; split
    · exact State.dropPiece_wf h2 _
    · exact h2
  have added (u : State) (t : PcTag) (hu : u.mem.wf = true) : (add u t).mem.wf = true := by simp [add, hu]
  clear_value s1 s3 held ways add pa
  split
  · exact h1
  · split
    · exact added _ _ h3
    · have h5 := fun t => added (s3.unhide pa (2 ^ 16)) t (by simp [h3])
      dsimp only; split
      · split
        · exact State.copyPiece_wf (h5 _) _ _
        · exact State.copyVerLines_wf (h5 _) _ _ _
      · exact Memory.copy_wf _ _ _ _ (h5 _)
@[simp] theorem State.cachePiece_wf (c ea pa mattr : Nat) (v : Via) : (s.cachePiece c ea pa mattr v).mem.wf = true := by
  unfold State.cachePiece; dsimp only; repeat' split
  all_goals simp [h]
@[simp] theorem State.peerPlace_wf (c ea pa mattr : Nat) (v : Via) : (s.peerPlace c ea pa mattr v).1.mem.wf = true := by
  simp [State.peerPlace, h]
@[simp] theorem State.place_wf (c hd ea : Nat) (n : Need) (v : Via) : (s.place c hd ea n v).1.mem.wf = true := by
  have hl : (s.lookup c hd ea (n == .fetch)).1.mem.wf = true := by simp [h]
  unfold State.place
  split
  · exact h
  · split
    · exact wf_of_eq hl ‹_›
    · have hu := wf_of_eq hl ‹_›
      dsimp only; repeat' split
      all_goals simp [hu]
@[simp] theorem State.put_wf (wpas : List Nat) (off : Nat) (data : List Byte) : (s.put wpas off data).mem.wf = true := by
  induction wpas generalizing s with
  | nil => exact h
  | cons pa wpas ih => exact ih (by simp [Memory.setBytes_wf, h])

/-! ## Access -/

@[simp] theorem State.readPage_wf (w : Who) (ea n : Nat) : (s.readPage w ea n).1.mem.wf = true := by
  unfold State.readPage; split
  · exact h
  · split
    all_goals simp [wf_of_eq (State.place_wf h _ _ _ _ _) ‹_›]
@[simp] theorem State.readAt_wf (w : Who) (ea n : Nat) : (s.readAt w ea n).1.mem.wf = true := by
  unfold State.readAt; dsimp only; split
  · simp [h]
  · split
    · exact wf_of_eq (State.readPage_wf h _ _ _) ‹_›
    · have hu := wf_of_eq (State.readPage_wf h _ _ _) ‹_›
      split
      all_goals exact wf_of_eq (State.readPage_wf hu _ _ _) ‹_›
@[simp] theorem State.writePage_wf (w : Who) (ea : Nat) (data : List Byte) : (s.writePage w ea data).1.mem.wf = true := by
  unfold State.writePage; split
  · exact h
  · split
    all_goals simp [wf_of_eq (State.place_wf h _ _ _ _ _) ‹_›]
@[simp] theorem State.writeAt_wf (w : Who) (ea : Nat) (data : List Byte) : (s.writeAt w ea data).1.mem.wf = true := by
  unfold State.writeAt; dsimp only; split
  · simp [h]
  · split
    · exact wf_of_eq (State.writePage_wf h _ _ _) ‹_›
    · have hu := wf_of_eq (State.writePage_wf h _ _ _) ‹_›
      split
      · exact wf_of_eq (State.writePage_wf hu _ _ _) ‹_›
      · exact h
@[simp] theorem State.readRun_wf (w : Who) (ea left u n : Nat) : (s.readRun w ea left u n).1.mem.wf = true := by
  induction n generalizing s ea left with
  | zero => exact h
  | succ n ih =>
    unfold State.readRun; split
    · exact h
    · split
      · exact wf_of_eq (State.readAt_wf h _ _ _) ‹_›
      · have hu := wf_of_eq (State.readAt_wf h _ _ _) ‹_›
        split
        all_goals exact wf_of_eq (ih hu _ _) ‹_›
@[simp] theorem State.writeRun_wf (w : Who) (ea : Nat) (data : List Byte) (u n : Nat) : (s.writeRun w ea data u n).1.mem.wf = true := by
  induction n generalizing s ea data with
  | zero => exact h
  | succ n ih =>
    unfold State.writeRun; split
    · exact h
    · split
      · exact wf_of_eq (State.writeAt_wf h _ _ _) ‹_›
      · exact ih (wf_of_eq (State.writeAt_wf h _ _ _) ‹_›) _ _
@[simp] theorem State.loadWords_wf (w : Who) (ea sz k : Nat) : (s.loadWords w ea sz k).1.mem.wf = true := by
  induction k generalizing s ea with
  | zero => exact h
  | succ k ih =>
    unfold State.loadWords; split
    · exact wf_of_eq (State.readAt_wf h _ _ _) ‹_›
    · have hu := wf_of_eq (State.readAt_wf h _ _ _) ‹_›
      split
      all_goals exact wf_of_eq (ih hu _) ‹_›
@[simp] theorem State.storeWords_wf (w : Who) (ea sz : Nat) (vs : List Word) : (s.storeWords w ea sz vs).1.mem.wf = true := by
  induction vs generalizing s ea with
  | nil => exact h
  | cons v vs ih =>
    unfold State.storeWords; split
    · exact wf_of_eq (State.writeAt_wf h _ _ _) ‹_›
    · exact ih (wf_of_eq (State.writeAt_wf h _ _ _) ‹_›) _
@[simp] theorem State.atomicAt_wf (w : Who) (op ea : Nat) (b b2 : Word) : (s.atomicAt w op ea b b2).1.mem.wf = true := by
  unfold State.atomicAt; split
  all_goals have hu := wf_of_eq (State.place_wf h _ _ _ _ _) ‹_›
  · exact hu
  · dsimp only; split <;> simp [hu]
@[simp] theorem State.ldxAt_wf (w : Who) (ea v k : Nat) : (s.ldxAt w ea v k).1.mem.wf = true := by
  unfold State.ldxAt; split
  all_goals have hu := wf_of_eq (State.place_wf h _ _ _ _ _) ‹_›
  · exact hu
  · repeat' split
    all_goals simp [hu]
@[simp] theorem State.stxAt_wf (w : Who) (ea v : Nat) (x : BitVec 512) (go : Bool) : (s.stxAt w ea v x go).1.mem.wf = true := by
  unfold State.stxAt; split
  all_goals have hu := wf_of_eq (State.place_wf h _ _ _ _ _) ‹_›
  · exact hu
  · dsimp only; repeat' split
    all_goals simp [hu]
@[simp] theorem State.vrclAt_wf (w : Who) (ea v n : Nat) : (s.vrclAt w ea v n).1.mem.wf = true := by
  induction n generalizing s ea with
  | zero => exact h
  | succ n ih =>
    have hp : (if 2 ^ 52 ≤ ea then (s, .error cXLATE) else s.place w.core w.cont ea .store .owner).1.mem.wf = true := by
      split <;> simp [h]
    unfold State.vrclAt; split
    all_goals have hu := wf_of_eq hp ‹_›
    · exact hu
    · exact ih (by split <;> simp [hu]) _
@[simp] theorem State.releaseStall_wf (y : Nat × Nat × Nat) : (s.releaseStall y).mem.wf = true := by
  unfold State.releaseStall; split
  · exact h
  · split
    · exact h
    · dsimp only; split
      · split
        all_goals simp [wf_of_eq (State.stxAt_wf h _ _ _ _ _) ‹_›]
      · exact h
@[simp] theorem State.releaseStalls_wf (l : List (Nat × Nat × Nat)) : (s.releaseStalls l).mem.wf = true := by
  induction l generalizing s with
  | nil => exact h
  | cons y l ih => exact ih (State.releaseStall_wf h y)
@[simp] theorem State.vqryAt_wf (w : Who) (ea : Nat) : (s.vqryAt w ea).1.mem.wf = true := by
  unfold State.vqryAt; split
  all_goals have hu := wf_of_eq (State.place_wf h _ _ _ _ _) ‹_›
  · exact hu
  · split <;> exact hu
@[simp] theorem State.readUnits_wf (w : Who) (r : Shape) (p : Nat) (ls : List Nat) : (s.readUnits w r p ls).1.mem.wf = true := by
  induction ls generalizing s with
  | nil => exact h
  | cons l ls ih =>
    unfold State.readUnits; split
    · exact wf_of_eq (State.readAt_wf h _ _ _) ‹_›
    · have hu := wf_of_eq (State.readAt_wf h _ _ _) ‹_›
      split
      all_goals exact wf_of_eq (ih hu) ‹_›
@[simp] theorem State.writeUnits_wf (w : Who) (r : Shape) (p g : Nat) (ls : List Nat) : (s.writeUnits w r p g ls).1.mem.wf = true := by
  induction ls generalizing s with
  | nil => exact h
  | cons l ls ih =>
    unfold State.writeUnits; split
    · exact wf_of_eq (State.writeAt_wf h _ _ _) ‹_›
    · exact ih (wf_of_eq (State.writeAt_wf h _ _ _) ‹_›)
@[simp] theorem State.shapeAt_wf (w : Who) (ra p wd : Nat) : (s.shapeAt w ra p wd).1.mem.wf = true := by
  unfold State.shapeAt; split
  · exact h
  · split
    all_goals have hu := wf_of_eq (State.readAt_wf h _ _ _) ‹_›
    · exact hu
    · split <;> exact hu
@[simp] theorem State.tryAccess_wf (w : Who) (a : Access) : (s.tryAccess w a).1.mem.wf = true := by
  cases a <;> simp only [State.tryAccess]
  case load => split <;> exact wf_of_eq (State.loadWords_wf h _ _ _ _) ‹_›
  case store => simp [h]
  case atomic => simp [h]
  case ldx => simp [h]
  case stx => simp [h]
  case vrcl => simp [h]
  case vqry => simp [h]
  case ldv =>
    split
    all_goals have hu := wf_of_eq (State.shapeAt_wf h _ _ _ _) ‹_›
    · exact hu
    · split <;> exact wf_of_eq (State.readUnits_wf hu _ _ _ _) ‹_›
  case stv =>
    split
    all_goals have hu := wf_of_eq (State.shapeAt_wf h _ _ _ _) ‹_›
    · exact hu
    · split <;> exact wf_of_eq (State.writeUnits_wf hu _ _ _ _ _) ‹_›
  case eld =>
    split
    all_goals have hu := wf_of_eq (State.readAt_wf h _ _ _) ‹_›
    · exact hu
    · split
      · exact hu
      · split <;> exact wf_of_eq (State.readRun_wf hu _ _ _ _ _) ‹_›
  case payload => split <;> exact wf_of_eq (State.readRun_wf h _ _ _ _ _) ‹_›
  case est => split <;> exact wf_of_eq (State.writeRun_wf h _ _ _ _ _) ‹_›
  case bytes => split <;> exact wf_of_eq (State.writeRun_wf h _ _ _ _ _) ‹_›
  case again => split <;> exact wf_of_eq (State.readAt_wf h _ _ _) ‹_›
@[simp] theorem State.tryPart_wf (w : Who) (a : Access) (p : Part) : (s.tryPart w a p).1.mem.wf = true := by
  cases a <;> simp only [State.tryPart]
  case store | stv =>
    split
    · exact wf_of_eq (State.writeAt_wf h _ _ _) ‹_›
    · exact h
  case atomic =>
    split
    · exact wf_of_eq (State.atomicAt_wf h _ _ _ _ _) ‹_›
    · exact h
  case vqry =>
    split
    · exact wf_of_eq (State.vqryAt_wf h _ _) ‹_›
    · exact h
  all_goals
    split
    · exact wf_of_eq (State.readAt_wf h _ _ _) ‹_›
    · exact h

/-! ## Ops -/

@[simp] theorem State.setVaultWord_wf (a : Nat) (v : Word) : (s.setVaultWord a v).mem.wf = true := Memory.setNat_wf _ _ _ _ h
@[simp] theorem State.trapEnter_wf (cause code : Nat) (ret : Word) : (s.trapEnter cause code ret).mem.wf = true := by
  unfold State.trapEnter; dsimp only; repeat' split
  all_goals simp [h]
@[simp] theorem State.sqfull_wf (vn : Nat) : (s.sqfull vn).mem.wf = true := by simp [State.sqfull, h]
@[simp] theorem State.trapReturn_wf : s.trapReturn.mem.wf = true := by
  unfold State.trapReturn; dsimp only; repeat' split
  all_goals simp [h]
@[simp] theorem State.access_wf (a : Access) (r rel : Bool) : (s.access a r rel).mem.wf = true := by
  rcases State.access_mem s a r rel with e | e <;> simp [e, h]
@[simp] theorem State.accessStore_wf (a : Access) (rel : Bool) : (s.accessStore a rel).mem.wf = true := by
  unfold State.accessStore; dsimp only; repeat' split
  all_goals simp [h]
@[simp] theorem State.image_wf (ea n : Nat) : (s.image ea n).1.mem.wf = true := by
  rcases State.image_mem s ea n with e | e <;> simp [e, h]

/-! ## Alu -/

@[simp] theorem execNopC_wf : AnswersWf (execNopC s) := by simp [execNopC, h]
@[simp] theorem execNopA_wf : AnswersWf (execNopA s) := by simp [execNopA, h]
@[simp] theorem execAdd_wf (d a b : R) : AnswersWf (execAdd d a b s) := by simp [execAdd, h]
@[simp] theorem execSub_wf (d a b : R) : AnswersWf (execSub d a b s) := by simp [execSub, h]
@[simp] theorem execAnd_wf (d a b : R) : AnswersWf (execAnd d a b s) := by simp [execAnd, h]
@[simp] theorem execOr_wf (d a b : R) : AnswersWf (execOr d a b s) := by simp [execOr, h]
@[simp] theorem execXor_wf (d a b : R) : AnswersWf (execXor d a b s) := by simp [execXor, h]
@[simp] theorem execShl_wf (d a b : R) : AnswersWf (execShl d a b s) := by simp [execShl, h]
@[simp] theorem execShr_wf (d a b : R) : AnswersWf (execShr d a b s) := by simp [execShr, h]
@[simp] theorem execSra_wf (d a b : R) : AnswersWf (execSra d a b s) := by simp [execSra, h]
@[simp] theorem execShli_wf (d a : R) (sh : Fin 64) : AnswersWf (execShli d a sh s) := by simp [execShli, h]
@[simp] theorem execShri_wf (d a : R) (sh : Fin 64) : AnswersWf (execShri d a sh s) := by simp [execShri, h]
@[simp] theorem execSrai_wf (d a : R) (sh : Fin 64) : AnswersWf (execSrai d a sh s) := by simp [execSrai, h]
@[simp] theorem execSlt_wf (d a b : R) : AnswersWf (execSlt d a b s) := by simp [execSlt, h]
@[simp] theorem execSltu_wf (d a b : R) : AnswersWf (execSltu d a b s) := by simp [execSltu, h]
@[simp] theorem execSeq_wf (d a b : R) : AnswersWf (execSeq d a b s) := by simp [execSeq, h]
@[simp] theorem execMin_wf (d a b : R) : AnswersWf (execMin d a b s) := by simp [execMin, h]
@[simp] theorem execMinu_wf (d a b : R) : AnswersWf (execMinu d a b s) := by simp [execMinu, h]
@[simp] theorem execMax_wf (d a b : R) : AnswersWf (execMax d a b s) := by simp [execMax, h]
@[simp] theorem execMaxu_wf (d a b : R) : AnswersWf (execMaxu d a b s) := by simp [execMaxu, h]
@[simp] theorem execMul_wf (d a b : R) : AnswersWf (execMul d a b s) := by simp [execMul, h]
@[simp] theorem execMulh_wf (d a b : R) : AnswersWf (execMulh d a b s) := by simp [execMulh, h]
@[simp] theorem execMulhu_wf (d a b : R) : AnswersWf (execMulhu d a b s) := by simp [execMulhu, h]
@[simp] theorem execClz_wf (d a : R) : AnswersWf (execClz d a s) := by simp [execClz, h]
@[simp] theorem execPopc_wf (d a : R) : AnswersWf (execPopc d a s) := by simp [execPopc, h]
@[simp] theorem execBext_wf (d a b : R) : AnswersWf (execBext d a b s) := by simp [execBext, h]
@[simp] theorem execBdep_wf (d a b : R) : AnswersWf (execBdep d a b s) := by simp [execBdep, h]
@[simp] theorem execSel_wf (d a b : R) : AnswersWf (execSel d a b s) := by simp [execSel, h]
@[simp] theorem execLea_wf (k : Fin 4) (d a b : R) : AnswersWf (execLea k d a b s) := by simp [execLea, h]
@[simp] theorem execAddsat_wf (lw : Fin 4) (sg : Bool) (d a b : R) : AnswersWf (execAddsat lw sg d a b s) := by simp [execAddsat, h]
@[simp] theorem execSubsat_wf (lw : Fin 4) (sg : Bool) (d a b : R) : AnswersWf (execSubsat lw sg d a b s) := by simp [execSubsat, h]
@[simp] theorem execAddi_wf (d a : R) (imm : BitVec 13) : AnswersWf (execAddi d a imm s) := by simp [execAddi, h]
@[simp] theorem execAndi_wf (d a : R) (imm : BitVec 13) : AnswersWf (execAndi d a imm s) := by simp [execAndi, h]
@[simp] theorem execOri_wf (d a : R) (imm : BitVec 13) : AnswersWf (execOri d a imm s) := by simp [execOri, h]
@[simp] theorem execXori_wf (d a : R) (imm : BitVec 13) : AnswersWf (execXori d a imm s) := by simp [execXori, h]
@[simp] theorem execSlti_wf (d a : R) (imm : BitVec 13) : AnswersWf (execSlti d a imm s) := by simp [execSlti, h]
@[simp] theorem execMovi_wf (d : R) (imm : BitVec 32) : AnswersWf (execMovi d imm s) := by simp [execMovi, h]
@[simp] theorem execMovhi_wf (d : R) (imm : BitVec 32) : AnswersWf (execMovhi d imm s) := by simp [execMovhi, h]
@[simp] theorem execAddl_wf (d a : R) (imm : BitVec 32) : AnswersWf (execAddl d a imm s) := by simp [execAddl, h]
@[simp] theorem execAndl_wf (d a : R) (imm : BitVec 32) : AnswersWf (execAndl d a imm s) := by simp [execAndl, h]
@[simp] theorem execOrl_wf (d a : R) (imm : BitVec 32) : AnswersWf (execOrl d a imm s) := by simp [execOrl, h]
@[simp] theorem execXorl_wf (d a : R) (imm : BitVec 32) : AnswersWf (execXorl d a imm s) := by simp [execXorl, h]
@[simp] theorem execDiv_wf (d a b : R) (look : Look) : AnswersWf (execDiv d a b look s) := by simp [execDiv, h]
@[simp] theorem execDivu_wf (d a b : R) (look : Look) : AnswersWf (execDivu d a b look s) := by simp [execDivu, h]
@[simp] theorem execRem_wf (d a b : R) (look : Look) : AnswersWf (execRem d a b look s) := by simp [execRem, h]
@[simp] theorem execRemu_wf (d a b : R) (look : Look) : AnswersWf (execRemu d a b look s) := by simp [execRemu, h]

/-! ## Branch -/

@[simp] theorem execBr_wf (disp : BitVec 19) : AnswersWf (execBr disp s) := by simp [execBr, h]
@[simp] theorem execBz_wf (a : R) (disp : BitVec 19) : AnswersWf (execBz a disp s) := by
  unfold execBz; split <;> simp [h]
@[simp] theorem execBnz_wf (a : R) (disp : BitVec 19) : AnswersWf (execBnz a disp s) := by
  unfold execBnz; split <;> simp [h]
@[simp] theorem execBrdec_wf (a : R) (disp : BitVec 19) : AnswersWf (execBrdec a disp s) := by
  unfold execBrdec; dsimp only; split
  · simpa using State.thenGo_wf h (fun u => by simp) (by simp [h])
  · simp [h]
@[simp] theorem execCall_wf (disp : BitVec 19) : AnswersWf (execCall disp s) := by
  unfold execCall; split
  · simp [h]
  · simpa using State.thenGo_wf h (fun u => by simp) (by simp [h])
@[simp] theorem execJr_wf (d a : R) : AnswersWf (execJr d a s) := by
  unfold execJr; split
  · simp [h]
  · simpa using State.thenGo_wf h (fun u => by simp) (by simp [h])
@[simp] theorem execRet_wf : AnswersWf (execRet s) := by
  unfold execRet; split <;> simp [h]
@[simp] theorem execJmp_wf (disp : BitVec 32) : AnswersWf (execJmp disp s) := by
  unfold execJmp; repeat' split
  all_goals simp [h]
@[simp] theorem execCallLong_wf (disp : BitVec 32) : AnswersWf (execCallLong disp s) := by
  unfold execCallLong; split
  · simp [h]
  · simpa using State.thenGo_wf h (fun u => by simp) (by simp [h])

/-! ## LoadStore -/

/-- A load that migrates its thread touches no memory (R21, R356). -/
@[simp] theorem State.orMigrate_wf {go : State} (hgo : go.mem.wf = true) (ea : Nat) : (s.orMigrate ea go).mem.wf = true := by
  unfold State.orMigrate; dsimp only; repeat' split
  all_goals simp [h, hgo]
@[simp] theorem State.doLoad_wf (t : GOp) (ea : Word) (sz look : Nat) (relaxed : Bool) : (s.doLoad t ea sz look relaxed).mem.wf = true := by
  unfold State.doLoad; repeat' split
  all_goals simp [h]
@[simp] theorem State.doStore_wf (t : GOp) (ea : Word) (sz : Nat) (rel : Bool) : (s.doStore t ea sz rel).mem.wf = true := by
  unfold State.doStore; repeat' split
  all_goals simp [h]
@[simp] theorem execLd_wf (t : GOp) (base : R) (look : Look) (sz : Fin 8) (off : Fin 64) : AnswersWf (execLd t base look sz off s) := by
  simp [execLd, h]
@[simp] theorem execLdAcq_wf (t : GOp) (base : R) (look : Look) (sz : Fin 8) (off : Fin 64) :
    AnswersWf (execLdAcq t base look sz off s) := by simp [execLdAcq, h]
@[simp] theorem execSt_wf (t : GOp) (base : R) (sz : Fin 8) (off : Fin 64) : AnswersWf (execSt t base sz off s) := by simp [execSt, h]
@[simp] theorem execStRel_wf (t : GOp) (base : R) (sz : Fin 8) (off : Fin 64) : AnswersWf (execStRel t base sz off s) := by
  simp [execStRel, h]
@[simp] theorem execLdLong_wf (t : GOp) (base : R) (look : Look) (sz : Fin 8) (acq : Bool) (off : BitVec 32) :
    AnswersWf (execLdLong t base look sz acq off s) := by simp [execLdLong, h]
@[simp] theorem execStLong_wf (t : GOp) (base : R) (sz : Fin 8) (rel : Bool) (off : BitVec 32) :
    AnswersWf (execStLong t base sz rel off s) := by simp [execStLong, h]
@[simp] theorem execLdx_wf (d : GOp) (a b : R) (look : Look) : AnswersWf (execLdx d a b look s) := by
  unfold execLdx; dsimp only; repeat' split
  all_goals simp [h]
@[simp] theorem execStx_wf (d : GOct) (a b : R) : AnswersWf (execStx d a b s) := by
  unfold execStx; dsimp only; repeat' split
  all_goals simp [h]
@[simp] theorem execVrcl_wf (a b : R) : AnswersWf (execVrcl a b s) := by
  unfold execVrcl; dsimp only; repeat' split
  all_goals simp [h]
@[simp] theorem execVqry_wf (d a : R) (look : Look) : AnswersWf (execVqry d a look s) := by
  unfold execVqry; dsimp only; split <;> simp [h]
@[simp] theorem State.doAtomic_wf (op : Nat) (d a b : R) (look : Look) : (s.doAtomic op d a b look).mem.wf = true := by
  unfold State.doAtomic; dsimp only; repeat' split
  all_goals simp [h]
@[simp] theorem execAadd_wf (d a b : R) (look : Look) : AnswersWf (execAadd d a b look s) := by simp [execAadd, h]
@[simp] theorem execAfadd_wf (d a b : R) (look : Look) : AnswersWf (execAfadd d a b look s) := by simp [execAfadd, h]
@[simp] theorem execAmin_wf (d a b : R) (look : Look) : AnswersWf (execAmin d a b look s) := by simp [execAmin, h]
@[simp] theorem execAmax_wf (d a b : R) (look : Look) : AnswersWf (execAmax d a b look s) := by simp [execAmax, h]
@[simp] theorem execAand_wf (d a b : R) (look : Look) : AnswersWf (execAand d a b look s) := by simp [execAand, h]
@[simp] theorem execAor_wf (d a b : R) (look : Look) : AnswersWf (execAor d a b look s) := by simp [execAor, h]
@[simp] theorem execAxor_wf (d a b : R) (look : Look) : AnswersWf (execAxor d a b look s) := by simp [execAxor, h]
@[simp] theorem execAxch_wf (d a b : R) (look : Look) : AnswersWf (execAxch d a b look s) := by simp [execAxch, h]
@[simp] theorem execAcas_wf (d : GPair) (a : R) (look : Look) : AnswersWf (execAcas d a look s) := by
  unfold execAcas; dsimp only; repeat' split
  all_goals simp [h]
@[simp] theorem State.doVec_wf (i : Instr) (v : VOp) (p : GPair) (look : Nat) (load adv : Bool) :
    (s.doVec i v p look load adv).mem.wf = true := by
  unfold State.doVec; dsimp only; repeat' split
  all_goals simp [h]
@[simp] theorem execLdv_wf (v : VOp) (p : GPair) (look : Look) : AnswersWf (execLdv v p look s) := by simp [execLdv, h]
@[simp] theorem execStv_wf (v : VOp) (p : GPair) : AnswersWf (execStv v p s) := by simp [execStv, h]
@[simp] theorem execLdvAdv_wf (v : VOp) (p : GPair) (look : Look) : AnswersWf (execLdvAdv v p look s) := by simp [execLdvAdv, h]
@[simp] theorem execStvAdv_wf (v : VOp) (p : GPair) : AnswersWf (execStvAdv v p s) := by simp [execStvAdv, h]
@[simp] theorem execFenceFull_wf (scope : Fin 6) : AnswersWf (execFenceFull scope s) := by simp [execFenceFull, h]
@[simp] theorem execFenceAcq_wf (scope : Fin 6) : AnswersWf (execFenceAcq scope s) := by simp [execFenceAcq, h]
@[simp] theorem execFenceRel_wf (scope : Fin 6) : AnswersWf (execFenceRel scope s) := by simp [execFenceRel, h]
@[simp] theorem execPfetchTlb_wf (a : R) : AnswersWf (execPfetchTlb a s) := by
  have hl : (s.lookup s.cur.core s.me.cont (s.rd a.val).toNat false).1.mem.wf = true := by simp [h]
  unfold execPfetchTlb; dsimp only; split
  · simp [h]
  · split
    · split
      · simpa using wf_of_eq hl ‹_›
      · simp [h]
    · simp [h]
@[simp] theorem execPfetchPc_wf (a : R) : AnswersWf (execPfetchPc a s) := by simp [execPfetchPc, h]
@[simp] theorem execPfetchOwn_wf (a : R) : AnswersWf (execPfetchOwn a s) := by simp [execPfetchOwn, h]

/-! ## Control -/

@[simp] theorem execKget_wf (d : R) (kn : Fin 64) : AnswersWf (execKget d kn s) := by
  unfold execKget; split <;> simp [h]
@[simp] theorem execKset_wf (a : R) (kn v6 : Fin 64) : AnswersWf (execKset a kn v6 s) := by
  unfold execKset; dsimp only; repeat' split
  all_goals simp [h]
@[simp] theorem execWait_wf (d a b : R) : AnswersWf (execWait d a b s) := by
  unfold execWait; dsimp only; split <;> simp [h]
@[simp] theorem execYield_wf : AnswersWf (execYield s) := by
  unfold execYield; split <;> simp [h]
@[simp] theorem execLwait_wf : AnswersWf (execLwait s) := by
  unfold execLwait; repeat' split
  all_goals simp [h]
@[simp] theorem execTrap_wf (code : BitVec 12) : AnswersWf (execTrap code s) := by simp [execTrap, h]
@[simp] theorem execEret_wf : AnswersWf (execEret s) := by simp [execEret, h]
@[simp] theorem execHalt_wf : AnswersWf (execHalt s) := by simp [execHalt, h]
@[simp] theorem execHdone_wf : AnswersWf (execHdone s) := by
  unfold execHdone; split <;> simp [h]
@[simp] theorem execGang_wf (d : R) (n : Fin 17) : AnswersWf (execGang d n s) := by
  unfold execGang; dsimp only; repeat' split
  all_goals simp [h]
@[simp] theorem execSplit_wf : AnswersWf (execSplit s) := by
  unfold execSplit; split
  · simp [h]
  · split
    · simp [h]
    · split
      · simp [h]
      · exact (answersWf_next _).2 (foldl_wf _ (fun u m hu => by simp [hu]) (by simp [h]))
@[simp] theorem execMigr_wf (d a : R) : AnswersWf (execMigr d a s) := by
  unfold execMigr; dsimp only; split
  · simp [h]
  · split
    · simp [h]
    · split
      · simp [h]
      · split
        · simp [h]
        · split
          · rename_i u hu
            rw [answersWf_next, State.doMigr_mem _ _ _ _ u hu]; exact h
          · simp [h]
@[simp] theorem execSafe_wf (glive : BitVec 15) (plive : BitVec 8) (vlive : BitVec 32) : AnswersWf (execSafe glive plive vlive s) := by
  have closed (ms : List (Nat × Nat)) : (ms.foldl (fun s m => s.closeWindows m.1 m.2) s).mem.wf = true :=
    foldl_wf _ (fun u m hu => by simp [hu]) h
  have counted (ms : List (Nat × Nat)) (u : State) (hu : u.mem.wf = true) :
      (ms.foldl (fun s m => s.setThr m.1 m.2 { s.thr m.1 m.2 with safeCount := 0 }) u).mem.wf = true :=
    foldl_wf _ (fun v m hv => by simpa using hv) hu
  unfold execSafe; dsimp only; repeat' split
  case isFalse.isFalse.isFalse.isTrue =>
    exact (answersWf_next _).2 (foldl_wf _ (fun u m hu => by simp [hu]) (counted _ _ (closed _)))
  all_goals simp [h, closed, counted]
@[simp] theorem execWaitTimeout_wf : AnswersWf (execWaitTimeout s) := by
  unfold execWaitTimeout; dsimp only; repeat' split
  all_goals simp [h]
@[simp] theorem execAgePromotion_wf : AnswersWf (execAgePromotion s) := by simp [execAgePromotion, h]

/-! ## Directory -/

@[simp] theorem execDirectoryFetchReply_wf : AnswersWf (execDirectoryFetchReply s) := by
  unfold execDirectoryFetchReply; dsimp only; split
  · refine (answersWf_next _).2 (foldl_wf _ (fun u o hu => by simp [hu]) ?_)
    split <;> simp [h]
  · simp [h]
@[simp] theorem execEvictionMessage_wf : AnswersWf (execEvictionMessage s) := by
  unfold execEvictionMessage; dsimp only; repeat' split
  all_goals simp [h]
@[simp] theorem execTokenArrival_wf : AnswersWf (execTokenArrival s) := by
  unfold execTokenArrival; dsimp only; split
  · split
    · simp [h]
    · split
      · simp [h]
      · split
        · exact (answersWf_next _).2 (State.orWait_wf h (fun u hu => (State.arriveToken_mem _ _ _ u hu).trans (by simp)) _)
        · simp [h]
  · simp [h]
@[simp] theorem execServedRequest_wf : AnswersWf (execServedRequest s) := by
  unfold execServedRequest; dsimp only; repeat' split
  all_goals simp [h]
@[simp] theorem execServedAnswer_wf : AnswersWf (execServedAnswer s) := by
  unfold execServedAnswer; dsimp only; split
  · split
    · split
      · split
        · split
          · exact (answersWf_next _).2 (foldl_wf _ (fun u e hu => by simp [hu]) (by simp [h]))
          · simp [h]
        · simp [h]
      · simp [h]
    · simp [h]
  · simp [h]
@[simp] theorem execActivation_wf : AnswersWf (execActivation s) := by
  unfold execActivation; dsimp only; repeat' split
  all_goals simp [h]
@[simp] theorem execDirectoryChange_wf : AnswersWf (execDirectoryChange s) := by
  unfold execDirectoryChange; repeat' split
  all_goals simp [h]
@[simp] theorem execChangeAck_wf : AnswersWf (execChangeAck s) := by
  unfold execChangeAck; dsimp only; repeat' split
  all_goals simp [h]
@[simp] theorem execMeterMessage_wf : AnswersWf (execMeterMessage s) := by
  unfold execMeterMessage; dsimp only; repeat' split
  all_goals simp [h]
@[simp] theorem execClaimRequest_wf : AnswersWf (execClaimRequest s) := by
  unfold execClaimRequest; dsimp only; repeat' split
  all_goals simp [h]
@[simp] theorem execClaimReply_wf : AnswersWf (execClaimReply s) := by
  unfold execClaimReply; dsimp only; repeat' split
  all_goals simp [h]
/-- The kernel cannot check the equation that unfolds `copyLines` at a successor: it evaluates the access that the equation matches on.
So the induction is over the recursor itself. -/
@[simp] theorem State.copyLines_wf (c cont : Nat) (e : DirEntry) (ver i n : Nat) : (s.copyLines c cont e ver i n).1.mem.wf = true := by
  delta State.copyLines
  refine brecOn_induction (State.copyLines._f c cont e ver) (fun g => ∀ s i, s.mem.wf = true → (g s i).1.mem.wf = true) ?_ ?_ n s i h
  · exact fun _ _ _ h => h
  · intro n b ih s i h
    unfold State.copyLines._f; simp only; split
    · have hu := wf_of_eq (State.ldxAt_wf h _ _ _ _) ‹_›
      split
      · exact ih _ _ hu
      · split
        · exact hu
        · split
          · have hv := wf_of_eq (State.stxAt_wf hu _ _ _ _ _) ‹_›
            exact ih _ _ hv
          · exact hu
          · exact hu
    · exact h
    · exact h
@[simp] theorem State.runCopy_wf (c name : Nat) : (s.runCopy c name).1.mem.wf = true := by
  unfold State.runCopy; split
  · exact h
  · dsimp only; split
    · have hu := wf_of_eq (State.copyLines_wf h _ _ _ _ _ _) ‹_›
      split
      · exact hu
      · exact h
    · simp [h]
@[simp] theorem execCopyComplete_wf : AnswersWf (execCopyComplete s) := by
  unfold execCopyComplete; dsimp only; split
  · have hu := wf_of_eq (State.runCopy_wf h _ _) ‹_›
    repeat' split
    all_goals simp [hu]
  · simp [h]
@[simp] theorem execCopyAbort_wf : AnswersWf (execCopyAbort s) := by
  unfold execCopyAbort; dsimp only; split
  · have hu := wf_of_eq (State.runCopy_wf h _ _) ‹_›
    split <;> simp [hu]
  · simp [h]
@[simp] theorem execWindowEnd_wf : AnswersWf (execWindowEnd s) := by simp [execWindowEnd, h]
@[simp] theorem execDrainComplete_wf : AnswersWf (execDrainComplete s) := by
  unfold execDrainComplete; dsimp only; split <;> simp [h]
@[simp] theorem execFinalPushNotice_wf : AnswersWf (execFinalPushNotice s) := by
  unfold execFinalPushNotice; dsimp only; repeat' split
  all_goals simp [h]
@[simp] theorem execDepthReport_wf : AnswersWf (execDepthReport s) := by
  unfold execDepthReport; split <;> simp [h]
@[simp] theorem execDepthUpdate_wf : AnswersWf (execDepthUpdate s) := by
  unfold execDepthUpdate; dsimp only; repeat' split
  all_goals simp [h]
@[simp] theorem execForwardExpiry_wf : AnswersWf (execForwardExpiry s) := by
  refine (answersWf_next _).2 (foldl_wf _ (fun u name hu => foldl_wf _ (fun v j hv => ?_) hu) ?_)
  · split <;> simp [hv]
  · split <;> split <;> simp [h]

/-! ## Messages -/

@[simp] theorem State.postFrom_wf (m : Msg) (ea n : Nat) (routing : Bool) : (s.postFrom m ea n routing).mem.wf = true := by
  unfold State.postFrom; dsimp only; split
  all_goals simp [wf_of_eq (State.tryAccess_wf (s := s.post m false routing) h _ _) ‹_›]
@[simp] theorem State.sendWith_wf (m : Msg) (a : GOp) (nf : Nat) (d : Option R) : (s.sendWith m a nf d).mem.wf = true := by
  unfold State.sendWith; dsimp only; repeat' split
  all_goals simp [h]
@[simp] theorem execSend_wf (d : R) (a : GOp) (b : R) (vn : Fin 2) (nf : Fin 4) (tag : BitVec 24) :
    AnswersWf (execSend d a b vn nf tag s) := by simp [execSend, h]
@[simp] theorem execSendd_wf (d a b : R) (nf : Fin 4) (tag : BitVec 24) : AnswersWf (execSendd d a b nf tag s) := by simp [execSendd, h]
@[simp] theorem execSendx_wf (d : R) (a : GOp) (b : R) (nf : Fin 4) (look : Look) : AnswersWf (execSendx d a b nf look s) := by
  unfold execSendx; dsimp only; repeat' split
  all_goals simp [h]
@[simp] theorem execSpawn_wf (d : Fin 8) (a b : R) : AnswersWf (execSpawn d a b s) := by
  unfold execSpawn; dsimp only; repeat' split
  all_goals simp [h]
@[simp] theorem execOutboxEntryFree_wf : AnswersWf (execOutboxEntryFree s) := by
  unfold execOutboxEntryFree; dsimp only; repeat' split
  all_goals simp [h]
@[simp] theorem execDeadlockEscape_wf : AnswersWf (execDeadlockEscape s) := by
  unfold execDeadlockEscape; dsimp only; repeat' split
  all_goals simp [h]
@[simp] theorem State.takeMsg_wf (d : GPair) (a : GOp) (look : Nat) (e : InboxEntry) : (s.takeMsg d a look e).mem.wf = true := by
  unfold State.takeMsg; dsimp only; split
  · simp [h]
  · split
    · simp [h]
    · split
      all_goals
        rename_i hr
        simp [wf_of_eq (State.tryAccess_wf (by simp [h]) _ _) hr]
theorem State.recvAddr_wf {go : State → State} (hgo : (go s).mem.wf = true) (a : GOp) :
    (s.recvAddr a go).mem.wf = true := by
  unfold State.recvAddr; dsimp only; repeat' split
  all_goals simp [h, hgo]
@[simp] theorem execRecv_wf (d : GPair) (a : GOp) (b : R) (look : Look) : AnswersWf (execRecv d a b look s) := by
  refine (answersWf_next _).2 (State.recvAddr_wf h ?_ a)
  split <;> simp [h]
@[simp] theorem execRecvt_wf (d : GPair) (a : GOp) (b : R) (look : Look) : AnswersWf (execRecvt d a b look s) := by
  refine (answersWf_next _).2 (State.recvAddr_wf h ?_ a)
  repeat' split
  all_goals simp [h]
@[simp] theorem execRecvtTimeout_wf : AnswersWf (execRecvtTimeout s) := by
  unfold execRecvtTimeout; dsimp only; repeat' split
  all_goals simp [h]
@[simp] theorem execPeek_wf (d : GPair) (b : R) : AnswersWf (execPeek d b s) := by simp [execPeek, h]
@[simp] theorem execMessageArrival_wf : AnswersWf (execMessageArrival s) := by
  unfold execMessageArrival; split
  · simp [h]
  · split
    · split
      · exact (answersWf_next _).2 (State.orWait_wf h (fun u hu => (State.deliver_mem _ _ _ _ u hu).trans (by simp)) _)
      · simp [h]
    · simp [h]
@[simp] theorem execRefusalArrival_wf : AnswersWf (execRefusalArrival s) := by
  unfold execRefusalArrival; split
  · split
    · exact (answersWf_next _).2 (State.orWait_wf h (fun u hu => (State.deliver_mem _ _ _ _ u hu).trans (by simp)) _)
    · simp [h]
  · simp [h]
@[simp] theorem State.putRecord_wf (c k : Nat) (r : FaultRec) : (s.putRecord c k r).mem.wf = true := by
  simp [State.putRecord, Memory.setBytes_wf, h]
@[simp] theorem execDrupeArrival_wf : AnswersWf (execDrupeArrival s) := by
  unfold execDrupeArrival; dsimp only; repeat' split
  all_goals simp [h]
@[simp] theorem execSpawnRequest_wf : AnswersWf (execSpawnRequest s) := by
  unfold execSpawnRequest; dsimp only; repeat' split
  all_goals simp [h]
@[simp] theorem execSpawnReply_wf : AnswersWf (execSpawnReply s) := by
  unfold execSpawnReply; split
  · split
    · exact (answersWf_next _).2 (State.orWait_wf h (fun u hu => (State.replyTaken_mem _ _ _ u hu).trans (by simp)) _)
    · simp [h]
  · simp [h]
@[simp] theorem execMigrationArrival_wf : AnswersWf (execMigrationArrival s) := by
  unfold execMigrationArrival; split
  · split <;> simp [h]
  · split
    · split
      · exact (answersWf_next _).2 (State.orWait_wf h (fun u hu => (State.contextTaken_mem _ _ _ u hu).trans (by simp)) _)
      · simp [h]
    · simp [h]
@[simp] theorem execMigrationAck_wf : AnswersWf (execMigrationAck s) := by
  unfold execMigrationAck; split
  · split
    · exact (answersWf_next _).2 (State.orWait_wf h (fun u hu => (State.ackTaken_mem _ _ _ u hu).trans (by simp)) _)
    · simp [h]
  · simp [h]
@[simp] theorem execSpillReturn_wf : AnswersWf (execSpillReturn s) := by
  unfold execSpillReturn; dsimp only; split
  · simp [h]
  · simp [h]
  · split <;> simp [h]
  · split
    · rw [answersWf_next, State.forwardResult_mem _ _ _ _ ‹_›]; exact h
    · exact (answersWf_next _).2 (getD_wf (fun u hu => by rw [State.deliverResult_mem _ _ _ _ u hu]; exact h) h)
    · simp [h]

/-! ## Collectives -/

@[simp] theorem execBar_wf (n : Fin 32) : AnswersWf (execBar n s) := by
  unfold execBar; repeat' split
  all_goals simp [h]
@[simp] theorem execGrpst_wf (n : Fin 32) (a : R) : AnswersWf (execGrpst n a s) := by
  unfold execGrpst; repeat' split
  all_goals simp [h]
@[simp] theorem execGrpld_wf (d : R) (n : Fin 32) (look : Look) : AnswersWf (execGrpld d n look s) := by
  unfold execGrpld; repeat' split
  all_goals simp [h]
@[simp] theorem execGroupRoundResult_wf : AnswersWf (execGroupRoundResult s) := by
  unfold execGroupRoundResult; dsimp only; split
  · simp [h]
  · split
    · simp [h]
    · exact (answersWf_next _).2 (foldl_wf _ (fun u c hu => by split <;> simp [hu]) h)

/-! ## Rings -/

@[simp] theorem execCbinit_wf (d a b : R) : AnswersWf (execCbinit d a b s) := by
  unfold execCbinit; dsimp only; repeat' split
  all_goals simp [h]
@[simp] theorem execCbacq_wf (d a : R) (look : Look) : AnswersWf (execCbacq d a look s) := by
  unfold execCbacq; dsimp only; repeat' split
  all_goals simp [h]
@[simp] theorem execCbwait_wf (d a : R) (look : Look) : AnswersWf (execCbwait d a look s) := by
  unfold execCbwait; dsimp only; repeat' split
  all_goals simp [h]
@[simp] theorem execCbrel_wf (a b : R) : AnswersWf (execCbrel a b s) := by
  unfold execCbrel; dsimp only; repeat' split
  all_goals simp [h]

/-! ## Counters -/

@[simp] theorem execCtrget_wf (d a : R) : AnswersWf (execCtrget d a s) := by
  unfold execCtrget; dsimp only; repeat' split
  all_goals simp [h]
@[simp] theorem execCtrclr_wf (a : R) : AnswersWf (execCtrclr a s) := by
  unfold execCtrclr; dsimp only; repeat' split
  all_goals simp [h]
@[simp] theorem execMeter_wf (d a b : R) : AnswersWf (execMeter d a b s) := by
  unfold execMeter; dsimp only; repeat' split
  all_goals simp [h]
@[simp] theorem State.flushSlot_wf (c gen k : Nat) : (s.flushSlot c gen k).mem.wf = true := by
  unfold State.flushSlot; dsimp only; split
  · split <;> simp [Memory.setBytes_wf, h]
  · exact h
@[simp] theorem execGenget_wf (d b : R) : AnswersWf (execGenget d b s) := by
  have flushed (u : State) (hu : u.mem.wf = true) (c g : Nat) : ((List.range 256).foldl (fun s k => s.flushSlot c g k) u).mem.wf = true :=
    foldl_wf _ (fun v k hv => by simp [hv]) hu
  unfold execGenget; dsimp only; repeat' split
  all_goals simp [h, flushed]
@[simp] theorem execLifeget_wf (d a b : R) : AnswersWf (execLifeget d a b s) := by
  unfold execLifeget; dsimp only; repeat' split
  all_goals simp [h]

/-! ## Matrix -/

@[simp] theorem execMma_wf (acc : Fin 8) (ga : GPair) (gb : R) (ksteps : BitVec 16) (rows1 : Fin 64) (cols1 : Fin 32) :
    AnswersWf (execMma acc ga gb ksteps rows1 cols1 s) := by simp [execMma, h]
@[simp] theorem execMmas_wf (acc : Fin 8) (ga gb : GPair) (ksteps : BitVec 16) (rows1 : Fin 64) (cols1 : Fin 32) (last : Bool) :
    AnswersWf (execMmas acc ga gb ksteps rows1 cols1 last s) := by simp [execMmas, h]
@[simp] theorem execMzero_wf (acc : Fin 8) (pin : Bool) : AnswersWf (execMzero acc pin s) := by simp [execMzero, h]
@[simp] theorem execMwb_wf (ga gb : R) : AnswersWf (execMwb ga gb s) := by simp [execMwb, h]
@[simp] theorem execMdrain_wf (acc : Fin 8) (ga : R) (rows1 : Fin 64) (cols1 : Fin 32) (keep : Bool) :
    AnswersWf (execMdrain acc ga rows1 cols1 keep s) := by simp [execMdrain, h]
@[simp] theorem execAsave_wf (acc : Fin 8) (ga : R) : AnswersWf (execAsave acc ga s) := by simp [execAsave, h]
@[simp] theorem execArest_wf (acc : Fin 8) (ga : R) : AnswersWf (execArest acc ga s) := by simp [execArest, h]
@[simp] theorem execMstat_wf (acc : Fin 8) (ga : R) (look : Look) : AnswersWf (execMstat acc ga look s) := by simp [execMstat, h]
@[simp] theorem execRowout_wf (acc : Fin 8) (ga gb : R) : AnswersWf (execRowout acc ga gb s) := by
  unfold execRowout; dsimp only; repeat' split
  all_goals simp [h]
@[simp] theorem execMfence_wf (all : Bool) : AnswersWf (execMfence all s) := by
  unfold execMfence; split <;> simp [h]
@[simp] theorem State.mread_wf (m : MCmd) (ea n : Nat) : (s.mread m ea n).1.mem.wf = true := by simp [State.mread, h]
@[simp] theorem State.fetchRow_wf (m : MCmd) (r : Shape) (p k row n : Nat) : (s.fetchRow m r p k row n).1.mem.wf = true := by
  induction n generalizing s k with
  | zero => exact h
  | succ n ih =>
    have hg : (if r.has (p + k) row then s.readAt m.who (r.addr2 (p + k) row).toNat (unitBytes r.fmt) else (s, .ok [])).1.mem.wf
        = true := by split <;> simp [h]
    unfold State.fetchRow; dsimp only; split
    · exact wf_of_eq hg ‹_›
    · have hu := wf_of_eq hg ‹_›
      split
      all_goals exact wf_of_eq (ih hu _) ‹_›
@[simp] theorem State.fetchRows_wf (m : MCmd) (r : Shape) (p len n : Nat) : (s.fetchRows m r p len n).1.mem.wf = true := by
  induction n generalizing s m with
  | zero => exact h
  | succ n ih =>
    unfold State.fetchRows; split
    · exact wf_of_eq (State.fetchRow_wf h _ _ _ _ _ _) ‹_›
    · exact ih (wf_of_eq (State.fetchRow_wf h _ _ _ _ _ _) ‹_›) _
@[simp] theorem State.mmaRun_wf (c : Nat) (m : MCmd) (sh : MShape) (r : Shape) (n : Nat) : (s.mmaRun c m sh r n).mem.wf = true := by
  induction n generalizing s m with
  | zero => simp [State.mmaRun, h]
  | succ n ih =>
    unfold State.mmaRun; dsimp only; split
    · simp [h]
    · split
      all_goals have hu := wf_of_eq (State.fetchRows_wf h _ _ _ _ _) ‹_›
      · simp [hu]
      · exact ih (by simp [hu]) _
@[simp] theorem State.scale_wf (m : MCmd) (base : Word) (i : Nat) : (s.scale m base i).1.mem.wf = true := by
  unfold State.scale; split
  · exact h
  · split <;> exact wf_of_eq (State.readAt_wf h _ _ _) ‹_›
@[simp] theorem State.scales_wf (m : MCmd) (base : Word) (i n : Nat) : (s.scales m base i n).1.mem.wf = true := by
  induction n generalizing s i with
  | zero => exact h
  | succ n ih =>
    unfold State.scales; split
    · exact wf_of_eq (State.scale_wf h _ _ _) ‹_›
    · have hu := wf_of_eq (State.scale_wf h _ _ _) ‹_›
      split
      all_goals exact wf_of_eq (ih hu _) ‹_›
@[simp] theorem State.storeRow_wf (m : MCmd) (ea b : Nat) (vs : List Nat) : (s.storeRow m ea b vs).1.mem.wf = true := by
  induction vs generalizing s ea with
  | nil => exact h
  | cons v vs ih =>
    unfold State.storeRow; split
    · exact wf_of_eq (State.writeAt_wf h _ _ _) ‹_›
    · exact ih (wf_of_eq (State.writeAt_wf h _ _ _) ‹_›) _
@[simp] theorem State.stageRow_wf (c : Nat) (m : MCmd) (e : Epi) (acc row seg b j : Nat) (vs : List Nat) :
    (s.stageRow c m e acc row seg b j vs).mem.wf = true := by
  simp [State.stageRow, Memory.setBytes_wf, h]
@[simp] theorem State.deliverRows_wf (c : Nat) (m : MCmd) (e : Epi) (acc row seg b : Nat) (vs : List Nat) (opnd : Nat) (next : MCmd) :
    (s.deliverRows c m e acc row seg b vs opnd next).mem.wf = true := by
  unfold State.deliverRows; split
  · split
    all_goals simp [wf_of_eq (State.storeRow_wf h _ _ _ _) ‹_›]
  · split <;> simp [h]
@[simp] theorem State.drainRow_wf (c : Nat) (m : MCmd) (acc rows cols : Nat) (keep : Bool) (e : Epi) :
    (s.drainRow c m acc rows cols keep e).mem.wf = true := by
  have hA (sc : Word) : (if ((s.core c).accum acc).mode = 1 then s.scale m sc m.row else (s, .ok 0)).1.mem.wf = true := by
    split <;> simp [h]
  have hB (u : State) (hu : u.mem.wf = true) (sc : Word) :
      (if ((s.core c).accum acc).mode = 1 then u.scales m sc 0 cols else (u, .ok [])).1.mem.wf = true := by
    split <;> simp [hu]
  unfold State.drainRow; split
  · simp [h]
  · dsimp only; split
    · simp [h]
    · split
      all_goals simp [hA, hB]
@[simp] theorem State.epiAt_wf (m : MCmd) (ea : Nat) : (s.epiAt m ea).1.mem.wf = true := by
  unfold State.epiAt; split <;> simp [h]
@[simp] theorem State.mwbRun_wf (c : Nat) (m : MCmd) : (s.mwbRun c m).mem.wf = true := by
  unfold State.mwbRun; dsimp only; split
  · simp [h]
  · split
    all_goals have hu := wf_of_eq (State.mread_wf h _ _ _) ‹_›
    · simp [hu]
    · split
      · simp [hu]
      · split
        all_goals simp [wf_of_eq (State.mread_wf hu _ _ _) ‹_›]
@[simp] theorem State.asaveRun_wf (c : Nat) (m : MCmd) (a : Nat) : (s.asaveRun c m a).mem.wf = true := by
  unfold State.asaveRun; dsimp only; split
  · simp [h]
  · split
    all_goals simp [wf_of_eq (State.writeRun_wf h _ _ _ _ _) ‹_›]
@[simp] theorem State.arestRun_wf (c : Nat) (m : MCmd) (a : Nat) : (s.arestRun c m a).mem.wf = true := by
  unfold State.arestRun; dsimp only; split
  · simp [h]
  · split
    all_goals have hu := wf_of_eq (State.mread_wf h _ _ _) ‹_›
    · simp [hu]
    · split <;> simp [hu]
@[simp] theorem State.mmaStart_wf (c : Nat) (m : MCmd) (sh : MShape) : (s.mmaStart c m sh).mem.wf = true := by
  have hp : (if sh.ra % 32 ≠ 0 || (!m.started && ((s.core c).accum sh.acc).refuses sh.seg) then (s, .ok [])
      else if m.shapeRec.isEmpty then s.readAt m.who sh.ra 32 else (s, .ok m.shapeRec)).1.mem.wf = true := by
    repeat' split
    all_goals simp [h]
  unfold State.mmaStart; split
  all_goals have hu := wf_of_eq hp ‹_›
  · simp [hu]
  · dsimp only; split
    · simp [hu]
    · split <;> simp [hu]
@[simp] theorem State.mcmdRun_wf (c : Nat) (m : MCmd) : (s.mcmdRun c m).mem.wf = true := by
  unfold State.mcmdRun; repeat' split
  all_goals simp [h]
theorem State.moving_wf (c : Nat) {t : State} (ht : t.mem.wf = true) : (s.moving c t).mem.wf = true := by
  rcases State.moving_mem s c t with e | e <;> rw [e] <;> assumption
@[simp] theorem execMatrixCommandStart_wf : AnswersWf (execMatrixCommandStart s) := by
  refine (answersWf_next _).2 (State.moving_wf h _ ?_)
  split
  · split
    · exact h
    · repeat' split
      all_goals simp [h]
  · split <;> simp [h]
@[simp] theorem execSegmentEnd_wf : AnswersWf (execSegmentEnd s) := by
  unfold execSegmentEnd; dsimp only; repeat' split
  all_goals simp [h]
@[simp] theorem execDrainRowStage_wf : AnswersWf (execDrainRowStage s) := by
  refine (answersWf_next _).2 (State.moving_wf h _ ?_)
  split
  · exact h
  · split
    · exact h
    · split
      · split
        · split
          · simp [h]
          · split
            all_goals simp [wf_of_eq (State.epiAt_wf h _ _) ‹_›]
        · exact h
      · split
        all_goals have hu := wf_of_eq (State.epiAt_wf h _ _) ‹_›
        · split <;> simp [h, hu]
        · dsimp only; split
          · simp [hu]
          · split <;> simp [h, hu]
      · exact h
@[simp] theorem execMatrixCommandComplete_wf : AnswersWf (execMatrixCommandComplete s) := by
  unfold execMatrixCommandComplete; dsimp only; repeat' split
  all_goals simp [h]

/-! ## Engines -/

@[simp] theorem execCpCopy_wf (d : R) (a b : GOp) : AnswersWf (execCpCopy d a b s) := by simp [execCpCopy, h]
@[simp] theorem execCpGather_wf (d : R) (a b : GOp) : AnswersWf (execCpGather d a b s) := by simp [execCpGather, h]
@[simp] theorem execCpScatter_wf (d : R) (a b : GOp) : AnswersWf (execCpScatter d a b s) := by simp [execCpScatter, h]
@[simp] theorem execCpFill_wf (d : R) (a b : GOp) : AnswersWf (execCpFill d a b s) := by simp [execCpFill, h]
@[simp] theorem execCpToken_wf (d : R) (a b : GOp) : AnswersWf (execCpToken d a b s) := by simp [execCpToken, h]
@[simp] theorem execSgRead_wf (d : R) (a b : GOp) : AnswersWf (execSgRead d a b s) := by simp [execSgRead, h]
@[simp] theorem execMremote_wf (d : R) (a b : GOp) : AnswersWf (execMremote d a b s) := by simp [execMremote, h]
@[simp] theorem execSvG1_wf (d : R) (a b : GOp) : AnswersWf (execSvG1 d a b s) := by simp [execSvG1, h]
@[simp] theorem execSvG2_wf (d : R) (a b : GOp) : AnswersWf (execSvG2 d a b s) := by simp [execSvG2, h]
@[simp] theorem execSvG3_wf (d : R) (a b : GOp) : AnswersWf (execSvG3 d a b s) := by simp [execSvG3, h]
@[simp] theorem execSvCg_wf (d : R) (a b : GOp) : AnswersWf (execSvCg d a b s) := by simp [execSvCg, h]
@[simp] theorem execSvDiag_wf (d : R) (a b : GOp) : AnswersWf (execSvDiag d a b s) := by simp [execSvDiag, h]
@[simp] theorem execSvSwapq_wf (d : R) (a b : GOp) : AnswersWf (execSvSwapq d a b s) := by simp [execSvSwapq, h]
@[simp] theorem execSvPerm_wf (d : R) (a b : GOp) : AnswersWf (execSvPerm d a b s) := by simp [execSvPerm, h]
@[simp] theorem execSvProb_wf (d : R) (a b : GOp) : AnswersWf (execSvProb d a b s) := by simp [execSvProb, h]
@[simp] theorem execSvNorm_wf (d : R) (a b : GOp) : AnswersWf (execSvNorm d a b s) := by simp [execSvNorm, h]
@[simp] theorem execSvInit_wf (d : R) (a b : GOp) : AnswersWf (execSvInit d a b s) := by simp [execSvInit, h]
@[simp] theorem execSvSync_wf (d : R) (a b : GOp) : AnswersWf (execSvSync d a b s) := by simp [execSvSync, h]
@[simp] theorem execQpush_wf (d : R) (a : GOp) (b : R) : AnswersWf (execQpush d a b s) := by
  unfold execQpush; dsimp only; split <;> simp [h]
@[simp] theorem execQpop_wf (d : GOp) (a : R) (look : Look) : AnswersWf (execQpop d a look s) := by
  unfold execQpop; dsimp only; split <;> simp [h]
@[simp] theorem execQstat_wf (d a : R) : AnswersWf (execQstat d a s) := by simp [execQstat, h]
@[simp] theorem State.unitRead_wf (e : ECmd) (a n : Nat) : (s.unitRead e a n).1.mem.wf = true := by
  unfold State.unitRead; split <;> exact wf_of_eq (State.readRun_wf h _ _ _ _ _) ‹_›
@[simp] theorem State.unitWrite_wf (e : ECmd) (a : Nat) (data : List Byte) (e' : ECmd) : (s.unitWrite e a data e').1.mem.wf = true := by
  unfold State.unitWrite; split <;> exact wf_of_eq (State.writeRun_wf h _ _ _ _ _) ‹_›
@[simp] theorem State.ringWrite_wf (e : ECmd) (w off : Nat) (data : List Byte) (last : Bool) (e' : ECmd) :
    (s.ringWrite e w off data last e').1.mem.wf = true := by
  unfold State.ringWrite; split
  · have hu := wf_of_eq (State.unitWrite_wf h _ _ _ _) ‹_›
    dsimp only; split <;> simp [hu]
  · exact State.unitWrite_wf h _ _ _ _
@[simp] theorem State.copyUnit_wf (e : ECmd) : (s.copyUnit e).1.mem.wf = true := by
  unfold State.copyUnit; dsimp only; split
  · simp [h]
  · split
    all_goals have hu := wf_of_eq (State.unitRead_wf h _ _ _) ‹_›
    · exact hu
    · split <;> simp [hu]
@[simp] theorem State.listUnit_wf (e : ECmd) (base : Nat) : (s.listUnit e base).1.mem.wf = true := by
  unfold State.listUnit; split <;> exact wf_of_eq (State.unitRead_wf h _ _ _) ‹_›
@[simp] theorem State.gatherUnit_wf (e : ECmd) : (s.gatherUnit e).1.mem.wf = true := by
  have row (i a : Nat) : (if i = hole then (s, .ok (List.replicate 64 0)) else s.unitRead e a 64).1.mem.wf = true := by
    split <;> simp [h]
  unfold State.gatherUnit; dsimp only; split
  · simp [h]
  · split
    · simp [h]
    · split
      · simp [h]
      · split
        all_goals have hu := wf_of_eq (row _ _) ‹_›
        · exact hu
        · split <;> simp [hu]
@[simp] theorem State.scatterUnit_wf (e : ECmd) : (s.scatterUnit e).1.mem.wf = true := by
  have left (b : Bool) (u : State) (hu : u.mem.wf = true) : (if b then u.leaveSlot e (e.w 0) true else u).mem.wf = true := by
    split <;> simp [hu]
  unfold State.scatterUnit; dsimp only; split
  · simp [h]
  · split
    · simp [h]
    · split
      · simp [h]
      · split
        · exact left _ _ h
        · split
          all_goals have hu := wf_of_eq (State.unitRead_wf h _ _ _) ‹_›
          · exact hu
          · split
            · exact left _ _ (wf_of_eq (State.unitWrite_wf hu _ _ _ _) ‹_›)
            · exact State.unitWrite_wf hu _ _ _ _
@[simp] theorem State.fillUnit_wf (e : ECmd) : (s.fillUnit e).1.mem.wf = true := by simp [State.fillUnit, h]
@[simp] theorem State.strideUnit_wf (e : ECmd) : (s.strideUnit e).1.mem.wf = true := by
  have piece (a n : Nat) : (if e.rest.isEmpty then s.unitRead e a n else (s, .ok e.rest)).1.mem.wf = true := by
    split <;> simp [h]
  unfold State.strideUnit; split
  · exact h
  · dsimp only; split
    · simp [h]
    · split
      all_goals have hu := wf_of_eq (piece _ _) ‹_›
      · exact hu
      · split <;> simp [hu]
@[simp] theorem State.unit_wf (e : ECmd) : (s.unit e).1.mem.wf = true := by
  unfold State.unit; split <;> simp [h]
@[simp] theorem State.runUnit_wf (c f k : Nat) : (s.runUnit c f k).mem.wf = true := by
  unfold State.runUnit; split
  · exact h
  · split
    · exact h
    · split
      · simp [wf_of_eq (State.unit_wf h _) ‹_›]
      · simp [wf_of_eq (State.unit_wf h _) ‹_›]
      · exact h
@[simp] theorem execEngineCommandStart_wf : AnswersWf (execEngineCommandStart s) := by
  unfold execEngineCommandStart; split <;> simp [h]
@[simp] theorem execEngineResult_wf : AnswersWf (execEngineResult s) := by
  unfold execEngineResult; dsimp only; split
  · split
    · exact (answersWf_next _).2 (getD_wf (fun u hu => by rw [State.deliverResult_mem _ _ _ _ u hu]; simp [h]) h)
    · simp [h]
  · simp [h]
@[simp] theorem execCpTokenComplete_wf : AnswersWf (execCpTokenComplete s) := by
  unfold execCpTokenComplete; dsimp only; repeat' split
  all_goals simp [h]
@[simp] theorem execRemoteMatrixAccept_wf : AnswersWf (execRemoteMatrixAccept s) := by
  unfold execRemoteMatrixAccept; dsimp only; repeat' split
  all_goals simp [h]

/-! ## Fetch -/

@[simp] theorem State.fetch_wf (c t : Nat) : (s.fetch c t).1.mem.wf = true := by
  unfold State.fetch; dsimp only; split
  · split <;> exact h
  · split
    · exact h
    · split
      · exact h
      · split
        all_goals exact wf_of_eq (State.place_wf h _ _ _ _ _) ‹_›

/-! ## Lathe -/

@[simp] theorem execLathe_wf (n1 : Fin 16) (stride : Fin 32) (cg : R) (count : BitVec 32) : AnswersWf (execLathe n1 stride cg count s) := by
  unfold execLathe; repeat' split
  all_goals simp [h]
@[simp] theorem execSafeovd_wf : AnswersWf (execSafeovd s) := by
  unfold execSafeovd; dsimp only; split
  · split
    · have hu := wf_of_eq (State.fetch_wf h _ _) ‹_›
      split <;> simp [h, hu]
    · simp [h]
  · simp [h]

/-! ## Rind -/

@[simp] theorem execEclr_wf (d : Fin 4) (g : R) : AnswersWf (execEclr d g s) := by simp [execEclr, h]
@[simp] theorem execEline_wf (d a : Fin 4) (g : GPair) (look : Look) : AnswersWf (execEline d a g look s) := by simp [execEline, h]
@[simp] theorem execEadd_wf (d a b : Fin 4) (look : Look) : AnswersWf (execEadd d a b look s) := by simp [execEadd, h]
@[simp] theorem execEmax_wf (d a b : Fin 4) (look : Look) : AnswersWf (execEmax d a b look s) := by simp [execEmax, h]
@[simp] theorem execEinf_wf (d a b : Fin 4) (look : Look) : AnswersWf (execEinf d a b look s) := by simp [execEinf, h]
@[simp] theorem execEconj_wf (d a : Fin 4) (look : Look) : AnswersWf (execEconj d a look s) := by simp [execEconj, h]
@[simp] theorem execEsimp_wf (d a : Fin 4) (look : Look) : AnswersWf (execEsimp d a look s) := by simp [execEsimp, h]
@[simp] theorem execEcnt_wf (a : Fin 4) (g : R) : AnswersWf (execEcnt a g s) := by simp [execEcnt, h]
@[simp] theorem execEeval_wf (a : Fin 4) (g : GPair) (look : Look) : AnswersWf (execEeval a g look s) := by simp [execEeval, h]
@[simp] theorem execEarg_wf (a : Fin 4) (g : GPair) (look : Look) : AnswersWf (execEarg a g look s) := by simp [execEarg, h]
@[simp] theorem execEget_wf (a : Fin 4) (g : GPair) : AnswersWf (execEget a g s) := by simp [execEget, h]
theorem State.envAddr_wf {go : State → State} (hgo : (go s).mem.wf = true) (i : Instr) (ea : Word) :
    (s.envAddr i ea go).mem.wf = true := by
  unfold State.envAddr; repeat' split
  · simp [h]
  · simpa using wf_of_eq (by simp [h]) ‹s.dispatch i = _›
  · exact hgo
@[simp] theorem execEld_wf (d : Fin 4) (a : R) (look : Look) : AnswersWf (execEld d a look s) := by
  refine (answersWf_next _).2 (State.envAddr_wf h ?_ _ _)
  dsimp only; split
  · simp [h]
  · refine State.orMigrate_wf h ?_ _
    split
    all_goals
      rename_i hr
      simp [wf_of_eq (State.tryAccess_wf (by simp [h]) _ _) hr]
@[simp] theorem execEst_wf (d : Fin 4) (a : R) : AnswersWf (execEst d a s) := by
  refine (answersWf_next _).2 (State.envAddr_wf h ?_ _ _)
  dsimp only; split
  · simp [h]
  · exact State.access_wf (by simp [h]) _ _ _
@[simp] theorem execRindStart_wf : AnswersWf (execRindStart s) := by
  unfold execRindStart; dsimp only; repeat' split
  all_goals simp [h]

/-! ## Vec -/

@[simp] theorem execVadd_wf (ty : Fin 16) (d a b : VOp) : AnswersWf (execVadd ty d a b s) := by simp [execVadd, h]
@[simp] theorem execVaddLV_wf (ty : Fin 16) (d a b : VOp) (x : LVX) : AnswersWf (execVaddLV ty d a b x s) := by simp [execVaddLV, h]
@[simp] theorem execVsub_wf (ty : Fin 16) (d a b : VOp) : AnswersWf (execVsub ty d a b s) := by simp [execVsub, h]
@[simp] theorem execVsubLV_wf (ty : Fin 16) (d a b : VOp) (x : LVX) : AnswersWf (execVsubLV ty d a b x s) := by simp [execVsubLV, h]
@[simp] theorem execVmul_wf (ty : Fin 16) (d a b : VOp) : AnswersWf (execVmul ty d a b s) := by simp [execVmul, h]
@[simp] theorem execVmulLV_wf (ty : Fin 16) (d a b : VOp) (x : LVX) : AnswersWf (execVmulLV ty d a b x s) := by simp [execVmulLV, h]
@[simp] theorem execVfma_wf (ty : Fin 16) (d a b : VOp) : AnswersWf (execVfma ty d a b s) := by simp [execVfma, h]
@[simp] theorem execVfmaLV_wf (ty : Fin 16) (d a b : VOp) (x : LVX) : AnswersWf (execVfmaLV ty d a b x s) := by simp [execVfmaLV, h]
@[simp] theorem execVmin_wf (ty : Fin 16) (d a b : VOp) : AnswersWf (execVmin ty d a b s) := by simp [execVmin, h]
@[simp] theorem execVminLV_wf (ty : Fin 16) (d a b : VOp) (x : LVX) : AnswersWf (execVminLV ty d a b x s) := by simp [execVminLV, h]
@[simp] theorem execVmax_wf (ty : Fin 16) (d a b : VOp) : AnswersWf (execVmax ty d a b s) := by simp [execVmax, h]
@[simp] theorem execVmaxLV_wf (ty : Fin 16) (d a b : VOp) (x : LVX) : AnswersWf (execVmaxLV ty d a b x s) := by simp [execVmaxLV, h]
@[simp] theorem execVminp_wf (ty : Fin 16) (d a b : VOp) : AnswersWf (execVminp ty d a b s) := by simp [execVminp, h]
@[simp] theorem execVminpLV_wf (ty : Fin 16) (d a b : VOp) (x : LVX) : AnswersWf (execVminpLV ty d a b x s) := by simp [execVminpLV, h]
@[simp] theorem execVmaxp_wf (ty : Fin 16) (d a b : VOp) : AnswersWf (execVmaxp ty d a b s) := by simp [execVmaxp, h]
@[simp] theorem execVmaxpLV_wf (ty : Fin 16) (d a b : VOp) (x : LVX) : AnswersWf (execVmaxpLV ty d a b x s) := by simp [execVmaxpLV, h]
@[simp] theorem execVand_wf (d a b : VOp) : AnswersWf (execVand d a b s) := by simp [execVand, h]
@[simp] theorem execVandLV_wf (d a b : VOp) (x : LVX) : AnswersWf (execVandLV d a b x s) := by simp [execVandLV, h]
@[simp] theorem execVor_wf (d a b : VOp) : AnswersWf (execVor d a b s) := by simp [execVor, h]
@[simp] theorem execVorLV_wf (d a b : VOp) (x : LVX) : AnswersWf (execVorLV d a b x s) := by simp [execVorLV, h]
@[simp] theorem execVxor_wf (d a b : VOp) : AnswersWf (execVxor d a b s) := by simp [execVxor, h]
@[simp] theorem execVxorLV_wf (d a b : VOp) (x : LVX) : AnswersWf (execVxorLV d a b x s) := by simp [execVxorLV, h]
@[simp] theorem execVandn_wf (d a b : VOp) : AnswersWf (execVandn d a b s) := by simp [execVandn, h]
@[simp] theorem execVandnLV_wf (d a b : VOp) (x : LVX) : AnswersWf (execVandnLV d a b x s) := by simp [execVandnLV, h]
@[simp] theorem execVshl_wf (sz : Fin 4) (d a b : VOp) : AnswersWf (execVshl sz d a b s) := by simp [execVshl, h]
@[simp] theorem execVshlLV_wf (sz : Fin 4) (d a b : VOp) (x : LVX) : AnswersWf (execVshlLV sz d a b x s) := by simp [execVshlLV, h]
@[simp] theorem execVshr_wf (sz : Fin 4) (d a b : VOp) : AnswersWf (execVshr sz d a b s) := by simp [execVshr, h]
@[simp] theorem execVshrLV_wf (sz : Fin 4) (d a b : VOp) (x : LVX) : AnswersWf (execVshrLV sz d a b x s) := by simp [execVshrLV, h]
@[simp] theorem execVsra_wf (sz : Fin 4) (d a b : VOp) : AnswersWf (execVsra sz d a b s) := by simp [execVsra, h]
@[simp] theorem execVsraLV_wf (sz : Fin 4) (d a b : VOp) (x : LVX) : AnswersWf (execVsraLV sz d a b x s) := by simp [execVsraLV, h]
@[simp] theorem execVcvt_wf (ty dty : Fin 16) (d a : VOp) : AnswersWf (execVcvt ty dty d a s) := by simp [execVcvt, h]
@[simp] theorem execVcvtLV_wf (ty dty : Fin 16) (d a : VOp) (x : LVX) : AnswersWf (execVcvtLV ty dty d a x s) := by simp [execVcvtLV, h]
@[simp] theorem execVrcp_wf (ty : Fin 16) (look : Look) (d a : VOp) : AnswersWf (execVrcp ty look d a s) := by simp [execVrcp, h]
@[simp] theorem execVrcpLV_wf (ty : Fin 16) (look : Look) (d a : VOp) (x : LVX) : AnswersWf (execVrcpLV ty look d a x s) := by
  simp [execVrcpLV, h]
@[simp] theorem execVrsq_wf (ty : Fin 16) (look : Look) (d a : VOp) : AnswersWf (execVrsq ty look d a s) := by simp [execVrsq, h]
@[simp] theorem execVrsqLV_wf (ty : Fin 16) (look : Look) (d a : VOp) (x : LVX) : AnswersWf (execVrsqLV ty look d a x s) := by
  simp [execVrsqLV, h]
@[simp] theorem execVexp2_wf (ty : Fin 16) (look : Look) (d a : VOp) : AnswersWf (execVexp2 ty look d a s) := by simp [execVexp2, h]
@[simp] theorem execVexp2LV_wf (ty : Fin 16) (look : Look) (d a : VOp) (x : LVX) : AnswersWf (execVexp2LV ty look d a x s) := by
  simp [execVexp2LV, h]
@[simp] theorem execVlog2_wf (ty : Fin 16) (look : Look) (d a : VOp) : AnswersWf (execVlog2 ty look d a s) := by simp [execVlog2, h]
@[simp] theorem execVlog2LV_wf (ty : Fin 16) (look : Look) (d a : VOp) (x : LVX) : AnswersWf (execVlog2LV ty look d a x s) := by
  simp [execVlog2LV, h]
@[simp] theorem execVtanh_wf (ty : Fin 16) (look : Look) (d a : VOp) : AnswersWf (execVtanh ty look d a s) := by simp [execVtanh, h]
@[simp] theorem execVtanhLV_wf (ty : Fin 16) (look : Look) (d a : VOp) (x : LVX) : AnswersWf (execVtanhLV ty look d a x s) := by
  simp [execVtanhLV, h]
@[simp] theorem execVsigm_wf (ty : Fin 16) (look : Look) (d a : VOp) : AnswersWf (execVsigm ty look d a s) := by simp [execVsigm, h]
@[simp] theorem execVsigmLV_wf (ty : Fin 16) (look : Look) (d a : VOp) (x : LVX) : AnswersWf (execVsigmLV ty look d a x s) := by
  simp [execVsigmLV, h]
@[simp] theorem execVperm_wf (sz : Fin 4) (d a b : VOp) : AnswersWf (execVperm sz d a b s) := by simp [execVperm, h]
@[simp] theorem execVpermLV_wf (sz : Fin 4) (d a b : VOp) (x : LVX) : AnswersWf (execVpermLV sz d a b x s) := by simp [execVpermLV, h]
@[simp] theorem execVbcast_wf (sz : Fin 4) (d a : VOp) (k : Fin 128) : AnswersWf (execVbcast sz d a k s) := by simp [execVbcast, h]
@[simp] theorem execVbcastLV_wf (sz : Fin 4) (d a : VOp) (k : Fin 128) (x : LVX) : AnswersWf (execVbcastLV sz d a k x s) := by
  simp [execVbcastLV, h]
@[simp] theorem execVshuf_wf (sz : Fin 4) (d a : VOp) (k : Fin 128) : AnswersWf (execVshuf sz d a k s) := by simp [execVshuf, h]
@[simp] theorem execVshufLV_wf (sz : Fin 4) (d a : VOp) (k : Fin 128) (x : LVX) : AnswersWf (execVshufLV sz d a k x s) := by
  simp [execVshufLV, h]
@[simp] theorem execVred_wf (ty : Fin 16) (op : Fin 8) (d a : VOp) : AnswersWf (execVred ty op d a s) := by simp [execVred, h]
@[simp] theorem execVredLV_wf (ty : Fin 16) (op : Fin 8) (d a : VOp) (x : LVX) : AnswersWf (execVredLV ty op d a x s) := by
  simp [execVredLV, h]
@[simp] theorem execVscan_wf (ty : Fin 16) (op : Fin 8) (ex : Bool) (d a : VOp) : AnswersWf (execVscan ty op ex d a s) := by
  simp [execVscan, h]
@[simp] theorem execVscanLV_wf (ty : Fin 16) (op : Fin 8) (ex : Bool) (d a : VOp) (x : LVX) : AnswersWf (execVscanLV ty op ex d a x s) := by
  simp [execVscanLV, h]
@[simp] theorem execVrng_wf (ty : Fin 16) (d a b : VOp) : AnswersWf (execVrng ty d a b s) := by simp [execVrng, h]
@[simp] theorem execVrngLV_wf (ty : Fin 16) (d a b : VOp) (x : LVX) : AnswersWf (execVrngLV ty d a b x s) := by simp [execVrngLV, h]
@[simp] theorem execVquant_wf (ty : Fin 16) (d a : VOp) : AnswersWf (execVquant ty d a s) := by simp [execVquant, h]
@[simp] theorem execVquantLV_wf (ty : Fin 16) (d a : VOp) (x : LVX) : AnswersWf (execVquantLV ty d a x s) := by simp [execVquantLV, h]
@[simp] theorem execVdeq_wf (ty : Fin 16) (d a : VOp) : AnswersWf (execVdeq ty d a s) := by simp [execVdeq, h]
@[simp] theorem execVdeqLV_wf (ty : Fin 16) (d a : VOp) (x : LVX) : AnswersWf (execVdeqLV ty d a x s) := by simp [execVdeqLV, h]
@[simp] theorem execVcmul_wf (d a b : VOp) : AnswersWf (execVcmul d a b s) := by simp [execVcmul, h]
@[simp] theorem execVcmulLV_wf (d a b : VOp) (x : LVX) : AnswersWf (execVcmulLV d a b x s) := by simp [execVcmulLV, h]
@[simp] theorem execVsel_wf (ty : Fin 16) (d a b : VOp) : AnswersWf (execVsel ty d a b s) := by simp [execVsel, h]
@[simp] theorem execVselLV_wf (ty : Fin 16) (d a b : VOp) (x : LVX) : AnswersWf (execVselLV ty d a b x s) := by simp [execVselLV, h]
@[simp] theorem execVxall_wf (ty : Fin 16) (d a : VOp) : AnswersWf (execVxall ty d a s) := by simp [execVxall, h]
@[simp] theorem execVxallLV_wf (ty : Fin 16) (d a : VOp) (x : LVX) : AnswersWf (execVxallLV ty d a x s) := by simp [execVxallLV, h]
@[simp] theorem execVcmp_wf (pd : Fin 8) (ty : Fin 16) (cc : Fin 4) (a b : VOp) : AnswersWf (execVcmp pd ty cc a b s) := by
  simp [execVcmp, h]
@[simp] theorem execPand_wf (pd pa pb : Fin 8) : AnswersWf (execPand pd pa pb s) := by simp [execPand, h]
@[simp] theorem execPor_wf (pd pa pb : Fin 8) : AnswersWf (execPor pd pa pb s) := by simp [execPor, h]
@[simp] theorem execPnot_wf (pd pa : Fin 8) : AnswersWf (execPnot pd pa s) := by simp [execPnot, h]
@[simp] theorem execPcnt_wf (g : R) (pa : Fin 8) : AnswersWf (execPcnt g pa s) := by simp [execPcnt, h]
@[simp] theorem execPfirst_wf (g : R) (pa : Fin 8) : AnswersWf (execPfirst g pa s) := by simp [execPfirst, h]
@[simp] theorem execPlim_wf (pd : Fin 8) (g : R) : AnswersWf (execPlim pd g s) := by simp [execPlim, h]
@[simp] theorem execVxallExchange_wf : AnswersWf (execVxallExchange s) := by
  unfold execVxallExchange; dsimp only; split
  · simp [h]
  · split
    · simp [h]
    · split
      · exact (answersWf_next _).2 (foldl_wf _ (fun u m hu => by simp [hu]) h)
      · split
        · exact (answersWf_next _).2 (foldl_wf _ (fun u m hu => by simp [hu]) h)
        · simp [h]

/-! ## Repeat -/

@[simp] theorem runAlone_wf (i : Instr) : AnswersWf (runAlone i s) := by
  unfold runAlone; split <;> simp [h]
@[simp] theorem State.latheIssue_wf (c : Nat) (l : Lathe) : AnswersWf (s.latheIssue c l) := by
  unfold State.latheIssue; dsimp only; split
  · simp [h]
  · split
    · rename_i v hv
      have hw : v.mem.wf = true := runAlone_wf (by simp [h]) _ v hv
      split <;> simp [h, hw]
    · exact runAlone_wf (by simp [h]) _
@[simp] theorem execLatheRepeat_wf : AnswersWf (execLatheRepeat s) := by
  unfold execLatheRepeat; dsimp only; split
  · simp [h]
  · split
    · simp [h]
    · split
      · simp [h]
      · split
        · rename_i u hu
          exact (answersWf_next _).2 (State.latheIssue_wf h _ _ u hu)
        · exact State.latheIssue_wf h _ _
theorem State.retryLate_wf (c : Nat) (e : RingEntry) : ∀ u ∈ s.retryLate c e, u.mem.wf = true := by
  unfold State.retryLate; extract_lets busy x u
  have hl : u.mem.wf = true := by unfold u; split <;> simp [h]
  clear_value busy u
  split
  · simp
  · split
    · rename_i v hv
      have hw : v.mem.wf = true := runAlone_wf (by simp [hl]) _ v hv
      split
      · simp
      · dsimp only; split <;> simp [hw]
    · simp

/-! ## Tables -/

@[simp] theorem execTlbinv_wf (a b : R) : AnswersWf (execTlbinv a b s) := by
  unfold execTlbinv; dsimp only; repeat' split
  all_goals simp [h]
@[simp] theorem execTlbinva_wf (b : R) : AnswersWf (execTlbinva b s) := by
  unfold execTlbinva; repeat' split
  all_goals simp [h]
@[simp] theorem execDirset_wf (d a b : R) : AnswersWf (execDirset d a b s) := by
  unfold execDirset; dsimp only; split
  · simp [h]
  · split
    · simp [h]
    · split
      · simp [h]
      · split
        all_goals have hu := wf_of_eq (State.image_wf h _ _) ‹_›
        · simp [hu]
        · split <;> simp [hu]
@[simp] theorem execRepnew_wf (d a : R) : AnswersWf (execRepnew d a s) := by
  unfold execRepnew; dsimp only; repeat' split
  all_goals simp [h]
@[simp] theorem execRepret_wf (d a b : R) : AnswersWf (execRepret d a b s) := by
  unfold execRepret; dsimp only; repeat' split
  all_goals simp [h]
@[simp] theorem execCapset_wf (d a b : R) : AnswersWf (execCapset d a b s) := by
  unfold execCapset; dsimp only; repeat' split
  all_goals simp [h]
@[simp] theorem execTreeset_wf (d a b : R) : AnswersWf (execTreeset d a b s) := by
  unfold execTreeset; dsimp only; repeat' split
  all_goals simp [h]
@[simp] theorem execFwdset_wf (d a b : R) : AnswersWf (execFwdset d a b s) := by
  unfold execFwdset; dsimp only; repeat' split
  all_goals simp [h]
@[simp] theorem execSptset_wf (d a b : R) : AnswersWf (execSptset d a b s) := by
  unfold execSptset; extract_lets ea w isMap k
  split
  · simp [h]
  · split
    · simp [h]
    · generalize (if isMap then 64 else 32) = n
      split
      · simp [h]
      · split
        · simp [h]
        · split
          all_goals have hu := wf_of_eq (State.image_wf h _ _) ‹_›
          · exact (answersWf_next _).2 hu
          · repeat' split
            all_goals simp [hu]
@[simp] theorem execSvcset_wf (a b : R) : AnswersWf (execSvcset a b s) := by
  unfold execSvcset; dsimp only; repeat' split
  all_goals simp [h]
@[simp] theorem execPlaceq_wf (d a b : R) : AnswersWf (execPlaceq d a b s) := by
  unfold execPlaceq; dsimp only; split <;> simp [h]

/-! ## Spindle -/

@[simp] theorem State.setAmp_wf (r : SvRec) (pages : List (List Nat)) (p v : Nat) : (s.setAmp r pages p v).mem.wf = true :=
  State.put_wf h _ _ _
@[simp] theorem State.swapChunk_wf (r : SvRec) (pages : List (List Nat)) (a b c : Nat) : (s.swapChunk r pages a b c).mem.wf = true :=
  foldl_wf _ (fun u p hu => by simp [hu]) h
@[simp] theorem State.gateGroup_wf (r : SvRec) (pages : List (List Nat)) (bits mat : List Nat) (p : Nat) :
    (s.gateGroup r pages bits mat p).mem.wf = true :=
  foldl_wf _ (fun u v hu => by simp [hu]) h
@[simp] theorem State.svItem_wf (m : SvCmd) (r : SvRec) (map : List Nat) (pages : List (List Nat)) (g j : Nat) :
    (s.svItem m r map pages g j).mem.wf = true := by
  unfold State.svItem; dsimp only; repeat' split
  all_goals simp [h]
@[simp] theorem execSpindleAccept_wf : AnswersWf (execSpindleAccept s) := by
  unfold execSpindleAccept; split <;> simp [h]
@[simp] theorem State.svOperand_wf (m : SvCmd) : (s.svOperand m).1.mem.wf = true := by
  unfold State.svOperand; split
  · exact h
  · split
    · exact h
    · split
      all_goals exact wf_of_eq (State.readRun_wf h _ _ _ _ _) ‹_›
@[simp] theorem State.svStart_wf (hub k : Nat) (m : SvCmd) : (s.svStart hub k m).mem.wf = true := by
  unfold State.svStart; dsimp only; split
  · exact h
  · simp [h]
  · split
    · simp [h]
    · split
      · exact h
      · simp [wf_of_eq (State.svOperand_wf h _) ‹_›]
      · have hu := wf_of_eq (State.svOperand_wf h _) ‹_›
        repeat' split
        all_goals simp [hu]
@[simp] theorem State.svSwap_wf (hub k : Nat) (m next : SvCmd) (a b : Nat) : (s.svSwap hub k m next a b).mem.wf = true := by
  unfold State.svSwap; dsimp only; split <;> simp [h]
@[simp] theorem State.svLocal_wf (hub k : Nat) (m : SvCmd) : (s.svLocal hub k m).mem.wf = true := by
  have swept (gs : List Nat) (js : List Nat) (map : List Nat) (pages : List (List Nat)) :
      (gs.foldl (fun s g => js.foldl (fun s j => s.svItem m m.svrec map pages g j) s) s).mem.wf = true :=
    foldl_wf _ (fun u g hu => foldl_wf _ (fun v j hv => by simp [hv]) hu) h
  unfold State.svLocal; dsimp only; repeat' split
  all_goals simp [swept]
@[simp] theorem State.svChunk_wf (hub k : Nat) (m : SvCmd) : (s.svChunk hub k m).mem.wf = true := by
  unfold State.svChunk; dsimp only; split
  · split
    · simp [h]
    · split <;> simp [h]
  · split
    · simp [h]
    · split
      · split <;> simp [h]
      · simp [h]
@[simp] theorem execChunkCommit_wf : AnswersWf (execChunkCommit s) := by
  unfold execChunkCommit; dsimp only; repeat' split
  all_goals simp [h]
@[simp] theorem execSpindleComplete_wf : AnswersWf (execSpindleComplete s) := by
  unfold execSpindleComplete; dsimp only; split
  · split
    · split
      · simp [h]
      · exact (answersWf_next _).2 (getD_wf (fun u hu => by rw [State.deliverResult_mem _ _ _ _ u hu]; simp [h]) h)
    · simp [h]
  · simp [h]
@[simp] theorem execSvfault_wf : AnswersWf (execSvfault s) := by
  unfold execSvfault; dsimp only; repeat' split
  all_goals simp [h]
@[simp] theorem execMemoryError_wf : AnswersWf (execMemoryError s) := by
  unfold execMemoryError; dsimp only; repeat' split
  all_goals simp [h]

/-! ## Waits -/

@[simp] theorem execLongLatencyWrite_wf : AnswersWf (execLongLatencyWrite s) := by
  unfold execLongLatencyWrite; dsimp only; repeat' split
  all_goals simp [h]
@[simp] theorem execStoreAcknowledgement_wf : AnswersWf (execStoreAcknowledgement s) := by
  unfold execStoreAcknowledgement; repeat' split
  all_goals simp [h]
@[simp] theorem State.retryHeld_wf (c t : Nat) (a : Access) : (s.retryHeld c t a).mem.wf = true := by
  unfold State.retryHeld; dsimp only; split
  · simp [wf_of_eq (State.tryAccess_wf h _ _) ‹_›]
  · exact h
  · simp [wf_of_eq (State.tryAccess_wf h _ _) ‹_›]
omit h in
@[simp] theorem State.hideFrom_mem (u : State) (w : Who) (rel : Bool) (p : Part) : (s.hideFrom u w rel p).mem = u.mem := by
  unfold State.hideFrom; split
  · dsimp only; split <;> rfl
  · rfl
@[simp] theorem State.performAt_wf (c t k j : Nat) : (s.performAt c t k j).mem.wf = true := by
  have hidden (u : State) (hu : u.mem.wf = true) (b : Bool) (w : Who) (rel : Bool) (p : Part) :
      (if b then s.hideFrom u w rel p else u).mem.wf = true := by split <;> simp [hu]
  unfold State.performAt; dsimp only; split
  · exact h
  · split
    · exact h
    · split
      · exact h
      · split
        · have hu := wf_of_eq (State.tryPart_wf h _ _ _) ‹_›
          split <;> rw [State.setThr_mem] <;> exact hidden _ hu _ _ _ _
        · split <;> simp [h]
@[simp] theorem execAccessFault_wf : AnswersWf (execAccessFault s) := by
  unfold execAccessFault; dsimp only; split
  · simp [h]
  · split
    · simp [h]
    · split
      · simp [h]
      · split
        · simp [h]
        · split
          · have hu := State.goneLdx_mem _ _ _ _ ‹_›
            split <;> simp [h, hu]
          · simp [h]
@[simp] theorem execVerwait_wf : AnswersWf (execVerwait s) := by
  unfold execVerwait; dsimp only; repeat' split
  all_goals simp [h]
@[simp] theorem execShadowfull_wf : AnswersWf (execShadowfull s) := by
  unfold execShadowfull; dsimp only; repeat' split
  all_goals simp [h]

/-! ## Faults -/

@[simp] theorem execFaultRecordArrival_wf : AnswersWf (execFaultRecordArrival s) := by
  unfold execFaultRecordArrival; dsimp only; repeat' split
  all_goals simp [h]
@[simp] theorem execFaultRepost_wf : AnswersWf (execFaultRepost s) := by
  unfold execFaultRepost; dsimp only; repeat' split
  all_goals simp [h]
@[simp] theorem State.againLate_wf (c : Nat) (e : RingEntry) (launch : Option (Nat × Nat)) : (s.againLate c e launch).1.mem.wf = true := by
  unfold State.againLate; dsimp only; split
  · split
    · exact State.retryLate_wf h _ _ _ ‹_›
    · exact h
  · split
    · rename_i u hr
      have hu : u.mem.wf = true := State.retryLate_wf (by simp [h]) _ _ u hr
      dsimp only; split <;> simp [hu]
    · exact h
theorem State.replyLate_wf (w : FaultWait) (q code : Nat) : ∀ u ∈ s.replyLate w q code, u.mem.wf = true := by
  have freed : (((s.answered w).unhold w.frec.core q).unblock w.uid).mem.wf = true := by simp [h]
  unfold State.replyLate; dsimp only; split
  · split
    · simpa using freed
    · split
      · simpa using wf_of_eq (State.againLate_wf freed _ _ _) ‹_›
      · simp
  · simpa using freed
  · simp [h]
@[simp] theorem State.replyAccess_wf (w : FaultWait) (code : Nat) : (s.replyAccess w code).mem.wf = true := by
  unfold State.replyAccess; dsimp only; repeat' split
  all_goals simp [h]
theorem State.reply_wf (w : FaultWait) (code : Nat) : ∀ u ∈ s.reply w code, u.mem.wf = true := by
  unfold State.reply; split
  case h_3 => exact State.replyLate_wf h _ _ _
  case h_5 => exact fun u hu => by rw [State.replyEngine_mem _ _ _ _ _ u hu]; exact h
  all_goals simp [h]
@[simp] theorem execFaultReplyArrival_wf : AnswersWf (execFaultReplyArrival s) := by
  unfold execFaultReplyArrival; dsimp only; split
  · simp [h]
  · split
    · split
      · simp [h]
      · exact (answersWf_next _).2 (getD_wf (State.reply_wf (by simp [h]) _ _) h)
    · simp [h]

/-! ## Loader -/

@[simp] theorem execUnknownCommand_wf : AnswersWf (execUnknownCommand s) := by
  unfold execUnknownCommand; split <;> simp [h]
@[simp] theorem State.loadAt_wf (a len hd : Nat) (secs : List (Nat × Section × Nat)) (fs : List Nat) :
    (s.loadAt a len hd secs fs).mem.wf = true := by
  unfold State.loadAt; dsimp only; rw [State.mwDone_mem]
  exact Memory.foldl_wf _ (fun _ _ hm => pagesMem_wf _ _ _ _ _ hm) (tablesMem_wf _ _ _ h)
@[simp] theorem execLoadContainer_wf : AnswersWf (execLoadContainer s) := by
  unfold execLoadContainer; dsimp only; repeat' split
  all_goals simp [h]
@[simp] theorem execUnload_wf : AnswersWf (execUnload s) := by
  unfold execUnload; dsimp only; repeat' split
  all_goals simp [h]
@[simp] theorem execAttest_wf : AnswersWf (execAttest s) := by
  unfold execAttest; split
  · simp [h]
  · simp [h, Memory.setBytes_wf]

/-! ## Halt -/

omit h in
@[simp] theorem State.haltThreads_mem (l : Nat × Nat) : (s.haltThreads l).mem = s.mem :=
  foldl_mem _ _ (fun u x => by
    dsimp only; split
    · exact foldl_mem _ _ (fun v m => by simp) u
    · rfl) s
@[simp] theorem State.fillArea_wf (x : HaltSave) : (s.fillArea x).mem.wf = true := by
  unfold State.fillArea; split
  · exact Memory.setBytes_wf _ _ _ h
  · exact h
@[simp] theorem State.haltDone_wf (f area : Nat) (r : Launch) : (s.haltDone f area r).mem.wf = true := by simp [State.haltDone, h]
@[simp] theorem State.haltStep_wf (f sq area : Nat) : (s.haltStep f sq area).mem.wf = true := by
  unfold State.haltStep; dsimp only; split
  · split
    · simp [h]
    · split
      · simp [h]
      · split
        · split <;> simp [h]
        · exact foldl_wf _ (fun u y hu => by simp [hu]) (by simp [h])
  · split <;> simp [h]
@[simp] theorem execLaunchHalt_wf : AnswersWf (execLaunchHalt s) := by
  unfold execLaunchHalt; split <;> simp [h]
@[simp] theorem execResume_wf : AnswersWf (execResume s) := by
  unfold execResume; dsimp only; repeat' split
  all_goals simp [h]

/-! ## Launch -/

@[simp] theorem State.complete_wf (f sq status : Nat) (r : BitVec 512) : (s.complete f sq status r).mem.wf = true := by
  unfold State.complete; dsimp only; split
  · simp [h]
  · simp [h, Memory.setNat_wf]
@[simp] theorem execLaunchPush_wf : AnswersWf (execLaunchPush s) := by
  unfold execLaunchPush; dsimp only; split <;> simp [h]
@[simp] theorem State.fillVaults_wf (region : Nat) (img : List Byte) : (s.fillVaults region img).mem.wf = true :=
  Memory.foldl_wf _ (fun _ _ hm => Memory.setBytes_wf _ _ _ hm) h
@[simp] theorem State.startLaunch_wf (f sq : Nat) (r : BitVec 512) (k : Container) : (s.startLaunch f sq r k).mem.wf = true := by
  simp [State.startLaunch, h]
@[simp] theorem execLaunchStart_wf : AnswersWf (execLaunchStart s) := by
  unfold execLaunchStart; dsimp only; repeat' split
  all_goals simp [h]
@[simp] theorem execBootBlock_wf : AnswersWf (execBootBlock s) := by
  unfold execBootBlock; dsimp only; repeat' split
  all_goals simp [h]
@[simp] theorem execPlacedThreadStart_wf : AnswersWf (execPlacedThreadStart s) := by
  unfold execPlacedThreadStart; dsimp only; repeat' split
  all_goals simp [h]
@[simp] theorem execCommImageStart_wf : AnswersWf (execCommImageStart s) := by
  unfold execCommImageStart; dsimp only; repeat' split
  all_goals simp [h]
@[simp] theorem State.retireLaunch_wf (f : Nat) (l : Launch) : (s.retireLaunch f l).mem.wf = true := by simp [State.retireLaunch, h]
@[simp] theorem execLaunchRetire_wf : AnswersWf (execLaunchRetire s) := by
  unfold execLaunchRetire; dsimp only; repeat' split
  all_goals simp [h]
@[simp] theorem execReserveSample_wf : AnswersWf (execReserveSample s) := by
  unfold execReserveSample; dsimp only; split <;> simp [h]
@[simp] theorem execMwSwitchRequest_wf : AnswersWf (execMwSwitchRequest s) := by
  unfold execMwSwitchRequest; dsimp only; repeat' split
  all_goals simp [h]
@[simp] theorem execContextResume_wf : AnswersWf (execContextResume s) := by
  unfold execContextResume; dsimp only; repeat' split
  all_goals simp [h]

/-! ## Manage -/

@[simp] theorem execCheckpoint_wf : AnswersWf (execCheckpoint s) := by
  unfold execCheckpoint; dsimp only; repeat' split
  all_goals simp [h, Memory.setNat_wf, State.checkpointMem_wf]
@[simp] theorem State.restoreFrom_wf (b n : Nat) : (s.restoreFrom b n).mem.wf = true := by
  unfold State.restoreFrom; dsimp only
  exact Memory.copy_wf _ _ _ _ (Memory.foldl_wf _ (fun m hub hm => Memory.copy_wf _ _ _ _ hm) h)
@[simp] theorem execRestore_wf : AnswersWf (execRestore s) := by
  unfold execRestore; dsimp only; repeat' split
  all_goals simp [h]
@[simp] theorem execFrameMoveBegin_wf : AnswersWf (execFrameMoveBegin s) := by
  unfold execFrameMoveBegin; dsimp only; repeat' split
  all_goals simp [h]
@[simp] theorem State.moveFrame_wf (hub k tgt ty : Nat) : (s.moveFrame hub k tgt ty).mem.wf = true := by
  unfold State.moveFrame; dsimp only; repeat' split
  all_goals simp [h]
@[simp] theorem execFrameMoveEnd_wf : AnswersWf (execFrameMoveEnd s) := by
  unfold execFrameMoveEnd; dsimp only; repeat' split
  all_goals simp [h]
@[simp] theorem execMwFabWrite_wf : AnswersWf (execMwFabWrite s) := by
  unfold execMwFabWrite; split <;> simp [h]
@[simp] theorem State.setPcsz_wf (hub n : Nat) : (s.setPcsz hub n).mem.wf = true :=
  foldl_wf _ (fun _ t hu => State.dropPiece_wf hu t) h
@[simp] theorem execMwRegisterWrite_wf : AnswersWf (execMwRegisterWrite s) := by
  unfold execMwRegisterWrite; dsimp only; repeat' split
  all_goals simp [h]

/-! ## Outside -/

@[simp] theorem State.dropCopies_wf (r hub f : Nat) (lease : Bool) : (s.dropCopies r hub f lease).mem.wf = true := by
  unfold State.dropCopies; repeat' split
  · exact State.dropPiece_wf (by exact h) _
  all_goals exact h
@[simp] theorem execInvalidation_wf : AnswersWf (execInvalidation s) := by simp [execInvalidation, h]
@[simp] theorem execLeaseRecall_wf : AnswersWf (execLeaseRecall s) := by
  unfold execLeaseRecall; split <;> simp [h]
@[simp] theorem execPageCacheFill_wf : AnswersWf (execPageCacheFill s) := by
  unfold execPageCacheFill; repeat' split
  all_goals simp [h]
@[simp] theorem State.peerWrite_wf (q pa : Nat) (b : List Byte) : (s.peerWrite q pa b).mem.wf = true := by
  simp [State.peerWrite, Memory.setBytes_wf, h]
theorem State.peerDo_wf (a : EvArgs) (pa : Nat) : ∀ u ∈ s.peerDo a pa, u.mem.wf = true := by
  unfold State.peerDo; dsimp only; repeat' split
  all_goals simp [h]
@[simp] theorem execPeerAccessRequest_wf : AnswersWf (execPeerAccessRequest s) := by
  unfold execPeerAccessRequest; extract_lets one
  have served (u : State) (hu : u.mem.wf = true) (a : EvArgs) : ∀ v ∈ one u a, v.mem.wf = true := by
    have done := State.peerDo_wf hu a
    dsimp only [one]; split
    · split
      · simp
      · split
        · simpa using hu
        · exact done _
    · split
      · simpa using hu
      · split
        · simp
        · exact done _
  rw [answersWf_next]; split
  · split
    · exact getD_wf (served _ (by exact h) _) h
    · exact h
  · exact getD_wf (served _ h _) (by exact h)
@[simp] theorem execLinkRetrain_wf : AnswersWf (execLinkRetrain s) := by
  unfold execLinkRetrain; split <;> simp [h]
@[simp] theorem execLinkDown_wf : AnswersWf (execLinkDown s) := by
  unfold execLinkDown; dsimp only; repeat' split
  all_goals simp [h]
@[simp] theorem execThermalThrottle_wf : AnswersWf (execThermalThrottle s) := by
  unfold execThermalThrottle; extract_lets hub d id x u
  have hu : u.mem.wf = true := by simp [u, h]
  clear_value u
  split
  · simp [h]
  · split
    · simpa using hu
    · split <;> exact (answersWf_next _).2 (foldl_wf _ (fun v i hv => by simp [hv]) (by simp [hu]))
@[simp] theorem State.containAll_wf : s.containAll.mem.wf = true :=
  foldl_wf _ (fun u f hu => by split <;> simp [hu]) h
@[simp] theorem execThermalShutdown_wf : AnswersWf (execThermalShutdown s) := by
  unfold execThermalShutdown; split <;> simp [h]
@[simp] theorem execLifetimeLog_wf : AnswersWf (execLifetimeLog s) := by
  unfold execLifetimeLog; split <;> simp [h]
@[simp] theorem execLossOfPower_wf : AnswersWf (execLossOfPower s) := by simp [execLossOfPower, h]
@[simp] theorem execDeviceReset_wf : AnswersWf (execDeviceReset s) := (answersWf_next _).2 (Memory.filter_wf _ _ h)

/-! ## Queues -/

@[simp] theorem execGqpush_wf (a : GOp) (b : GPair) : AnswersWf (execGqpush a b s) := by
  unfold execGqpush; dsimp only; repeat' split
  all_goals simp [h]
@[simp] theorem execGradientElementArrival_wf : AnswersWf (execGradientElementArrival s) := by
  unfold execGradientElementArrival; dsimp only; repeat' split
  all_goals simp [h]
@[simp] theorem execGqpop_wf (d : GOct) (a b : R) (look : Look) : AnswersWf (execGqpop d a b look s) := by
  unfold execGqpop; dsimp only; repeat' split
  all_goals simp [h]
@[simp] theorem execTaskQueueJoin_wf : AnswersWf (execTaskQueueJoin s) := by
  unfold execTaskQueueJoin; dsimp only; repeat' split
  all_goals simp [h]
@[simp] theorem execPostc_wf (a : GOp) (b : R) : AnswersWf (execPostc a b s) := by
  unfold execPostc; extract_lets ea count post
  have posted (u : State) (hu : u.mem.wf = true) (rs : List (List Word)) : (post u rs).mem.wf = true := by
    dsimp only [post]; split
    · simp [h]
    · exact State.thenGo_wf h (fun v => by simp) (by simp [hu])
  clear_value post
  rw [answersWf_next]; split
  · simp [h]
  · split
    · split
      · simp [h]
      · exact posted _ h _
    · split
      · simp [h]
      · split
        · simp [h]
        · split
          · simp [h]
          · split
            all_goals have hu := wf_of_eq (State.image_wf h _ _) ‹_›
            · exact hu
            · exact posted _ hu _
@[simp] theorem execTqtake_wf (d : R) : AnswersWf (execTqtake d s) := by
  unfold execTqtake; dsimp only; repeat' split
  all_goals simp [h]

/-! ## Dispatch -/

@[simp] theorem exec_wf (i : Instr) : AnswersWf (exec i s) := by
  unfold exec; split <;> simp [h]

/-! ## Issue -/

theorem refuseGroup_wf (cur : Cur) (i : Instr) : AnswersWf (refuseGroup s cur i) :=
  (exec_wf (by exact h) i).andThen fun u hu => by split <;> simp [h, hu]
theorem runBoth_wf {u : State} (hu : u.mem.wf = true) (cur : Cur) (l : Latch) (i j : Instr) : AnswersWf (runBoth s u cur l i j) := by
  refine (exec_wf (by exact hu) i).andThen fun v hv => ?_
  split
  · exact refuseGroup_wf h _ _
  · refine (exec_wf (by simp [hv]) j).andThen fun w hw => ?_
    split
    · exact refuseGroup_wf h _ _
    · simp [hw]
theorem runGroup_wf {u : State} (hu : u.mem.wf = true) (cur : Cur) (g : Group) : AnswersWf (runGroup s u cur g) := by
  cases g with
  | lone i =>
    refine (exec_wf (by exact hu) i).andThen fun v hv => ?_
    split
    · exact refuseGroup_wf h _ _
    · simp [hv]
  | pair c a =>
    unfold runGroup; dsimp only; split
    · exact runBoth_wf h hu _ _ _ _
    · exact runBoth_wf h hu _ _ _ _
theorem runMembers_wf {u : State} (hu : u.mem.wf = true) (c t : Nat) (pc : Word) (g : Group) (ms : List (Nat × Nat)) :
    AnswersWf (runMembers s u c t pc g ms) := by
  induction ms generalizing u with
  | nil => simp [runMembers, hu]
  | cons m ms ih =>
    refine (runGroup_wf h hu _ g).andThen fun v hv => ?_
    split
    · simp [hv]
    · exact ih hv
theorem stopMembers_wf (c t : Nat) (pc : Word) (g : Group) (ms : List (Nat × Nat)) : AnswersWf (stopMembers s c t pc g ms) := by
  induction ms generalizing s with
  | nil => simp [stopMembers, h]
  | cons m ms ih =>
    refine (runGroup_wf h (by simp [h]) _ g).andThen fun v hv => ih ?_
    split <;> simp [h, hv]
theorem attempt_wf (c t : Nat) : AnswersWf (attempt s c t) := by
  have landed (ms : List (Nat × Nat)) (g : Group) (u : State) (hu : u.mem.wf = true) :
      (ms.foldl (fun u m => u.landFor m.1 m.2 (absOf (u.thr m.1 m.2).kvwin (groupWrites g))) u).mem.wf = true :=
    foldl_wf _ (fun v m hv => by simp [hv]) hu
  have begun (ms : List (Nat × Nat)) (pc : Word) (u : State) (hu : u.mem.wf = true) :
      (ms.foldl (fun v m => v.begin m.1 m.2 pc) u).mem.wf = true :=
    foldl_wf _ (fun v m hv => by simp [hv]) hu
  unfold attempt; dsimp only; split
  · rename_i u g hf
    have hu : u.mem.wf = true := wf_of_eq (State.fetch_wf h _ _) hf
    split
    · split <;> simp [hu]
    · have hl := landed ((s.members c t).filter (fun m => !(m.1 == c && m.2 == t)) ++ [(c, t)]) g u hu
      split
      · rw [answersWf_next, State.setThr_mem]; exact hl
      · split
        · rw [answersWf_next, State.safeovd_mem]; exact hl
        · refine (runMembers_wf hl (begun _ _ _ hl) _ _ _ _ _).andThen fun w hw => ?_
          split
          · split
            · simp [hw]
            · exact stopMembers_wf hl _ _ _ _ _
          · simp [hw]
  · simp [wf_of_eq (State.fetch_wf h _ _) ‹_›]
theorem State.settle_wf (c : Nat) (ts : List Nat) : AnswersWf (s.settle c ts) := by
  induction ts generalizing s with
  | nil => simp [State.settle, h]
  | cons t ts ih =>
    unfold State.settle; dsimp only; split
    · refine (attempt_wf h _ _).andThen fun u hu => ?_
      split
      · exact ih hu
      · exact ih (by simp [h])
    · exact ih h
omit h in
@[simp] theorem State.stamp_mem (c t : Nat) : (s.stamp c t).mem = s.mem := by
  unfold State.stamp; split
  · split
    · split
      · split <;> simp
      · simp
    · rfl
  · rfl
omit h in
@[simp] theorem State.noteReady_mem (p : Nat → Bool) : (s.noteReady p).mem = s.mem :=
  foldl_mem _ _ (fun _ _ => State.stamp_mem _ _) s
theorem prepare_wf (c : Nat) : AnswersWf (prepare s c) :=
  (State.settle_wf (foldl_wf _ (fun u t hu => by simp [hu]) h) _ _).andThen fun u hu => by simp [hu]
theorem issueReady_wf (c : Nat) : AnswersWf (issueReady s c) := by
  unfold issueReady; split
  · simp [h]
  · exact (attempt_wf h _ _).andThen fun u hu => by simp [hu]
theorem issueCore_wf (c : Nat) : AnswersWf (issueCore s c) := by
  unfold issueCore; split
  · exact attempt_wf (by simp [h]) _ _
  · exact (prepare_wf h c).andThen fun u hu => issueReady_wf hu c

/-! ## Sched -/

theorem runEvent_wf (e : Instr) (a : EvArgs) : AnswersWf (runEvent s e a) := by
  unfold runEvent; split
  · exact (exec_wf (by exact h) _).andThen fun u hu => by simp [hu]
  · simp [h]
theorem pick_wf (p : Pick) : AnswersWf (pick s p) := by
  cases p with
  | event n e a => exact runEvent_wf (by simp [h]) e a
  | issue n c late =>
    refine AnswersWf.andThen ?_ fun u hu => by simp [hu]
    split
    · exact issueCore_wf (by simp [h]) c
    · simp [h]
theorem autoIssue_wf (cs : List Nat) : AnswersWf (autoIssue s cs) := by
  induction cs generalizing s with
  | nil => simp [autoIssue, h]
  | cons c cs ih =>
    refine (prepare_wf h c).andThen fun u hu => ?_
    split
    · exact ih hu
    · exact (issueReady_wf hu c).andThen fun w hw => by simp [hw]
theorem autoMove_wf : AnswersWf (autoMove s) := by
  unfold autoMove; split
  · exact runEvent_wf h _ _
  · exact autoIssue_wf h _
theorem autoStep_wf : AnswersWf (autoStep s) := by
  unfold autoStep; dsimp only; split
  · split
    · exact autoMove_wf (by simp [h])
    · exact runEvent_wf (by simp [h]) _ _
  · exact autoMove_wf (by simp [h])

/-! ## Step -/

theorem step_wf : AnswersWf (step s) := by
  unfold step; split
  · split
    · exact pick_wf (by exact h) _
    · exact autoStep_wf h
  · simp

end

end Sys2Proof.Machine

namespace Sys2Proof.Claims
open Sys2Proof.Machine

/-- Settles O45, by the case of `step_wf` for the state that the step leaves. -/
theorem memoryStaysCanonical : Obligations.MemoryStaysCanonical := by
  unfold Obligations.MemoryStaysCanonical
  exact fun s t h => step_wf h t

end Sys2Proof.Claims
